-- ==== Sys2Proof/Word.lean ====
section
/-!
DEFINITION. The word types of the THS-1536 and the one table type.

A byte is 8 bits, a word 64 bits (R107), a token payload 128 bits (R33). A table is a list of key and value pairs;
its operations are in Machine/Tables.lean.
-/
namespace Sys2Proof

/-- One byte (R5). -/
abbrev Byte := BitVec 8

/-- A 64-bit value: a general register, an operand, a pointer (R107, R13). -/
abbrev Word := BitVec 64

/-- Sparse data by key: keys strictly rising, no entry equal to the value an unlisted key reads as. -/
abbrev Tab (V : Type) := List (Nat × V)

end Sys2Proof
end

