-- ==== Sys2Proof/Syntax.lean ====
section
/-!
DEFINITION. The instructions of the THS-1536: one constructor per row of the table of operations and events.

The rows fall into four kinds: slots of a control-core block (R106 to R113), stream commands (R116 to R118), fabric
nodes (R120 to R125), and events, the steps of agents that have no encoding. An event carries its parameters; the
agents of the other kinds are named by the turn (Machine/State.lean).

Keys used in parameters: cv = 256 · die + cove; ce = 16 · cv + cell; x = 4 · cv + context; a channel is named by its
producer endpoint, 32 · ce + endpoint - 0x20.
-/
namespace Sys2Proof

/-- The operand fields of a stream command (R116): TGT, FLG, SUB and PARAM; the constructor is its SOP. -/
structure CmdW where
  tgt   : BitVec 8
  flg   : BitVec 8
  sub   : BitVec 8
  param : BitVec 96
  deriving DecidableEq, Repr

/-- The operand fields of a node word (R120); the constructor is its operation. `opc1` is nonzero under flag T only. -/
structure NodeW where
  opc1 : BitVec 8
  mode : BitVec 4
  e    : Bool
  x    : Bool
  q    : Bool
  k    : Bool
  v    : Bool
  n    : Bool
  t    : Bool
  inA  : BitVec 12
  inB  : BitVec 12
  inC  : BitVec 12
  out0 : BitVec 12
  out1 : BitVec 12
  imm  : BitVec 40
  deriving DecidableEq, Repr

/-- Where an uncorrected error strikes (R362). -/
inductive ErrSite where
  /-- An HBM line, named by a device physical address. -/
  | hbm (pa : Nat)
  /-- A shore word, named by a shore offset. -/
  | shore (off : Nat)
  /-- A link between coves or dies, with the residencies that have tokens on it. -/
  | mesh (rids : List Nat)
  /-- A peer link. -/
  | peerLink (l : Nat)
  /-- A node word, queue, register or other state of a residency. -/
  | residency (rid : Nat)
  deriving DecidableEq, Repr

/-- The kinds of access another device makes here (R18, R344). -/
inductive PeerKind where
  | read (n : Nat)
  | write (bytes : List Byte)
  | atomic (op : Nat) (v c : BitVec 64)
  deriving DecidableEq, Repr

/-- An access that arrives over a peer link: the queue whose root translates it, its address and its kind. -/
structure PeerReq where
  root : Nat
  va   : BitVec 64
  kind : PeerKind
  deriving DecidableEq, Repr

/-- What the hardware finds while it boots (R393): whether the repair map checks, each stack trains, and the self-test
finds no defect that the map does not cover. -/
structure BootHw where
  mapOk    : Bool
  stacksOk : Bool
  testOk   : Bool
  deriving DecidableEq, Repr

/-- One constructor per row of the table of operations and events. -/
inductive Instr where
  /-- ADD (R148): Control-core slot yields the 64-bit wrapping sum of a and b. -/
  | add (a b p : Byte)
  /-- SUB (R148): Control-core slot yields the 64-bit wrapping difference a minus b. -/
  | sub (a b p : Byte)
  /-- MUL (R148): Control-core slot yields the low 64 bits of a times b. -/
  | mul (a b p : Byte)
  /-- MULH (R148): Control-core slot yields the high 64 bits of the signed 128-bit product. -/
  | mulh (a b p : Byte)
  /-- MULHN (R148): Control-core slot yields the high 64 bits of the unsigned 128-bit product. -/
  | mulhn (a b p : Byte)
  /-- DIV (R148): Control-core slot yields the signed quotient, with the defined results for zero and overflow. -/
  | div (a b p : Byte)
  /-- DIVN (R148): Control-core slot yields the unsigned quotient, all ones when b is zero. -/
  | divn (a b p : Byte)
  /-- REM (R148): Control-core slot yields the signed remainder with the sign of a. -/
  | rem (a b p : Byte)
  /-- REMN (R148): Control-core slot yields the unsigned remainder, a when b is zero. -/
  | remn (a b p : Byte)
  /-- AND (R148): Control-core slot yields the bitwise AND of a and b. -/
  | and (a b p : Byte)
  /-- OR (R148): Control-core slot yields the bitwise OR of a and b. -/
  | or (a b p : Byte)
  /-- XOR (R148): Control-core slot yields the bitwise XOR of a and b. -/
  | xor (a b p : Byte)
  /-- ANDN (R148): Control-core slot yields a AND NOT b. -/
  | andn (a b p : Byte)
  /-- SHL (R148): Control-core slot yields a shifted left by b[5:0], wrapped to 64 bits. -/
  | shl (a b p : Byte)
  /-- SHR (R148): Control-core slot yields a shifted right logically by b[5:0]. -/
  | shr (a b p : Byte)
  /-- SAR (R148): Control-core slot yields a shifted right arithmetically by b[5:0]. -/
  | sar (a b p : Byte)
  /-- ROL (R148): Control-core slot yields a rotated left by b[5:0]. -/
  | rol (a b p : Byte)
  /-- MIN (R148): Control-core slot yields the signed minimum of a and b. -/
  | min (a b p : Byte)
  /-- MAX (R148): Control-core slot yields the signed maximum of a and b. -/
  | max (a b p : Byte)
  /-- MINN (R148): Control-core slot yields the unsigned minimum of a and b. -/
  | minn (a b p : Byte)
  /-- MAXN (R148): Control-core slot yields the unsigned maximum of a and b. -/
  | maxn (a b p : Byte)
  /-- CLZ (R149): Control-core slot yields the count of leading zero bits of a. -/
  | clz (a p : Byte)
  /-- POPC (R149): Control-core slot yields the count of one bits of a. -/
  | popc (a p : Byte)
  /-- SEXT (R149): Control-core slot sign-extends a from the given width, trapping on a width outside 1-64. -/
  | sext (a b p : Byte)
  /-- ZEXT (R149): Control-core slot zero-extends a from the given width, trapping on a width outside 1-64. -/
  | zext (a b p : Byte)
  /-- BEXT (R150): Control-core slot extracts a bit field of a, signed or unsigned, per a field descriptor in EXT operand C. -/
  | bext (a b p c : Byte)
  /-- BINS (R150): Control-core slot inserts the low bits of b into a field of a described by EXT operand C. -/
  | bins (a b p c : Byte)
  /-- SEL (R150): Control-core slot yields a when p is nonzero and b otherwise. -/
  | sel (a b p c : Byte)
  /-- CMP_EQ (R151): Control-core slot yields 1 when a equals b. -/
  | cmpEq (a b p : Byte)
  /-- CMP_NE (R151): Control-core slot yields 1 when a differs from b. -/
  | cmpNe (a b p : Byte)
  /-- CMP_LT (R151): Control-core slot yields 1 when a is less than b as s64. -/
  | cmpLt (a b p : Byte)
  /-- CMP_LE (R151): Control-core slot yields 1 when a is at most b as s64. -/
  | cmpLe (a b p : Byte)
  /-- CMP_LTN (R151): Control-core slot yields 1 when a is less than b as n64. -/
  | cmpLtn (a b p : Byte)
  /-- CMP_LEN (R151): Control-core slot yields 1 when a is at most b as n64. -/
  | cmpLen (a b p : Byte)
  /-- TEST (R151): Control-core slot yields 1 when a AND b is nonzero. -/
  | test (a b p : Byte)
  /-- IMM (R152): Control-core slot yields a sign-extended 24-bit immediate; it always executes. -/
  | imm (i : BitVec 24)
  /-- IMMH (R152): Control-core slot yields a shifted left by 16 bits, with a 16-bit immediate added in; it always executes. -/
  | immh (a : Byte) (i : BitVec 16)
  /-- RDS (R153): Control-core slot yields a barrier counter, a FIFO fill level or the completion counter, as selected by a raw byte. -/
  | rds (r p : Byte)
  /-- RDX (R154): Control-core slot reads a cell lane flag set or the matrix flag set of its cove. -/
  | rdx (a b p : Byte)
  /-- FADD (R155): Control-core slot yields the FP32 sum of a and b, rounded once by FRM. -/
  | fadd (a b p : Byte)
  /-- FSUB (R155): Control-core slot yields the FP32 difference of a and b. -/
  | fsub (a b p : Byte)
  /-- FMUL (R155): Control-core slot yields the FP32 product of a and b. -/
  | fmul (a b p : Byte)
  /-- FFMA (R155): Control-core slot yields a times b plus c in FP32, rounded once. -/
  | ffma (a b p c : Byte)
  /-- FDIV (R155): Control-core slot yields the FP32 quotient of a and b, with DZ on division by zero. -/
  | fdiv (a b p : Byte)
  /-- FSQRT (R155): Control-core slot yields the FP32 square root of a. -/
  | fsqrt (a p : Byte)
  /-- FMIN (R155): Control-core slot yields the IEEE minimumNumber of a and b. -/
  | fmin (a b p : Byte)
  /-- FMAX (R155): Control-core slot yields the IEEE maximumNumber of a and b. -/
  | fmax (a b p : Byte)
  /-- FCMP (R156): Control-core slot yields 1 or 0 for the FP32 comparison condition held in EXT field M. -/
  | fcmp (a b p m : Byte)
  /-- FCVT (R157): Control-core slot performs the conversion selected by EXT field M, with rounding taken from b. -/
  | fcvt (a b p m : Byte)
  /-- FCLASS (R155): Control-core slot yields a one-hot class code of the FP32 value a. -/
  | fclass (a p : Byte)
  /-- LD_B (R158): Control-core load of 1 byte, sign-extended. -/
  | ldB (a b p : Byte)
  /-- LD_H (R158): Control-core load of 2 bytes, sign-extended. -/
  | ldH (a b p : Byte)
  /-- LD_W (R158): Control-core load of 4 bytes, sign-extended. -/
  | ldW (a b p : Byte)
  /-- LD_D (R158): Control-core load of 8 bytes. -/
  | ldD (a b p : Byte)
  /-- LDN_B (R158): Control-core load of 1 byte, zero-extended. -/
  | ldnB (a b p : Byte)
  /-- LDN_H (R158): Control-core load of 2 bytes, zero-extended. -/
  | ldnH (a b p : Byte)
  /-- LDN_W (R158): Control-core load of 4 bytes, zero-extended. -/
  | ldnW (a b p : Byte)
  /-- ST_B (R158): Control-core store of 1 byte, checked at execution and performed at commit step 2. -/
  | stB (a b p : Byte)
  /-- ST_H (R158): Control-core store of 2 bytes, performed at commit step 2. -/
  | stH (a b p : Byte)
  /-- ST_W (R158): Control-core store of 4 bytes, performed at commit step 2. -/
  | stW (a b p : Byte)
  /-- ST_D (R158): Control-core store of 8 bytes, performed at commit step 2. -/
  | stD (a b p : Byte)
  /-- LDR (R158): Control-core slot yields 8 bytes of the block's own constant pool. -/
  | ldr (x : BitVec 16) (p : Byte)
  /-- PREF (R158): Control-core slot hints that the read buffer should hold the line of addr. -/
  | pref (a p : Byte)
  /-- AADD (R161): Control-core atomic add on 8 bytes at commit, with the old value written to g[D]. -/
  | aadd (a b p d : Byte)
  /-- AAND (R161): Control-core atomic AND at commit, with the old value written to g[D]. -/
  | aand (a b p d : Byte)
  /-- AOR (R161): Control-core atomic OR at commit, with the old value written to g[D]. -/
  | aor (a b p d : Byte)
  /-- AXOR (R161): Control-core atomic XOR at commit, with the old value written to g[D]. -/
  | axor (a b p d : Byte)
  /-- AMIN (R161): Control-core atomic signed minimum at commit, with the old value written to g[D]. -/
  | amin (a b p d : Byte)
  /-- AMAX (R161): Control-core atomic signed maximum at commit, with the old value written to g[D]. -/
  | amax (a b p d : Byte)
  /-- AXCHG (R161): Control-core atomic exchange at commit, with the old value written to g[D]. -/
  | axchg (a b p d : Byte)
  /-- ACAS (R161): Control-core atomic compare-and-swap at commit, with the old value written to g[D]. -/
  | acas (a b p c d : Byte)
  /-- BR (R162): Branch to the block at a signed 16-byte offset from the current block, taking effect at commit step 5. -/
  | br (o : BitVec 16) (p : Byte)
  /-- BRI (R162): Branch to the block address a. -/
  | bri (a p : Byte)
  /-- CALL (R162): Branch as BR and write the return block address into the link register at commit step 1. -/
  | call (o : BitVec 16) (p c d : Byte)
  /-- RET (R162): Branch to the block address a, with a return hint to the block cache. -/
  | ret (a p : Byte)
  /-- PUT (R163): Write a value into a general register at commit step 1. -/
  | put (a r p : Byte)
  /-- YIELD (R162): Branch as BR, after which the context enters YIELDWAIT. -/
  | yield (o : BitVec 16) (p : Byte)
  /-- HALT (R162): The context becomes HALTED after commit step 4. -/
  | halt (p : Byte)
  /-- FENCE (R164): Slot completes once earlier committed stores are performed at the scope and the read buffer is emptied. -/
  | fence (r p : Byte)
  /-- WAIT (R165): Slot waits until a tidemark barrier reads 0 or a timeout passes, then yields the counter. -/
  | wait (a p : Byte)
  /-- SIGNAL (R167): Credit a tidemark barrier at commit step 4, after the context's stores are performed at cove scope. -/
  | signal (a b p : Byte)
  /-- BAR (R168): The context arrives at a level barrier at commit step 4 and enters BARWAIT. -/
  | bar (a p : Byte)
  /-- QPOP (R170): Read a part of a token from a token FIFO to the control core, removing it at commit. -/
  | qpop (a p : Byte)
  /-- QPUSH (R171): Push one token of a chosen kind onto a token FIFO from the control core at commit step 4. -/
  | qpush (a b p c : Byte)
  /-- BBARM (R166): Arm a tidemark barrier with a pending-byte count at commit step 1. -/
  | bbarm (a b p : Byte)
  /-- SCMD (R172): Form a stream command from two operands and issue it at commit step 3. -/
  | scmd (a b p : Byte)
  /-- SCMDK (R172): Issue a stream command taken from the block's pool at commit step 3. -/
  | scmdk (x : BitVec 16) (p : Byte)
  /-- SQRY (R173): Yield a snapshot of the state of a stream port or copy queue. -/
  | sqry (a p : Byte)
  /-- TRAP (R174): Trap the block at execution with TRAP_INSN and the given code. -/
  | trap (c : BitVec 16) (p : Byte)
  /-- SYS (R174): At commit, take a SYS_CALL trap in place of the block's exit. -/
  | sys (c : BitVec 16) (p : Byte)
  /-- RDCSR (R175): Yield the value of a control and status register. -/
  | rdcsr (r p : Byte)
  /-- WRCSR (R175): Write a control and status register at commit step 1; a write to XFCLR clears flag sets. -/
  | wrcsr (a r p : Byte)
  /-- ERET (R169): Return from a trap handler: restore the privilege, clear INTRAP and resume at XBLOCK. -/
  | eret (p : Byte)
  /-- XLATE (R176): Yield the translation of a deep address for reading or writing, without trapping. -/
  | xlate (a b p : Byte)
  /-- BLOCK_FETCH (R137): A context fetches and checks its next block after the previous commit ends. -/
  | blockFetch (x : Nat)
  /-- BLOCK_COMMIT (R141): Once one exit is found, the checks pass and FIFO and scoreboard room exist, the block runs its commit steps. -/
  | blockCommit (x : Nat)
  /-- ASYNC_EVENT_TAKE (R146): A pending asynchronous event is taken at an allowed point and enters the handler. -/
  | asyncEventTake (x : Nat)
  /-- YIELDWAIT_END (R162): A context in YIELDWAIT issues again after the other contexts commit or 64 clocks pass. -/
  | yieldwaitEnd (x : Nat)
  /-- WAIT_TIMEOUT (R165): A WAIT slot completes after 4,096 clocks without the barrier reaching 0. -/
  | waitTimeout (x k : Nat)
  /-- PEER_ARRIVAL_MESSAGE (R312): An arrival message for a peer-group barrier is received over the peer links. -/
  | peerArrivalMessage (phase : Bool) (level group dev : Nat)
  /-- TIDEMARK_CREDIT (R166): A credit of n bytes reaches a tidemark barrier and lowers its counter, saturating at 0. -/
  | tidemarkCredit (k : Nat)
  /-- BIND_AFF (R184): Bind a stream port to an affine stream, once a context that uses the port is active. -/
  | bindAff (c : CmdW)
  /-- BIND_IND (R186): Bind a read port to a gather job placed on an undertow engine. -/
  | bindInd (c : CmdW)
  /-- BIND_SCAT (R187): Bind a write port to a scatter job. -/
  | bindScat (c : CmdW)
  /-- BIND_SHORE (R184): Bind a stream port to a stream over shore memory. -/
  | bindShore (c : CmdW)
  /-- UNBIND (R188): Unbind a stream port, at once with ABORT or after its last element. -/
  | unbind (c : CmdW)
  /-- UNBIND_TAKES_EFFECT (R188): A pending UNBIND takes effect once the port's last element is delivered or written; the port emits EOS or deposits its strandline entry. -/
  | unbindTakesEffect (cv p : Nat)
  /-- ARM_COPY (R189): Arm a copy template on a copy queue. -/
  | armCopy (c : CmdW)
  /-- DISARM_COPY (R191): Disarm a copy queue once its started firings are performed and credited. -/
  | disarmCopy (c : CmdW)
  /-- CFG_LOAD (R192): Check an image and load it into a context slot of the selected coves. -/
  | cfgLoad (c : CmdW)
  /-- CFG_SWAP (R195): Mark a context slot as the region's pending swap. -/
  | cfgSwap (c : CmdW)
  /-- CFG_PRED (R196): Write masked entries of the region's next-context table. -/
  | cfgPred (c : CmdW)
  /-- DRAIN (R197): Inject DRAIN into the sources of the region's active context. -/
  | drain (c : CmdW)
  /-- PHASE (R198): Arrive at the phase barrier of a level on behalf of the cove, with a credit at completion. -/
  | phase (c : CmdW)
  /-- TASK_LAUNCH (R199): Enqueue one task record on a task queue. -/
  | taskLaunch (c : CmdW)
  /-- TASK_DEP (R200): Set or lower one of the device's dependence counters. -/
  | taskDep (c : CmdW)
  /-- COUPLE (R201): Set the regulator parameters of a coupled channel, from the end of its current period. -/
  | couple (c : CmdW)
  /-- PERMIT_ADJ (R202): Lower the permits held by the issuing task and return the rest to the pool. -/
  | permitAdj (c : CmdW)
  /-- MSLOT (R203): Load the cove's matrix slot table from a 64-byte block. -/
  | mslot (c : CmdW)
  /-- SAMPLE_CFG (R204): Set the sampling parameters of the issuing cove. -/
  | sampleCfg (c : CmdW)
  /-- UMX_OPEN (R205): Open an unmasking round on an engine of the issuing die. -/
  | umxOpen (c : CmdW)
  /-- UMX_CLOSE (R206): Close an unmasking round once its outstanding writes are performed at die scope. -/
  | umxClose (c : CmdW)
  /-- XINV (R207): Invalidate translations in every translation cache and credit a barrier when done. -/
  | xinv (c : CmdW)
  /-- FRESUME (R208): Resume, retry or skip the agent of an open fault record. -/
  | fresume (c : CmdW)
  /-- PARK (R358): Stop a frozen, faulted or overdue residency, save its state and free its coves. -/
  | park (c : CmdW)
  /-- UNPARK (R360): Restore a parked task onto its coves, or discard it. -/
  | unpark (c : CmdW)
  /-- LOG_DRAIN (R210): Move the residency's strandline entries to memory, oldest first. -/
  | logDrain (c : CmdW)
  /-- QUIESCE (R211): Run one quiescence test over the region and write its result. -/
  | quiesce (c : CmdW)
  /-- CKPT (R400): Start the checkpoint engine writing deep memory, fully or by ranges, to the safe tier. -/
  | ckpt (c : CmdW)
  /-- SHORE_WIN (R213): Set, change or remove a granted shore window of a residency. -/
  | shoreWin (c : CmdW)
  /-- CHECKPOINT_DONE (R401): Once every checkpoint byte is performed at system scope, DONE is written and a class-4 event is raised. -/
  | checkpointDone
  /-- TOKEN_ARRIVE (R45): A token or settle marker arrives at an input queue and is appended or annihilated by Debt. -/
  | tokenArrive (ch : Nat)
  /-- ANTI_TOKEN_ARRIVE (R48): An anti-token reaches its channel's producer, which discards it, raises Dout or marks a load owed. -/
  | antiTokenArrive (ch : Nat)
  /-- CREDIT_RETURN (R36): A credit returned on the reverse lane reaches the producer endpoint. -/
  | creditReturn (ch : Nat)
  /-- CANCEL_FIRING (R49): A pure node cancels its next firing: settle markers on its outputs and Anti on its inputs. -/
  | cancelFiring (n : NodeW)
  /-- DRAIN_INJECT (R52): A DRAIN token is injected at a source once that source has emitted EOS. -/
  | drainInject (rid k : Nat)
  /-- PHASE_END (R78): A phase ends when every sink has taken DRAIN and every cell has drained; the next context is chosen and activated, or the region ends. -/
  | phaseEnd (rid : Nat)
  /-- DEADLOCK_DETECT (R57): After 2^16 quiet clocks with work held, the detector writes a deadlock report and raises the event. -/
  | deadlockDetect (rid : Nat)
  /-- ROUTER_BLOCKED_ESCAPE (R61): A router blocked for 256 clocks that holds the lifeline token moves its oldest blocked packet onto the escape lane. -/
  | routerBlockedEscape (die router : Nat)
  /-- NODE_ADD (R221): Node fires and emits the lane-wise wrapping sum. -/
  | nodeAdd (n : NodeW)
  /-- NODE_SUB (R221): Node fires and emits the lane-wise wrapping difference. -/
  | nodeSub (n : NodeW)
  /-- NODE_MUL (R221): Node fires and emits the lane-wise wrapping product. -/
  | nodeMul (n : NodeW)
  /-- NODE_MULH (R221): Node fires and emits the high half of each lane product. -/
  | nodeMulh (n : NodeW)
  /-- NODE_MAD (R221): Node fires and emits a times b plus c per lane, wrapped. -/
  | nodeMad (n : NodeW)
  /-- NODE_ABS (R221): Node fires and emits the lane-wise magnitude. -/
  | nodeAbs (n : NodeW)
  /-- NODE_NEG (R221): Node fires and emits the lane-wise negation. -/
  | nodeNeg (n : NodeW)
  /-- NODE_MIN (R221): Node fires and emits the lane-wise minimum. -/
  | nodeMin (n : NodeW)
  /-- NODE_MAX (R221): Node fires and emits the lane-wise maximum. -/
  | nodeMax (n : NodeW)
  /-- NODE_AND (R221): Node fires and emits the lane-wise AND. -/
  | nodeAnd (n : NodeW)
  /-- NODE_OR (R221): Node fires and emits the lane-wise OR. -/
  | nodeOr (n : NodeW)
  /-- NODE_XOR (R221): Node fires and emits the lane-wise XOR. -/
  | nodeXor (n : NodeW)
  /-- NODE_NOT (R221): Node fires and emits the lane-wise complement. -/
  | nodeNot (n : NodeW)
  /-- NODE_SHL (R221): Node fires and emits each lane shifted left. -/
  | nodeShl (n : NodeW)
  /-- NODE_SHR (R221): Node fires and emits each lane shifted right logically. -/
  | nodeShr (n : NodeW)
  /-- NODE_SAR (R221): Node fires and emits each lane shifted right arithmetically. -/
  | nodeSar (n : NodeW)
  /-- NODE_CLAMP (R221): Node fires and emits each lane clamped between b and c. -/
  | nodeClamp (n : NodeW)
  /-- NODE_CMP (R222): Node fires and emits a lane mask or a CTRL token for an integer comparison. -/
  | nodeCmp (n : NodeW)
  /-- NODE_SEL (R223): Node fires and selects a or b, whole or lane-wise, by c. -/
  | nodeSel (n : NodeW)
  /-- NODE_ADDS (R221): Node fires and emits the lane-wise saturating sum. -/
  | nodeAdds (n : NodeW)
  /-- NODE_SUBS (R221): Node fires and emits the lane-wise saturating difference. -/
  | nodeSubs (n : NodeW)
  /-- NODE_FADD (R224): Node fires and emits the floating-point sum per lane, rounded once. -/
  | nodeFadd (n : NodeW)
  /-- NODE_FSUB (R224): Node fires and emits the floating-point difference per lane. -/
  | nodeFsub (n : NodeW)
  /-- NODE_FMUL (R224): Node fires and emits the floating-point product per lane. -/
  | nodeFmul (n : NodeW)
  /-- NODE_FMA (R224): Node fires and emits a times b plus c per lane, rounded once. -/
  | nodeFma (n : NodeW)
  /-- NODE_FMIN (R224): Node fires and emits minimumNumber per lane. -/
  | nodeFmin (n : NodeW)
  /-- NODE_FMAX (R224): Node fires and emits maximumNumber per lane. -/
  | nodeFmax (n : NodeW)
  /-- FRCP (R224): Node fires and emits the reciprocal per lane. -/
  | frcp (n : NodeW)
  /-- FRSQ (R224): Node fires and emits the reciprocal square root per lane. -/
  | frsq (n : NodeW)
  /-- FEXP2 (R224): Node fires and emits 2 to the power a per lane. -/
  | fexp2 (n : NodeW)
  /-- FLOG2 (R224): Node fires and emits log2 a per lane. -/
  | flog2 (n : NodeW)
  /-- NODE_FCMP (R226): Node fires and emits a lane mask or a CTRL token for a floating-point comparison. -/
  | nodeFcmp (n : NodeW)
  /-- NODE_FDIV (R224): Node fires and emits the quotient per lane. -/
  | nodeFdiv (n : NodeW)
  /-- CVT (R228): Node fires and converts lanes between formats, including MX blocks. -/
  | cvt (n : NodeW)
  /-- PACKB (R231): Node gathers 32 values and emits a DE8 or DE4 block. -/
  | packb (n : NodeW)
  /-- UNPACKB (R232): Node fires and emits the elements of a dual-exponent block. -/
  | unpackb (n : NodeW)
  /-- PERM (R233): Node fires and rearranges lanes by pattern or selector. -/
  | perm (n : NodeW)
  /-- REDUCE (R234): Node fires and folds the valid lanes of one token into lane 0. -/
  | reduce (n : NodeW)
  /-- ACC (R236): Node fires and accumulates lanes across tokens, emitting at its END delimiter. -/
  | acc (n : NodeW)
  /-- SCAN (R235): Node fires and emits the prefix results within a token. -/
  | scan (n : NodeW)
  /-- HDR (R237): Node fires and inserts or strips tile headers. -/
  | hdr (n : NodeW)
  /-- SPLAT (R238): Node fires and fills every lane with one value taken from its source. -/
  | splat (n : NodeW)
  /-- FORK (R242): Node fires and emits its input on both outputs. -/
  | fork (n : NodeW)
  /-- STEER (R72): Node fires and sends data to OUT_0 or OUT_1 by a CTRL token. -/
  | steer (n : NodeW)
  /-- MERGE (R73): Node fires and takes the oldest token of the arm that the control selects. -/
  | merge (n : NodeW)
  /-- MUX (R243): Node fires and emits the selected arm, early when flag E allows, cancelling the other. -/
  | mux (n : NodeW)
  /-- JOIN (R244): Node fires on all inputs and emits the token of IN_A. -/
  | join (n : NodeW)
  /-- GATE (R245): Node fires and passes or drops data by a CTRL token. -/
  | gate (n : NodeW)
  /-- DROP (R246): Node fires and forwards or discards a token by kind. -/
  | drop (n : NodeW)
  /-- SOURCE (R247): Node fires and emits one token of a fixed sequence read from its bank. -/
  | source (n : NodeW)
  /-- SINK (R248): Node fires and discards its input token. -/
  | sink (n : NodeW)
  /-- CCHAIN (R64): Counter chain fires and emits the next IDX token of a pass, subject to II and LIMIT. -/
  | cchain (n : NodeW)
  /-- CARRY (R67): Node fires and emits the initial or back-edge value by its control token. -/
  | carry (n : NodeW)
  /-- EXIT (R69): Node fires in RUN or FLUSH state, emitting the loop result or cancelling later iterations. -/
  | exit (n : NodeW)
  /-- TILE (R249): Node fires and inserts EOF and EOT delimiters into a flat stream. -/
  | tile (n : NodeW)
  /-- ISECT (R250): Node fires and merges two sparse fibres, emitting only matching coordinates. -/
  | isect (n : NodeW)
  /-- UNION (R250): Node fires and merges two sparse fibres, emitting every coordinate. -/
  | union (n : NodeW)
  /-- CTXSEL (R77): Node fires and latches a bit of the predicate vector. -/
  | ctxsel (n : NodeW)
  /-- ANDE (R251): Node fires and emits the AND of its CTRL inputs, early when flag E allows. -/
  | ande (n : NodeW)
  /-- ORE (R251): Node fires and emits the OR of its CTRL inputs, early when flag E allows. -/
  | ore (n : NodeW)
  /-- SQUASH (R252): Node fires and passes the accepted prefix of a round, cancelling the rest. -/
  | squash (n : NodeW)
  /-- SYNC (R253): Node fires and credits a tidemark barrier, or passes a token once the barrier reads 0. -/
  | sync (n : NodeW)
  /-- LD (R257): Load node fires, issuing a load and/or emitting its oldest returned reply. -/
  | ld (n : NodeW)
  /-- ST (R258): Store node fires and issues the writes of the valid lanes. -/
  | st (n : NodeW)
  /-- ATOM (R259): Node fires and performs one indivisible read-modify-write, emitting the old value. -/
  | atom (n : NodeW)
  /-- PIN (R260): Port node fires and emits the next token that its read port delivers. -/
  | pin (n : NodeW)
  /-- POUT (R260): Port node fires and hands a token to its write port, then emits it. -/
  | pout (n : NodeW)
  /-- GATHER (R260): Port node fires and emits the next token of its gather job. -/
  | gather (n : NodeW)
  /-- SCATTER (R260): Port node fires and hands a token to its scatter job, then emits it. -/
  | scatter (n : NodeW)
  /-- COPYFIRE (R261): Node fires and emits its token into a copy queue. -/
  | copyfire (n : NodeW)
  /-- DIRTY (R262): Node fires and tests, and optionally clears, one dirty-map bit. -/
  | dirty (n : NodeW)
  /-- ORD (R263): Node passes a token once the memory operations before it are performed at its scope. -/
  | ord (n : NodeW)
  /-- MMA (R274): Node fires and places a matrix command or a control token into the plane's control queue. -/
  | mma (n : NodeW)
  /-- MXSEQ (R275): Node fires and turns an IDX token into a matrix command. -/
  | mxseq (n : NodeW)
  /-- SORTCE (R281): Node takes pairs of a segment and emits them sorted at the segment's end. -/
  | sortce (n : NodeW)
  /-- TOPK (R282): Node keeps the top k of a row and emits them at its EOT. -/
  | topk (n : NodeW)
  /-- CUMTHR (R284): Node samples one pair from a sorted list by a cumulative threshold. -/
  | cumthr (n : NodeW)
  /-- ACCEPT (R285): Node decides a round of speculative drafts and emits the accepted count. -/
  | accept (n : NodeW)
  /-- RESID (R286): Node samples from the residual of two aligned rows. -/
  | resid (n : NodeW)
  /-- UMRANK (R288): Node feeds a step of candidates to an unmasking engine and emits its commits and status. -/
  | umrank (n : NodeW)
  /-- HEADMASK (R287): Node turns a sequence mask into draft-head controls. -/
  | headmask (n : NodeW)
  /-- MATRIX_COMMAND_PERFORM (R277): The matrix node performs the next command of a plane during its turn. -/
  | matrixCommandPerform (cv plane : Nat)
  /-- MATRIX_EMIT (R278): The emit buffer delivers a tile of accumulator tokens to the plane's result consumer. -/
  | matrixEmit (cv plane : Nat)
  /-- MATRIX_TURN_END (R279): A matrix slot turn expires and the arrays pass to the next valid entry. -/
  | matrixTurnEnd (cv : Nat)
  /-- WAVE_ACCEPT (R265): The memory interface accepts one acceptable wave record and issues its access. -/
  | waveAccept (ce : Nat)
  /-- MEMORY_REPLY (R256): A memory reply returns to its requesting node or port. -/
  | memoryReply (id : Nat)
  /-- PORT_ELEMENT_ISSUE (R185): A bound port translates and issues the access of its next element. -/
  | portElementIssue (cv p : Nat)
  /-- COPY_QUEUE_TOKEN (R190): A copy queue takes a token, starting a firing on the trigger kind. -/
  | copyQueueToken (cv q : Nat)
  /-- GATHER_ELEMENT (R186): An undertow engine reads an index and the element it names, diverting faulting ones to backwash. -/
  | gatherElement (job : Nat)
  /-- SCATTER_ELEMENT (R187): A scatter job writes or atomically adds one element at its indexed target. -/
  | scatterElement (job : Nat)
  /-- UMX_STEP (R375): An unmasking engine begins a step, ranks candidates and applies mask, staleness and dirty writes. -/
  | umxStep (eng : Nat)
  /-- TRANSLATION_WALK (R337): A page-table walk completes with a translation or a fault cause. -/
  | translationWalk (k : Nat)
  /-- RECORD_RELEASE (R340): A fault record returns to STATE 0 and a freeze waiting for a record has its record written. -/
  | recordRelease (idx : Nat)
  /-- FATAL_FAULT (R354): A fatal fault stops the residency, halts its contexts and fences its shore slices. -/
  | fatalFault (k : Nat)
  /-- DISPATCH_DECISION (R317): Every 8 clocks the arbiter may dispatch one head record and place it. -/
  | dispatchDecision
  /-- PRIORITY_AGING (R317): A head record waiting 2^16 clocks has its effective priority lowered by 1. -/
  | priorityAging (q : Nat)
  /-- CANDIDATE_BLOCKING (R317): A candidate undispatched for 2^20 clocks becomes blocking. -/
  | candidateBlocking (q : Nat)
  /-- TASK_RETIRE (R324): A task whose contexts are halted and region inactive retires and releases its writes and resources. -/
  | taskRetire (rid : Nat)
  /-- WATCHDOG_EXPIRY (R323): A task reaching its CYCLES limit raises one watchdog event and record. -/
  | watchdogExpiry (rid : Nat)
  /-- REGULATOR_PERIOD (R326): At the last clock of a period the coupling regulator updates the end weights. -/
  | regulatorPeriod (rid k : Nat)
  /-- PERMIT_WINDOW (R332): At the end of a 1,024-clock window a task drawing beyond its permits is gated. -/
  | permitWindow (rid : Nat)
  /-- POWER_STRETCH (R333): A die over its power share for 2^16 clocks is clock-stretched and a power event is raised. -/
  | powerStretch (die power : Nat)
  /-- THERMAL_THROTTLE (R399): Junction temperature reaching 100 C stretches the hottest die and raises a class-3 event. -/
  | thermalThrottle (die power : Nat)
  /-- THERMAL_TRIP (R399): Junction temperature reaching 110 C powers the package down. -/
  | thermalTrip
  /-- CORR_SUM (R362): Every 2^24 clocks nonzero corrected-error counts are reported in one record. -/
  | corrSum
  /-- UNCORRECTED_ERROR (R362): An uncorrected error poisons memory, faults a link or faults the residency fatally. -/
  | uncorrectedError (e : ErrSite)
  /-- PATROL_SCRUB (R364): The scrub reads an HBM row and may start sparing it or propose a repair. -/
  | patrolScrub (stack row : Nat) (corrected spare : Bool)
  /-- ROW_SPARED (R364): After the row copy ends the remap is committed and a record is written. -/
  | rowSpared (stack row : Nat)
  /-- BUCKET_DECAY (R364): Every 2^24 clocks each row's error bucket falls by 1. -/
  | bucketDecay
  /-- LINK_DOWN (R391): A link with retries exhausted leaves every mask, poisons in-flight accesses and raises an event. -/
  | linkDown (l : Nat)
  /-- PEER_LINK_UP (R388): A peer link comes up and a class-5 event is raised. -/
  | peerLinkUp (l : Nat)
  /-- PEER_REQUEST (R18): A peer access arrives from another device and is translated and performed locally. -/
  | peerRequest (q : PeerReq)
  /-- HOST_MEMORY_ACCESS (R293): A host read or write of device HBM over CXL.mem reaches the base die. -/
  | hostMemoryAccess (write : Bool) (pa : Nat) (bytes : List Byte)
  /-- LAUNCH (R385): A host write to a launch port reads the launch record and enqueues the first task. -/
  | launch (q : Nat) (a : BitVec 64)
  /-- EVTAIL (R389): A host write of EVTAIL frees ring space and lets held event entries be written. -/
  | evtail (v : BitVec 64)
  /-- EVENT_ENTRY (R388): An event entry is written to the host ring and its MSI-X message is sent. -/
  | eventEntry
  /-- REGISTER_WRITE (R383): A host write to a BAR0 register with no behaviour of its own stores or is ignored. -/
  | registerWrite (off : Nat) (v : BitVec 64)
  /-- RESET (R393): After reset the device verifies firmware, measures, repairs, self-tests and reaches ready or fails. -/
  | reset (h : BootHw)
  /-- GET_VERSION (R395): SPDM request answered with the supported versions. -/
  | getVersion
  /-- GET_CAPABILITIES (R395): SPDM request answered with the device capabilities. -/
  | getCapabilities
  /-- NEGOTIATE_ALGORITHMS (R395): SPDM request that negotiates SLH-DSA and SHAKE256. -/
  | negotiateAlgorithms
  /-- GET_DIGESTS (R395): SPDM request answered with certificate chain digests. -/
  | getDigests
  /-- GET_CERTIFICATE (R395): SPDM request answered with the device identity chain. -/
  | getCertificate (slot : Nat)
  /-- CHALLENGE (R395): SPDM challenge answered with a signed response. -/
  | challenge (slot : Nat) (nonce : List Byte)
  /-- GET_MEASUREMENTS (R395): SPDM request answered with the component digests or the chained measurement. -/
  | getMeasurements (idx : Nat)
  /-- UNSUPPORTED_REQUEST (R395): Any other SPDM request is answered with ERROR UnsupportedRequest. -/
  | unsupportedRequest (code : Byte)
  /-- IMAGE_TRANSFER (R396): In recovery a vendor-defined image transfer is verified before any flash byte is written. -/
  | imageTransfer (img : List Byte)
  /-- REPAIR_MAP_REWRITE (R397): A DOE vendor request rewrites the repair map, taking effect at the next reset. -/
  | repairMapRewrite (m : List Byte)
  /-- HCMD1_WRITE (R387): A host write of HCMD1 checks the mailbox command formed with HCMD0 and enters it in the device service scoreboard, or sets HCMDST.CAUSE when the mailbox is full or a check fails. -/
  | hcmd1Write (v : BitVec 64)
  /-- CLOCK_STRETCHING_END (R333): A clock-stretched die resumes full clock pulses once its measured power falls back below its share of the package limit. -/
  | clockStretchingEnd (die power : Nat)
  deriving DecidableEq, Repr, Inhabited

/-- What the hardware notices by itself while clocks pass: it is counted or reported, and nothing else of the device changes. -/
inductive Sensed where
  /-- A corrected error in an HBM row that a demand read has met (R364); `spare` when the stack has a spare row left. -/
  | row (stack row : Nat) (spare : Bool)
  /-- A corrected error in any other unit, by a number of its own: shore memory, a link, a node word, a queue, a context, a register (R362). -/
  | unit (u : Nat)
  /-- A cove, cell, TSV lane or mesh wire whose retirement the device proposes (R365): the cell of LOC and what AUX holds. -/
  | defect (loc at_ : Nat)
  /-- The packet at place `i` of those on their way advances to router `r`, a neighbour of the one it stands at (R61). -/
  | hop (i r : Nat)
  deriving DecidableEq, Repr, Inhabited

/-- Which agent a turn gives the next step to. -/
inductive Who where
  /-- Slot `k` of the block in flight of context `x`. -/
  | slot (x k : Nat)
  /-- Cell `ce`: one firing or cancellation of the node that its arbitration picks (R40, R325). -/
  | cell (ce : Nat)
  /-- The command at the head of scoreboard `sb` (R177): 128 · cv + index, or 262144 for the host mailbox (R387). -/
  | cmd (sb : Nat)
  /-- An event, with its parameters. -/
  | event (i : Instr)
  deriving DecidableEq, Repr, Inhabited

/-- One turn: `dt` clocks pass, in which the hardware notices what `sensed` lists and packets advance as it says, then one agent makes one step. -/
structure Turn where
  dt     : Nat
  who    : Who
  sensed : List Sensed
  deriving DecidableEq, Repr, Inhabited

end Sys2Proof
end

