-- ==== Sys2Proof/WellFormed.lean ====
section
/-!
DEFINITION. Which instructions are well formed on their own: operand and predicate bytes that are assigned (R107, R109), raw
bytes within their ranges (R108, R111, R113), command targets within theirs (R118), and the channel identifiers and the second
entry of a node word (R121, R126). What depends on the place of a slot (R107, R110) or on an image (R59, R122) is checked
where the block is fetched or the image is loaded.
-/
namespace Sys2Proof

/-- An operand byte that is not reserved (R107). -/
def opOk (b : Byte) : Bool := decide (b.toNat < 0xE8)

/-- A predicate byte that is not reserved (R109). -/
def predOk (b : Byte) : Bool := decide (b.toNat ≠ 0x7F)

/-- A raw byte within its range (R108). -/
def rawOk (lo hi : Nat) (b : Byte) : Bool := decide (lo ≤ b.toNat ∧ b.toNat ≤ hi)

/-- The identifier of a channel field (R120). -/
def chanId (f : BitVec 12) : Nat := f.toNat / 16

/-- The sticky count of an input field (R120). -/
def sticky (f : BitVec 12) : Nat := f.toNat % 16

/-- A channel identifier allowed in IN_A, IN_B, IN_C (R121). -/
def inIdOk (c : Nat) : Bool :=
  decide (c < 0x20 ∨ c = 0x91 ∨ (0xA8 ≤ c ∧ c ≤ 0xAF) ∨ c = 0xFF)

/-- A channel identifier allowed in OUT_0, OUT_1 (R121). -/
def outIdOk (c : Nat) : Bool :=
  decide ((0x20 ≤ c ∧ c ≤ 0x3F) ∨ (0x50 ≤ c ∧ c ≤ 0x8F) ∨ c = 0x90 ∨ (0x92 ≤ c ∧ c ≤ 0x9F) ∨ (0xA0 ≤ c ∧ c ≤ 0xA7)
    ∨ c = 0xFE ∨ c = 0xFF)

/-- An input field that R121 allows: its identifier, and no sticky count on none. -/
def inOk (f : BitVec 12) : Bool := inIdOk (chanId f) && (chanId f != 0xFF || sticky f == 0)

/-- An output field that R121 allows: its identifier and zero options. -/
def outOk (f : BitVec 12) : Bool := outIdOk (chanId f) && sticky f == 0

/-- The channel fields of a node, and OPC1 zero without T (R120, R121). -/
def NodeW.wf (n : NodeW) : Bool :=
  inOk n.inA && inOk n.inB && inOk n.inC && outOk n.out0 && outOk n.out1 && (n.t || n.opc1 == 0)

/-- Whether an instruction is well formed on its own. Events are the device's own steps and carry no encoding. -/
def Instr.wf : Instr → Bool
  | .add a b p => opOk a && opOk b && predOk p
  | .sub a b p => opOk a && opOk b && predOk p
  | .mul a b p => opOk a && opOk b && predOk p
  | .mulh a b p => opOk a && opOk b && predOk p
  | .mulhn a b p => opOk a && opOk b && predOk p
  | .div a b p => opOk a && opOk b && predOk p
  | .divn a b p => opOk a && opOk b && predOk p
  | .rem a b p => opOk a && opOk b && predOk p
  | .remn a b p => opOk a && opOk b && predOk p
  | .and a b p => opOk a && opOk b && predOk p
  | .or a b p => opOk a && opOk b && predOk p
  | .xor a b p => opOk a && opOk b && predOk p
  | .andn a b p => opOk a && opOk b && predOk p
  | .shl a b p => opOk a && opOk b && predOk p
  | .shr a b p => opOk a && opOk b && predOk p
  | .sar a b p => opOk a && opOk b && predOk p
  | .rol a b p => opOk a && opOk b && predOk p
  | .min a b p => opOk a && opOk b && predOk p
  | .max a b p => opOk a && opOk b && predOk p
  | .minn a b p => opOk a && opOk b && predOk p
  | .maxn a b p => opOk a && opOk b && predOk p
  | .sext a b p => opOk a && opOk b && predOk p
  | .zext a b p => opOk a && opOk b && predOk p
  | .cmpEq a b p => opOk a && opOk b && predOk p
  | .cmpNe a b p => opOk a && opOk b && predOk p
  | .cmpLt a b p => opOk a && opOk b && predOk p
  | .cmpLe a b p => opOk a && opOk b && predOk p
  | .cmpLtn a b p => opOk a && opOk b && predOk p
  | .cmpLen a b p => opOk a && opOk b && predOk p
  | .test a b p => opOk a && opOk b && predOk p
  | .rdx a b p => opOk a && opOk b && predOk p
  | .fadd a b p => opOk a && opOk b && predOk p
  | .fsub a b p => opOk a && opOk b && predOk p
  | .fmul a b p => opOk a && opOk b && predOk p
  | .fdiv a b p => opOk a && opOk b && predOk p
  | .fmin a b p => opOk a && opOk b && predOk p
  | .fmax a b p => opOk a && opOk b && predOk p
  | .ldB a b p => opOk a && opOk b && predOk p
  | .ldH a b p => opOk a && opOk b && predOk p
  | .ldW a b p => opOk a && opOk b && predOk p
  | .ldD a b p => opOk a && opOk b && predOk p
  | .ldnB a b p => opOk a && opOk b && predOk p
  | .ldnH a b p => opOk a && opOk b && predOk p
  | .ldnW a b p => opOk a && opOk b && predOk p
  | .stB a b p => opOk a && opOk b && predOk p
  | .stH a b p => opOk a && opOk b && predOk p
  | .stW a b p => opOk a && opOk b && predOk p
  | .stD a b p => opOk a && opOk b && predOk p
  | .signal a b p => opOk a && opOk b && predOk p
  | .bbarm a b p => opOk a && opOk b && predOk p
  | .scmd a b p => opOk a && opOk b && predOk p
  | .xlate a b p => opOk a && opOk b && predOk p
  | .clz a p => opOk a && predOk p
  | .popc a p => opOk a && predOk p
  | .fsqrt a p => opOk a && predOk p
  | .fclass a p => opOk a && predOk p
  | .pref a p => opOk a && predOk p
  | .bri a p => opOk a && predOk p
  | .ret a p => opOk a && predOk p
  | .wait a p => opOk a && predOk p
  | .bar a p => opOk a && predOk p
  | .qpop a p => opOk a && predOk p
  | .sqry a p => opOk a && predOk p
  | .bext a b p c => opOk a && opOk b && predOk p && opOk c
  | .bins a b p c => opOk a && opOk b && predOk p && opOk c
  | .sel a b p c => opOk a && opOk b && predOk p && opOk c
  | .ffma a b p c => opOk a && opOk b && predOk p && opOk c
  | .qpush a b p c => opOk a && opOk b && predOk p && opOk c
  | .fcmp a b p m => opOk a && opOk b && predOk p && rawOk 0 5 m
  | .fcvt a b p m => opOk a && opOk b && predOk p && rawOk 0 7 m
  | .aadd a b p d => opOk a && opOk b && predOk p && rawOk 0 63 d
  | .aand a b p d => opOk a && opOk b && predOk p && rawOk 0 63 d
  | .aor a b p d => opOk a && opOk b && predOk p && rawOk 0 63 d
  | .axor a b p d => opOk a && opOk b && predOk p && rawOk 0 63 d
  | .amin a b p d => opOk a && opOk b && predOk p && rawOk 0 63 d
  | .amax a b p d => opOk a && opOk b && predOk p && rawOk 0 63 d
  | .axchg a b p d => opOk a && opOk b && predOk p && rawOk 0 63 d
  | .acas a b p c d => opOk a && opOk b && predOk p && opOk c && rawOk 0 63 d
  | .imm _ => true
  | .immh a _ => opOk a
  | .rds r p => rawOk 0 80 r && predOk p
  | .fence r p => rawOk 2 7 r && predOk p
  | .rdcsr r p => rawOk 0 12 r && predOk p
  | .put a r p => opOk a && rawOk 0 63 r && predOk p
  | .wrcsr a r p => opOk a && rawOk 0 12 r && predOk p
  | .br _ p => predOk p
  | .yield _ p => predOk p
  | .call _ p c d => predOk p && opOk c && rawOk 0 63 d
  | .ldr _ p => predOk p
  | .scmdk _ p => predOk p
  | .trap _ p => predOk p
  | .sys _ p => predOk p
  | .halt p => predOk p
  | .eret p => predOk p
  | .bindAff c => rawOk 64 79 c.tgt
  | .bindInd c => rawOk 64 79 c.tgt
  | .bindScat c => rawOk 64 79 c.tgt
  | .bindShore c => rawOk 64 79 c.tgt
  | .unbind c => rawOk 64 79 c.tgt
  | .armCopy c => rawOk 80 143 c.tgt
  | .disarmCopy c => rawOk 80 143 c.tgt
  | .cfgLoad c => rawOk 0 3 c.tgt
  | .cfgSwap c => rawOk 0 3 c.tgt
  | .cfgPred c => rawOk 0 0 c.tgt
  | .drain c => rawOk 0 0 c.tgt
  | .phase c => rawOk 2 7 c.tgt
  | .taskLaunch c => rawOk 0 255 c.tgt
  | .taskDep c => rawOk 0 0 c.tgt
  | .couple c => rawOk 0 0 c.tgt
  | .permitAdj c => rawOk 0 0 c.tgt
  | .mslot c => rawOk 0 0 c.tgt
  | .sampleCfg c => rawOk 0 0 c.tgt
  | .umxOpen c => rawOk 0 3 c.tgt
  | .umxClose c => rawOk 0 3 c.tgt
  | .xinv c => rawOk 0 0 c.tgt
  | .fresume c => rawOk 0 0 c.tgt
  | .park c => rawOk 0 0 c.tgt
  | .unpark c => rawOk 0 0 c.tgt
  | .logDrain c => rawOk 0 0 c.tgt
  | .quiesce c => rawOk 0 0 c.tgt
  | .ckpt c => rawOk 0 0 c.tgt
  | .shoreWin c => rawOk 0 7 c.tgt
  | .nodeAdd n => n.wf
  | .nodeSub n => n.wf
  | .nodeMul n => n.wf
  | .nodeMulh n => n.wf
  | .nodeMad n => n.wf
  | .nodeAbs n => n.wf
  | .nodeNeg n => n.wf
  | .nodeMin n => n.wf
  | .nodeMax n => n.wf
  | .nodeAnd n => n.wf
  | .nodeOr n => n.wf
  | .nodeXor n => n.wf
  | .nodeNot n => n.wf
  | .nodeShl n => n.wf
  | .nodeShr n => n.wf
  | .nodeSar n => n.wf
  | .nodeClamp n => n.wf
  | .nodeCmp n => n.wf
  | .nodeSel n => n.wf
  | .nodeAdds n => n.wf
  | .nodeSubs n => n.wf
  | .nodeFadd n => n.wf
  | .nodeFsub n => n.wf
  | .nodeFmul n => n.wf
  | .nodeFma n => n.wf
  | .nodeFmin n => n.wf
  | .nodeFmax n => n.wf
  | .nodeFcmp n => n.wf
  | .nodeFdiv n => n.wf
  | .frcp n => n.wf
  | .frsq n => n.wf
  | .fexp2 n => n.wf
  | .flog2 n => n.wf
  | .cvt n => n.wf
  | .packb n => n.wf
  | .unpackb n => n.wf
  | .perm n => n.wf
  | .reduce n => n.wf
  | .acc n => n.wf
  | .scan n => n.wf
  | .hdr n => n.wf
  | .splat n => n.wf
  | .fork n => n.wf
  | .steer n => n.wf
  | .merge n => n.wf
  | .mux n => n.wf
  | .join n => n.wf
  | .gate n => n.wf
  | .drop n => n.wf
  | .source n => n.wf
  | .sink n => n.wf
  | .cchain n => n.wf
  | .carry n => n.wf
  | .exit n => n.wf
  | .tile n => n.wf
  | .isect n => n.wf
  | .union n => n.wf
  | .ctxsel n => n.wf
  | .ande n => n.wf
  | .ore n => n.wf
  | .squash n => n.wf
  | .sync n => n.wf
  | .ld n => n.wf
  | .st n => n.wf
  | .atom n => n.wf
  | .pin n => n.wf
  | .pout n => n.wf
  | .gather n => n.wf
  | .scatter n => n.wf
  | .copyfire n => n.wf
  | .dirty n => n.wf
  | .ord n => n.wf
  | .mma n => n.wf
  | .mxseq n => n.wf
  | .sortce n => n.wf
  | .topk n => n.wf
  | .cumthr n => n.wf
  | .accept n => n.wf
  | .resid n => n.wf
  | .umrank n => n.wf
  | .headmask n => n.wf
  | .blockFetch _ => true
  | .blockCommit _ => true
  | .asyncEventTake _ => true
  | .yieldwaitEnd _ => true
  | .waitTimeout _ _ => true
  | .peerArrivalMessage _ _ _ _ => true
  | .tidemarkCredit _ => true
  | .unbindTakesEffect _ _ => true
  | .checkpointDone => true
  | .tokenArrive _ => true
  | .antiTokenArrive _ => true
  | .creditReturn _ => true
  | .cancelFiring _ => true
  | .drainInject _ _ => true
  | .phaseEnd _ => true
  | .deadlockDetect _ => true
  | .routerBlockedEscape _ _ => true
  | .matrixCommandPerform _ _ => true
  | .matrixEmit _ _ => true
  | .matrixTurnEnd _ => true
  | .waveAccept _ => true
  | .memoryReply _ => true
  | .portElementIssue _ _ => true
  | .copyQueueToken _ _ => true
  | .gatherElement _ => true
  | .scatterElement _ => true
  | .umxStep _ => true
  | .translationWalk _ => true
  | .recordRelease _ => true
  | .fatalFault _ => true
  | .dispatchDecision => true
  | .priorityAging _ => true
  | .candidateBlocking _ => true
  | .taskRetire _ => true
  | .watchdogExpiry _ => true
  | .regulatorPeriod _ _ => true
  | .permitWindow _ => true
  | .powerStretch _ _ => true
  | .thermalThrottle _ _ => true
  | .thermalTrip => true
  | .corrSum => true
  | .uncorrectedError _ => true
  | .patrolScrub _ _ _ _ => true
  | .rowSpared _ _ => true
  | .bucketDecay => true
  | .linkDown _ => true
  | .peerLinkUp _ => true
  | .peerRequest _ => true
  | .hostMemoryAccess _ _ _ => true
  | .launch _ _ => true
  | .evtail _ => true
  | .eventEntry => true
  | .registerWrite _ _ => true
  | .reset _ => true
  | .getVersion => true
  | .getCapabilities => true
  | .negotiateAlgorithms => true
  | .getDigests => true
  | .getCertificate _ => true
  | .challenge _ _ => true
  | .getMeasurements _ => true
  | .unsupportedRequest _ => true
  | .imageTransfer _ => true
  | .repairMapRewrite _ => true
  | .hcmd1Write _ => true
  | .clockStretchingEnd _ _ => true

end Sys2Proof
end

