-- ==== Sys2Proof/Decode.lean ====
section
/-!
DEFINITION. Decoding, total on any bits, which rejects by name, and then the encoder, both from the tables of R106 to R113,
R116, R118, R120 and R125.
-/
namespace Sys2Proof

/-! ### Slots of a block (R106 to R113) -/

/-- The formats of R110. -/
inductive Fmt where
  | f0 | f1 | f2 | fx | ar | rb | imm | immh | br | call | pool | code
  deriving DecidableEq, Repr

/-- The fields of a slot and of its EXT word, cut at fixed places (R106, R110, R111). -/
structure SlotF where
  a : Byte
  b : Byte
  p : Byte
  o : BitVec 16
  i : BitVec 24
  j : BitVec 16
  c : Byte
  d : Byte
  m : Byte
  deriving DecidableEq, Repr

/-- What an owner uses of its EXT word: field C as an operand, the greatest D, the greatest M (R111, R113). -/
structure ExtUse where
  c : Bool
  d : Nat
  m : Nat
  deriving DecidableEq, Repr

/-- One row of the map of R113: opcode, format, range of the raw byte, use of EXT, and the instruction. -/
structure SlotRow where
  op  : Nat
  fmt : Fmt
  raw : Nat × Nat
  ext : Option ExtUse
  build : SlotF → Instr

/-- Why bits decode to nothing. The block-format causes of R115 are `cause`. -/
inductive DecErr where
  | cause (c : Nat)
  | scmdOp
  | nodeOpc
  | nodeFlag
  | nodeChan
  | slotForm
  | notEncoded
  deriving DecidableEq, Repr

/-- The opcode of a slot word. -/
def slotOp (w : BitVec 32) : Nat := (w.extractLsb' 24 8).toNat

/-- The fields of a slot word and its EXT word. -/
def slotFields (w e : BitVec 32) : SlotF where
  a := w.extractLsb' 16 8
  b := w.extractLsb' 8 8
  p := w.extractLsb' 0 8
  o := w.extractLsb' 8 16
  i := w.extractLsb' 0 24
  j := w.extractLsb' 0 16
  c := e.extractLsb' 16 8
  d := e.extractLsb' 8 8
  m := e.extractLsb' 0 8

/-- Rows of R113, part Int. -/
def slotRowsInt : List SlotRow :=
  [ ⟨0x01, .f2, (0, 0), none, fun f => .add f.a f.b f.p⟩
  , ⟨0x02, .f2, (0, 0), none, fun f => .sub f.a f.b f.p⟩
  , ⟨0x03, .f2, (0, 0), none, fun f => .mul f.a f.b f.p⟩
  , ⟨0x04, .f2, (0, 0), none, fun f => .mulh f.a f.b f.p⟩
  , ⟨0x05, .f2, (0, 0), none, fun f => .mulhn f.a f.b f.p⟩
  , ⟨0x06, .f2, (0, 0), none, fun f => .div f.a f.b f.p⟩
  , ⟨0x07, .f2, (0, 0), none, fun f => .divn f.a f.b f.p⟩
  , ⟨0x08, .f2, (0, 0), none, fun f => .rem f.a f.b f.p⟩
  , ⟨0x09, .f2, (0, 0), none, fun f => .remn f.a f.b f.p⟩
  , ⟨0x0A, .f2, (0, 0), none, fun f => .and f.a f.b f.p⟩
  , ⟨0x0B, .f2, (0, 0), none, fun f => .or f.a f.b f.p⟩
  , ⟨0x0C, .f2, (0, 0), none, fun f => .xor f.a f.b f.p⟩
  , ⟨0x0D, .f2, (0, 0), none, fun f => .andn f.a f.b f.p⟩
  , ⟨0x0E, .f2, (0, 0), none, fun f => .shl f.a f.b f.p⟩
  , ⟨0x0F, .f2, (0, 0), none, fun f => .shr f.a f.b f.p⟩
  , ⟨0x10, .f2, (0, 0), none, fun f => .sar f.a f.b f.p⟩
  , ⟨0x11, .f2, (0, 0), none, fun f => .rol f.a f.b f.p⟩
  , ⟨0x12, .f2, (0, 0), none, fun f => .min f.a f.b f.p⟩
  , ⟨0x13, .f2, (0, 0), none, fun f => .max f.a f.b f.p⟩
  , ⟨0x14, .f2, (0, 0), none, fun f => .minn f.a f.b f.p⟩
  , ⟨0x15, .f2, (0, 0), none, fun f => .maxn f.a f.b f.p⟩
  , ⟨0x16, .f1, (0, 0), none, fun f => .clz f.a f.p⟩
  , ⟨0x17, .f1, (0, 0), none, fun f => .popc f.a f.p⟩
  , ⟨0x18, .f2, (0, 0), none, fun f => .sext f.a f.b f.p⟩
  , ⟨0x19, .f2, (0, 0), none, fun f => .zext f.a f.b f.p⟩
  , ⟨0x1A, .fx, (0, 0), some ⟨true, 0, 0⟩, fun f => .bext f.a f.b f.p f.c⟩
  , ⟨0x1B, .fx, (0, 0), some ⟨true, 0, 0⟩, fun f => .bins f.a f.b f.p f.c⟩
  , ⟨0x1C, .fx, (0, 0), some ⟨true, 0, 0⟩, fun f => .sel f.a f.b f.p f.c⟩
  , ⟨0x20, .f2, (0, 0), none, fun f => .cmpEq f.a f.b f.p⟩
  , ⟨0x21, .f2, (0, 0), none, fun f => .cmpNe f.a f.b f.p⟩
  , ⟨0x22, .f2, (0, 0), none, fun f => .cmpLt f.a f.b f.p⟩
  , ⟨0x23, .f2, (0, 0), none, fun f => .cmpLe f.a f.b f.p⟩
  , ⟨0x24, .f2, (0, 0), none, fun f => .cmpLtn f.a f.b f.p⟩
  , ⟨0x25, .f2, (0, 0), none, fun f => .cmpLen f.a f.b f.p⟩
  , ⟨0x26, .f2, (0, 0), none, fun f => .test f.a f.b f.p⟩
  , ⟨0x28, .imm, (0, 0), none, fun f => .imm f.i⟩
  , ⟨0x29, .immh, (0, 0), none, fun f => .immh f.a f.j⟩
  , ⟨0x2A, .rb, (0, 80), none, fun f => .rds f.b f.p⟩
  , ⟨0x2B, .f2, (0, 0), none, fun f => .rdx f.a f.b f.p⟩ ]

/-- Rows of R113, part Fp. -/
def slotRowsFp : List SlotRow :=
  [ ⟨0x30, .f2, (0, 0), none, fun f => .fadd f.a f.b f.p⟩
  , ⟨0x31, .f2, (0, 0), none, fun f => .fsub f.a f.b f.p⟩
  , ⟨0x32, .f2, (0, 0), none, fun f => .fmul f.a f.b f.p⟩
  , ⟨0x33, .fx, (0, 0), some ⟨true, 0, 0⟩, fun f => .ffma f.a f.b f.p f.c⟩
  , ⟨0x34, .f2, (0, 0), none, fun f => .fdiv f.a f.b f.p⟩
  , ⟨0x35, .f1, (0, 0), none, fun f => .fsqrt f.a f.p⟩
  , ⟨0x36, .f2, (0, 0), none, fun f => .fmin f.a f.b f.p⟩
  , ⟨0x37, .f2, (0, 0), none, fun f => .fmax f.a f.b f.p⟩
  , ⟨0x38, .fx, (0, 0), some ⟨false, 0, 5⟩, fun f => .fcmp f.a f.b f.p f.m⟩
  , ⟨0x39, .fx, (0, 0), some ⟨false, 0, 7⟩, fun f => .fcvt f.a f.b f.p f.m⟩
  , ⟨0x3A, .f1, (0, 0), none, fun f => .fclass f.a f.p⟩ ]

/-- Rows of R113, part Mem. -/
def slotRowsMem : List SlotRow :=
  [ ⟨0x40, .f2, (0, 0), none, fun f => .ldB f.a f.b f.p⟩
  , ⟨0x41, .f2, (0, 0), none, fun f => .ldH f.a f.b f.p⟩
  , ⟨0x42, .f2, (0, 0), none, fun f => .ldW f.a f.b f.p⟩
  , ⟨0x43, .f2, (0, 0), none, fun f => .ldD f.a f.b f.p⟩
  , ⟨0x44, .f2, (0, 0), none, fun f => .ldnB f.a f.b f.p⟩
  , ⟨0x45, .f2, (0, 0), none, fun f => .ldnH f.a f.b f.p⟩
  , ⟨0x46, .f2, (0, 0), none, fun f => .ldnW f.a f.b f.p⟩
  , ⟨0x47, .f2, (0, 0), none, fun f => .stB f.a f.b f.p⟩
  , ⟨0x48, .f2, (0, 0), none, fun f => .stH f.a f.b f.p⟩
  , ⟨0x49, .f2, (0, 0), none, fun f => .stW f.a f.b f.p⟩
  , ⟨0x4A, .f2, (0, 0), none, fun f => .stD f.a f.b f.p⟩
  , ⟨0x4B, .pool, (0, 0), none, fun f => .ldr f.o f.p⟩
  , ⟨0x4C, .f1, (0, 0), none, fun f => .pref f.a f.p⟩
  , ⟨0x50, .fx, (0, 0), some ⟨false, 63, 0⟩, fun f => .aadd f.a f.b f.p f.d⟩
  , ⟨0x51, .fx, (0, 0), some ⟨false, 63, 0⟩, fun f => .aand f.a f.b f.p f.d⟩
  , ⟨0x52, .fx, (0, 0), some ⟨false, 63, 0⟩, fun f => .aor f.a f.b f.p f.d⟩
  , ⟨0x53, .fx, (0, 0), some ⟨false, 63, 0⟩, fun f => .axor f.a f.b f.p f.d⟩
  , ⟨0x54, .fx, (0, 0), some ⟨false, 63, 0⟩, fun f => .amin f.a f.b f.p f.d⟩
  , ⟨0x55, .fx, (0, 0), some ⟨false, 63, 0⟩, fun f => .amax f.a f.b f.p f.d⟩
  , ⟨0x56, .fx, (0, 0), some ⟨false, 63, 0⟩, fun f => .axchg f.a f.b f.p f.d⟩
  , ⟨0x57, .fx, (0, 0), some ⟨true, 63, 0⟩, fun f => .acas f.a f.b f.p f.c f.d⟩ ]

/-- Rows of R113, part Flow. -/
def slotRowsFlow : List SlotRow :=
  [ ⟨0x58, .br, (0, 0), none, fun f => .br f.o f.p⟩
  , ⟨0x59, .f1, (0, 0), none, fun f => .bri f.a f.p⟩
  , ⟨0x5A, .call, (0, 0), some ⟨true, 63, 0⟩, fun f => .call f.o f.p f.c f.d⟩
  , ⟨0x5B, .f1, (0, 0), none, fun f => .ret f.a f.p⟩
  , ⟨0x5C, .ar, (0, 63), none, fun f => .put f.a f.b f.p⟩
  , ⟨0x5D, .br, (0, 0), none, fun f => .yield f.o f.p⟩
  , ⟨0x5E, .f0, (0, 0), none, fun f => .halt f.p⟩
  , ⟨0x60, .rb, (2, 7), none, fun f => .fence f.b f.p⟩
  , ⟨0x61, .f1, (0, 0), none, fun f => .wait f.a f.p⟩
  , ⟨0x62, .f2, (0, 0), none, fun f => .signal f.a f.b f.p⟩
  , ⟨0x63, .f1, (0, 0), none, fun f => .bar f.a f.p⟩
  , ⟨0x64, .f1, (0, 0), none, fun f => .qpop f.a f.p⟩
  , ⟨0x65, .fx, (0, 0), some ⟨true, 0, 0⟩, fun f => .qpush f.a f.b f.p f.c⟩
  , ⟨0x66, .f2, (0, 0), none, fun f => .bbarm f.a f.b f.p⟩
  , ⟨0x68, .f2, (0, 0), none, fun f => .scmd f.a f.b f.p⟩
  , ⟨0x69, .pool, (0, 0), none, fun f => .scmdk f.o f.p⟩
  , ⟨0x6A, .f1, (0, 0), none, fun f => .sqry f.a f.p⟩
  , ⟨0x70, .code, (0, 0), none, fun f => .trap f.o f.p⟩
  , ⟨0x71, .code, (0, 0), none, fun f => .sys f.o f.p⟩
  , ⟨0x72, .rb, (0, 12), none, fun f => .rdcsr f.b f.p⟩
  , ⟨0x73, .ar, (0, 12), none, fun f => .wrcsr f.a f.b f.p⟩
  , ⟨0x74, .f0, (0, 0), none, fun f => .eret f.p⟩
  , ⟨0x75, .f2, (0, 0), none, fun f => .xlate f.a f.b f.p⟩ ]

/-- The map of R113. -/
def slotRows : List SlotRow := slotRowsInt ++ slotRowsFp ++ slotRowsMem ++ slotRowsFlow

/-- The row of an opcode. -/
def slotRow (op : Nat) : Option SlotRow := slotRows.find? fun r => r.op == op

/-- Whether field A of a format is an operand byte (R110). -/
def Fmt.usesA : Fmt → Bool
  | .f1 | .f2 | .fx | .ar | .immh => true
  | _ => false

/-- Whether field B of a format is an operand byte. -/
def Fmt.usesB : Fmt → Bool
  | .f2 | .fx => true
  | _ => false

/-- Whether a format has a predicate byte (R109). -/
def Fmt.hasPred : Fmt → Bool
  | .imm | .immh => false
  | _ => true

/-- The operand bytes of a slot word, in A and B. -/
def SlotRow.operands (r : SlotRow) (f : SlotF) : List Byte :=
  (if r.fmt.usesA then [f.a] else []) ++ (if r.fmt.usesB then [f.b] else [])

/-- Whether the zero fields and the raw byte of the slot word are as R108 asks. -/
def SlotRow.fieldsOk (r : SlotRow) (f : SlotF) : Bool :=
  match r.fmt with
  | .f0 => f.a == 0 && f.b == 0
  | .f1 => f.b == 0
  | .ar => rawOk r.raw.1 r.raw.2 f.b
  | .rb => f.a == 0 && rawOk r.raw.1 r.raw.2 f.b
  | _ => true

/-- Whether the fields of the EXT word that are not operands are as R111 asks. -/
def ExtUse.fieldsOk (u : ExtUse) (f : SlotF) : Bool :=
  (u.c || f.c == 0) && rawOk 0 u.d f.d && rawOk 0 u.m f.m

/-- Decode a slot with the word that follows it: the causes of R115 that need no place, the lowest first. -/
def decodeSlot (w : BitVec 32) (next : Option (BitVec 32)) : Except DecErr Instr :=
  if slotOp w = 0 then .error (.cause 0x04)
  else if slotOp w = 0x78 then .error (.cause 0x0A)
  else match slotRow (slotOp w) with
  | none => .error (.cause 0x05)
  | some r =>
    let f := slotFields w (next.getD 0)
    if !(r.operands f).all opOk then .error (.cause 0x06)
    else if r.fmt.hasPred && !predOk f.p then .error (.cause 0x08)
    else match r.ext, next with
    | none, _ => if r.fieldsOk f then .ok (r.build f) else .error (.cause 0x0B)
    | some _, none => .error (.cause 0x09)
    | some u, some e =>
      if slotOp e ≠ 0x78 then .error (.cause 0x09)
      else if u.c && !opOk f.c then .error (.cause 0x06)
      else if r.fieldsOk f && u.fieldsOk f then .ok (r.build f) else .error (.cause 0x0B)

/-! ### Stream commands (R116, R118) -/

/-- The operand fields of a command. -/
def cmdFields (w : BitVec 128) : CmdW where
  tgt := w.extractLsb' 112 8
  flg := w.extractLsb' 104 8
  sub := w.extractLsb' 96 8
  param := w.extractLsb' 0 96

/-- The map of R118. -/
def cmdRows : List (Nat × (CmdW → Instr)) :=
  [ (0x01, .bindAff)
  , (0x02, .bindInd)
  , (0x03, .bindScat)
  , (0x04, .bindShore)
  , (0x05, .unbind)
  , (0x06, .armCopy)
  , (0x07, .disarmCopy)
  , (0x08, .cfgLoad)
  , (0x09, .cfgSwap)
  , (0x0A, .cfgPred)
  , (0x0B, .drain)
  , (0x0C, .phase)
  , (0x0D, .taskLaunch)
  , (0x0E, .taskDep)
  , (0x0F, .couple)
  , (0x10, .permitAdj)
  , (0x11, .mslot)
  , (0x12, .sampleCfg)
  , (0x13, .umxOpen)
  , (0x14, .umxClose)
  , (0x15, .xinv)
  , (0x16, .fresume)
  , (0x17, .park)
  , (0x18, .unpark)
  , (0x19, .logDrain)
  , (0x1A, .quiesce)
  , (0x1B, .ckpt)
  , (0x1C, .shoreWin) ]

/-- The SOP of a command. -/
def cmdSop (w : BitVec 128) : Nat := (w.extractLsb' 120 8).toNat

/-- Decode a stream command; SOP 0x00 and 0x1D to 0xFF are SCMD_OP (R119). -/
def decodeCmd (w : BitVec 128) : Except DecErr Instr :=
  match cmdRows.find? fun r => r.1 == cmdSop w with
  | some r => .ok (r.2 (cmdFields w))
  | none => .error .scmdOp

/-! ### Node words (R120, R125) -/

/-- The operand fields of a node word. -/
def nodeFields (w : BitVec 128) : NodeW where
  opc1 := w.extractLsb' 112 8
  mode := w.extractLsb' 108 4
  e := w.getLsbD 107
  x := w.getLsbD 106
  q := w.getLsbD 105
  k := w.getLsbD 104
  v := w.getLsbD 103
  n := w.getLsbD 102
  t := w.getLsbD 101
  inA := w.extractLsb' 88 12
  inB := w.extractLsb' 76 12
  inC := w.extractLsb' 64 12
  out0 := w.extractLsb' 52 12
  out1 := w.extractLsb' 40 12
  imm := w.extractLsb' 0 40

/-- The map of R125. -/
def nodeRows : List (Nat × (NodeW → Instr)) :=
  [ (0x01, .nodeAdd)
  , (0x02, .nodeSub)
  , (0x03, .nodeMul)
  , (0x04, .nodeMulh)
  , (0x05, .nodeMad)
  , (0x06, .nodeAbs)
  , (0x07, .nodeNeg)
  , (0x08, .nodeMin)
  , (0x09, .nodeMax)
  , (0x0A, .nodeAnd)
  , (0x0B, .nodeOr)
  , (0x0C, .nodeXor)
  , (0x0D, .nodeNot)
  , (0x0E, .nodeShl)
  , (0x0F, .nodeShr)
  , (0x10, .nodeSar)
  , (0x11, .nodeClamp)
  , (0x12, .nodeCmp)
  , (0x13, .nodeSel)
  , (0x14, .nodeAdds)
  , (0x15, .nodeSubs)
  , (0x30, .nodeFadd)
  , (0x31, .nodeFsub)
  , (0x32, .nodeFmul)
  , (0x33, .nodeFma)
  , (0x34, .nodeFmin)
  , (0x35, .nodeFmax)
  , (0x36, .frcp)
  , (0x37, .frsq)
  , (0x38, .fexp2)
  , (0x39, .flog2)
  , (0x3A, .nodeFcmp)
  , (0x3B, .nodeFdiv)
  , (0x50, .cvt)
  , (0x51, .packb)
  , (0x52, .unpackb)
  , (0x53, .perm)
  , (0x54, .reduce)
  , (0x55, .acc)
  , (0x56, .scan)
  , (0x57, .hdr)
  , (0x58, .splat)
  , (0x60, .fork)
  , (0x61, .steer)
  , (0x62, .merge)
  , (0x63, .mux)
  , (0x64, .join)
  , (0x65, .gate)
  , (0x66, .drop)
  , (0x67, .source)
  , (0x68, .sink)
  , (0x69, .cchain)
  , (0x6A, .carry)
  , (0x6B, .exit)
  , (0x6C, .tile)
  , (0x6D, .isect)
  , (0x6E, .union)
  , (0x6F, .ctxsel)
  , (0x70, .ande)
  , (0x71, .ore)
  , (0x72, .squash)
  , (0x73, .sync)
  , (0x80, .ld)
  , (0x81, .st)
  , (0x82, .atom)
  , (0x83, .pin)
  , (0x84, .pout)
  , (0x85, .gather)
  , (0x86, .scatter)
  , (0x87, .copyfire)
  , (0x88, .dirty)
  , (0x89, .ord)
  , (0x90, .mma)
  , (0x91, .mxseq)
  , (0x92, .sortce)
  , (0x93, .topk)
  , (0x94, .cumthr)
  , (0x95, .accept)
  , (0x96, .resid)
  , (0x97, .umrank)
  , (0x98, .headmask) ]

/-- OPC0 of a node word. -/
def nodeOpc (w : BitVec 128) : Nat := (w.extractLsb' 120 8).toNat

/-- The instruction of an operation code of R125 with these fields. -/
def nodeInstr (op : Nat) (n : NodeW) : Option Instr := (nodeRows.find? fun r => r.1 == op).map fun r => r.2 n

/-- Decode a node word (R120, R121, R125). -/
def decodeNode (w : BitVec 128) : Except DecErr Instr :=
  let n := nodeFields w
  match nodeInstr (nodeOpc w) n with
  | none => .error .nodeOpc
  | some i =>
    if w.getLsbD 100 then .error .nodeFlag
    else if !(inOk n.inA && inOk n.inB && inOk n.inC && outOk n.out0 && outOk n.out1) then .error .nodeChan
    else if !(n.t || n.opc1 == 0) then .error .slotForm
    else .ok i

/-! ### The encoder -/

/-- The encoded form of an instruction: a slot with its EXT word, a command, a node word, or none for an event. -/
inductive Code where
  | slot (w : BitVec 32) (ext : Option (BitVec 32))
  | cmd (w : BitVec 128)
  | node (w : BitVec 128)
  | event
  deriving DecidableEq, Repr

/-- Decode an encoded form. -/
def decode : Code → Except DecErr Instr
  | .slot w e => decodeSlot w e
  | .cmd w => decodeCmd w
  | .node w => decodeNode w
  | .event => .error .notEncoded

/-- A slot word from its four bytes (R106). -/
def word (op a b p : Byte) : BitVec 32 := op ++ a ++ b ++ p

/-- A stream command from its fields (R116). -/
def cmdWord (sop : Byte) (c : CmdW) : BitVec 128 := sop ++ c.tgt ++ c.flg ++ c.sub ++ c.param

/-- One flag bit. -/
def bit1 (b : Bool) : BitVec 1 := BitVec.ofBool b

/-- A node word from its fields (R120). -/
def nodeWord (op : Byte) (n : NodeW) : BitVec 128 :=
  op ++ n.opc1 ++ n.mode ++ bit1 n.e ++ bit1 n.x ++ bit1 n.q ++ bit1 n.k ++ bit1 n.v ++ bit1 n.n ++ bit1 n.t ++ (0 : BitVec 1)
    ++ n.inA ++ n.inB ++ n.inC ++ n.out0 ++ n.out1 ++ n.imm

/-- The words of an instruction. -/
def encode : Instr → Code
  | .add a b p => .slot (word 0x01 a b p) none
  | .sub a b p => .slot (word 0x02 a b p) none
  | .mul a b p => .slot (word 0x03 a b p) none
  | .mulh a b p => .slot (word 0x04 a b p) none
  | .mulhn a b p => .slot (word 0x05 a b p) none
  | .div a b p => .slot (word 0x06 a b p) none
  | .divn a b p => .slot (word 0x07 a b p) none
  | .rem a b p => .slot (word 0x08 a b p) none
  | .remn a b p => .slot (word 0x09 a b p) none
  | .and a b p => .slot (word 0x0A a b p) none
  | .or a b p => .slot (word 0x0B a b p) none
  | .xor a b p => .slot (word 0x0C a b p) none
  | .andn a b p => .slot (word 0x0D a b p) none
  | .shl a b p => .slot (word 0x0E a b p) none
  | .shr a b p => .slot (word 0x0F a b p) none
  | .sar a b p => .slot (word 0x10 a b p) none
  | .rol a b p => .slot (word 0x11 a b p) none
  | .min a b p => .slot (word 0x12 a b p) none
  | .max a b p => .slot (word 0x13 a b p) none
  | .minn a b p => .slot (word 0x14 a b p) none
  | .maxn a b p => .slot (word 0x15 a b p) none
  | .sext a b p => .slot (word 0x18 a b p) none
  | .zext a b p => .slot (word 0x19 a b p) none
  | .cmpEq a b p => .slot (word 0x20 a b p) none
  | .cmpNe a b p => .slot (word 0x21 a b p) none
  | .cmpLt a b p => .slot (word 0x22 a b p) none
  | .cmpLe a b p => .slot (word 0x23 a b p) none
  | .cmpLtn a b p => .slot (word 0x24 a b p) none
  | .cmpLen a b p => .slot (word 0x25 a b p) none
  | .test a b p => .slot (word 0x26 a b p) none
  | .rdx a b p => .slot (word 0x2B a b p) none
  | .fadd a b p => .slot (word 0x30 a b p) none
  | .fsub a b p => .slot (word 0x31 a b p) none
  | .fmul a b p => .slot (word 0x32 a b p) none
  | .fdiv a b p => .slot (word 0x34 a b p) none
  | .fmin a b p => .slot (word 0x36 a b p) none
  | .fmax a b p => .slot (word 0x37 a b p) none
  | .ldB a b p => .slot (word 0x40 a b p) none
  | .ldH a b p => .slot (word 0x41 a b p) none
  | .ldW a b p => .slot (word 0x42 a b p) none
  | .ldD a b p => .slot (word 0x43 a b p) none
  | .ldnB a b p => .slot (word 0x44 a b p) none
  | .ldnH a b p => .slot (word 0x45 a b p) none
  | .ldnW a b p => .slot (word 0x46 a b p) none
  | .stB a b p => .slot (word 0x47 a b p) none
  | .stH a b p => .slot (word 0x48 a b p) none
  | .stW a b p => .slot (word 0x49 a b p) none
  | .stD a b p => .slot (word 0x4A a b p) none
  | .signal a b p => .slot (word 0x62 a b p) none
  | .bbarm a b p => .slot (word 0x66 a b p) none
  | .scmd a b p => .slot (word 0x68 a b p) none
  | .xlate a b p => .slot (word 0x75 a b p) none
  | .clz a p => .slot (word 0x16 a 0 p) none
  | .popc a p => .slot (word 0x17 a 0 p) none
  | .fsqrt a p => .slot (word 0x35 a 0 p) none
  | .fclass a p => .slot (word 0x3A a 0 p) none
  | .pref a p => .slot (word 0x4C a 0 p) none
  | .bri a p => .slot (word 0x59 a 0 p) none
  | .ret a p => .slot (word 0x5B a 0 p) none
  | .wait a p => .slot (word 0x61 a 0 p) none
  | .bar a p => .slot (word 0x63 a 0 p) none
  | .qpop a p => .slot (word 0x64 a 0 p) none
  | .sqry a p => .slot (word 0x6A a 0 p) none
  | .bext a b p c => .slot (word 0x1A a b p) (some (word 0x78 c 0 0))
  | .bins a b p c => .slot (word 0x1B a b p) (some (word 0x78 c 0 0))
  | .sel a b p c => .slot (word 0x1C a b p) (some (word 0x78 c 0 0))
  | .ffma a b p c => .slot (word 0x33 a b p) (some (word 0x78 c 0 0))
  | .qpush a b p c => .slot (word 0x65 a b p) (some (word 0x78 c 0 0))
  | .fcmp a b p m => .slot (word 0x38 a b p) (some (word 0x78 0 0 m))
  | .fcvt a b p m => .slot (word 0x39 a b p) (some (word 0x78 0 0 m))
  | .aadd a b p d => .slot (word 0x50 a b p) (some (word 0x78 0 d 0))
  | .aand a b p d => .slot (word 0x51 a b p) (some (word 0x78 0 d 0))
  | .aor a b p d => .slot (word 0x52 a b p) (some (word 0x78 0 d 0))
  | .axor a b p d => .slot (word 0x53 a b p) (some (word 0x78 0 d 0))
  | .amin a b p d => .slot (word 0x54 a b p) (some (word 0x78 0 d 0))
  | .amax a b p d => .slot (word 0x55 a b p) (some (word 0x78 0 d 0))
  | .axchg a b p d => .slot (word 0x56 a b p) (some (word 0x78 0 d 0))
  | .acas a b p c d => .slot (word 0x57 a b p) (some (word 0x78 c d 0))
  | .imm i => .slot ((0x28 : Byte) ++ i) none
  | .immh a i => .slot ((0x29 : Byte) ++ a ++ i) none
  | .rds r p => .slot (word 0x2A 0 r p) none
  | .fence r p => .slot (word 0x60 0 r p) none
  | .rdcsr r p => .slot (word 0x72 0 r p) none
  | .put a r p => .slot (word 0x5C a r p) none
  | .wrcsr a r p => .slot (word 0x73 a r p) none
  | .br o p => .slot (((0x58 : Byte) ++ o) ++ p) none
  | .yield o p => .slot (((0x5D : Byte) ++ o) ++ p) none
  | .call o p c d => .slot (((0x5A : Byte) ++ o) ++ p) (some (word 0x78 c d 0))
  | .ldr o p => .slot (((0x4B : Byte) ++ o) ++ p) none
  | .scmdk o p => .slot (((0x69 : Byte) ++ o) ++ p) none
  | .trap o p => .slot (((0x70 : Byte) ++ o) ++ p) none
  | .sys o p => .slot (((0x71 : Byte) ++ o) ++ p) none
  | .halt p => .slot (word 0x5E 0 0 p) none
  | .eret p => .slot (word 0x74 0 0 p) none
  | .bindAff c => .cmd (cmdWord 0x01 c)
  | .bindInd c => .cmd (cmdWord 0x02 c)
  | .bindScat c => .cmd (cmdWord 0x03 c)
  | .bindShore c => .cmd (cmdWord 0x04 c)
  | .unbind c => .cmd (cmdWord 0x05 c)
  | .armCopy c => .cmd (cmdWord 0x06 c)
  | .disarmCopy c => .cmd (cmdWord 0x07 c)
  | .cfgLoad c => .cmd (cmdWord 0x08 c)
  | .cfgSwap c => .cmd (cmdWord 0x09 c)
  | .cfgPred c => .cmd (cmdWord 0x0A c)
  | .drain c => .cmd (cmdWord 0x0B c)
  | .phase c => .cmd (cmdWord 0x0C c)
  | .taskLaunch c => .cmd (cmdWord 0x0D c)
  | .taskDep c => .cmd (cmdWord 0x0E c)
  | .couple c => .cmd (cmdWord 0x0F c)
  | .permitAdj c => .cmd (cmdWord 0x10 c)
  | .mslot c => .cmd (cmdWord 0x11 c)
  | .sampleCfg c => .cmd (cmdWord 0x12 c)
  | .umxOpen c => .cmd (cmdWord 0x13 c)
  | .umxClose c => .cmd (cmdWord 0x14 c)
  | .xinv c => .cmd (cmdWord 0x15 c)
  | .fresume c => .cmd (cmdWord 0x16 c)
  | .park c => .cmd (cmdWord 0x17 c)
  | .unpark c => .cmd (cmdWord 0x18 c)
  | .logDrain c => .cmd (cmdWord 0x19 c)
  | .quiesce c => .cmd (cmdWord 0x1A c)
  | .ckpt c => .cmd (cmdWord 0x1B c)
  | .shoreWin c => .cmd (cmdWord 0x1C c)
  | .nodeAdd n => .node (nodeWord 0x01 n)
  | .nodeSub n => .node (nodeWord 0x02 n)
  | .nodeMul n => .node (nodeWord 0x03 n)
  | .nodeMulh n => .node (nodeWord 0x04 n)
  | .nodeMad n => .node (nodeWord 0x05 n)
  | .nodeAbs n => .node (nodeWord 0x06 n)
  | .nodeNeg n => .node (nodeWord 0x07 n)
  | .nodeMin n => .node (nodeWord 0x08 n)
  | .nodeMax n => .node (nodeWord 0x09 n)
  | .nodeAnd n => .node (nodeWord 0x0A n)
  | .nodeOr n => .node (nodeWord 0x0B n)
  | .nodeXor n => .node (nodeWord 0x0C n)
  | .nodeNot n => .node (nodeWord 0x0D n)
  | .nodeShl n => .node (nodeWord 0x0E n)
  | .nodeShr n => .node (nodeWord 0x0F n)
  | .nodeSar n => .node (nodeWord 0x10 n)
  | .nodeClamp n => .node (nodeWord 0x11 n)
  | .nodeCmp n => .node (nodeWord 0x12 n)
  | .nodeSel n => .node (nodeWord 0x13 n)
  | .nodeAdds n => .node (nodeWord 0x14 n)
  | .nodeSubs n => .node (nodeWord 0x15 n)
  | .nodeFadd n => .node (nodeWord 0x30 n)
  | .nodeFsub n => .node (nodeWord 0x31 n)
  | .nodeFmul n => .node (nodeWord 0x32 n)
  | .nodeFma n => .node (nodeWord 0x33 n)
  | .nodeFmin n => .node (nodeWord 0x34 n)
  | .nodeFmax n => .node (nodeWord 0x35 n)
  | .nodeFcmp n => .node (nodeWord 0x3A n)
  | .nodeFdiv n => .node (nodeWord 0x3B n)
  | .frcp n => .node (nodeWord 0x36 n)
  | .frsq n => .node (nodeWord 0x37 n)
  | .fexp2 n => .node (nodeWord 0x38 n)
  | .flog2 n => .node (nodeWord 0x39 n)
  | .cvt n => .node (nodeWord 0x50 n)
  | .packb n => .node (nodeWord 0x51 n)
  | .unpackb n => .node (nodeWord 0x52 n)
  | .perm n => .node (nodeWord 0x53 n)
  | .reduce n => .node (nodeWord 0x54 n)
  | .acc n => .node (nodeWord 0x55 n)
  | .scan n => .node (nodeWord 0x56 n)
  | .hdr n => .node (nodeWord 0x57 n)
  | .splat n => .node (nodeWord 0x58 n)
  | .fork n => .node (nodeWord 0x60 n)
  | .steer n => .node (nodeWord 0x61 n)
  | .merge n => .node (nodeWord 0x62 n)
  | .mux n => .node (nodeWord 0x63 n)
  | .join n => .node (nodeWord 0x64 n)
  | .gate n => .node (nodeWord 0x65 n)
  | .drop n => .node (nodeWord 0x66 n)
  | .source n => .node (nodeWord 0x67 n)
  | .sink n => .node (nodeWord 0x68 n)
  | .cchain n => .node (nodeWord 0x69 n)
  | .carry n => .node (nodeWord 0x6A n)
  | .exit n => .node (nodeWord 0x6B n)
  | .tile n => .node (nodeWord 0x6C n)
  | .isect n => .node (nodeWord 0x6D n)
  | .union n => .node (nodeWord 0x6E n)
  | .ctxsel n => .node (nodeWord 0x6F n)
  | .ande n => .node (nodeWord 0x70 n)
  | .ore n => .node (nodeWord 0x71 n)
  | .squash n => .node (nodeWord 0x72 n)
  | .sync n => .node (nodeWord 0x73 n)
  | .ld n => .node (nodeWord 0x80 n)
  | .st n => .node (nodeWord 0x81 n)
  | .atom n => .node (nodeWord 0x82 n)
  | .pin n => .node (nodeWord 0x83 n)
  | .pout n => .node (nodeWord 0x84 n)
  | .gather n => .node (nodeWord 0x85 n)
  | .scatter n => .node (nodeWord 0x86 n)
  | .copyfire n => .node (nodeWord 0x87 n)
  | .dirty n => .node (nodeWord 0x88 n)
  | .ord n => .node (nodeWord 0x89 n)
  | .mma n => .node (nodeWord 0x90 n)
  | .mxseq n => .node (nodeWord 0x91 n)
  | .sortce n => .node (nodeWord 0x92 n)
  | .topk n => .node (nodeWord 0x93 n)
  | .cumthr n => .node (nodeWord 0x94 n)
  | .accept n => .node (nodeWord 0x95 n)
  | .resid n => .node (nodeWord 0x96 n)
  | .umrank n => .node (nodeWord 0x97 n)
  | .headmask n => .node (nodeWord 0x98 n)
  | .blockFetch _ => .event
  | .blockCommit _ => .event
  | .asyncEventTake _ => .event
  | .yieldwaitEnd _ => .event
  | .waitTimeout _ _ => .event
  | .peerArrivalMessage _ _ _ _ => .event
  | .tidemarkCredit _ => .event
  | .unbindTakesEffect _ _ => .event
  | .checkpointDone => .event
  | .tokenArrive _ => .event
  | .antiTokenArrive _ => .event
  | .creditReturn _ => .event
  | .cancelFiring _ => .event
  | .drainInject _ _ => .event
  | .phaseEnd _ => .event
  | .deadlockDetect _ => .event
  | .routerBlockedEscape _ _ => .event
  | .matrixCommandPerform _ _ => .event
  | .matrixEmit _ _ => .event
  | .matrixTurnEnd _ => .event
  | .waveAccept _ => .event
  | .memoryReply _ => .event
  | .portElementIssue _ _ => .event
  | .copyQueueToken _ _ => .event
  | .gatherElement _ => .event
  | .scatterElement _ => .event
  | .umxStep _ => .event
  | .translationWalk _ => .event
  | .recordRelease _ => .event
  | .fatalFault _ => .event
  | .dispatchDecision => .event
  | .priorityAging _ => .event
  | .candidateBlocking _ => .event
  | .taskRetire _ => .event
  | .watchdogExpiry _ => .event
  | .regulatorPeriod _ _ => .event
  | .permitWindow _ => .event
  | .powerStretch _ _ => .event
  | .thermalThrottle _ _ => .event
  | .thermalTrip => .event
  | .corrSum => .event
  | .uncorrectedError _ => .event
  | .patrolScrub _ _ _ _ => .event
  | .rowSpared _ _ => .event
  | .bucketDecay => .event
  | .linkDown _ => .event
  | .peerLinkUp _ => .event
  | .peerRequest _ => .event
  | .hostMemoryAccess _ _ _ => .event
  | .launch _ _ => .event
  | .evtail _ => .event
  | .eventEntry => .event
  | .registerWrite _ _ => .event
  | .reset _ => .event
  | .getVersion => .event
  | .getCapabilities => .event
  | .negotiateAlgorithms => .event
  | .getDigests => .event
  | .getCertificate _ => .event
  | .challenge _ _ => .event
  | .getMeasurements _ => .event
  | .unsupportedRequest _ => .event
  | .imageTransfer _ => .event
  | .repairMapRewrite _ => .event
  | .hcmd1Write _ => .event
  | .clockStretchingEnd _ _ => .event

/-! ### The table's words -/

/-- The instruction that the decoder reads from a word numbered as the opcode table numbers it: up to 64 bits a slot with the
word after it, 128 bits a stream command. -/
def decodeTableWord (nbits w : Nat) : Option Instr :=
  (if nbits ≤ 64 then decodeSlot (BitVec.ofNat 32 w) (some (BitVec.ofNat 32 (w / 2 ^ 32)))
   else decodeCmd (BitVec.ofNat 128 w)).toOption

end Sys2Proof
end

