-- ==== Sys2Proof/Config.lean ====
section
/-!
DEFINITION. What an implementation fixes and the free values: constants with no body, so that nothing can be proved of
their values. Each is named in the assumption log.
-/
namespace Sys2Proof.Config

/-- The turn the machine takes when the agenda is empty: any agent, after any time (log entry 1). -/
opaque freeTurn : Nat → Turn

/-- A byte that another device returns to a peer read (log entry 6). -/
opaque freeByte : Nat → Byte

/-- Whether another device answers a peer read with poison: what it reads is poisoned or fenced there (R355, R363, log entry 6). -/
opaque freePeerPoison : Nat → Bool

/-- Whether another device has fenced what a peer access goes to (R355, log entry 6). -/
opaque freePeerFence : Nat → Bool

/-- Whether another device translates a peer access (R337): 0, or the remote cause of the failure (log entry 6). -/
opaque freePeerCause : Nat → Nat

/-- The hash of a peer access (R391) over device number and bits [51:12]: which of the links it takes (log entry 65). -/
opaque peerHash : Nat → Nat → Nat

/-- Which entry a full cache gives up: its place (log entry 7). -/
opaque freeVictim : Nat → Nat

/-- The pulses that a stretched die keeps of some clocks (R333), before it is cut to at most those clocks (log entry 8). -/
opaque freePulses : Nat → Nat → Nat

/-- The rounded result of FEXP2 or FLOG2 where the model's working precision does not decide it (log entry 9). -/
opaque freeRound : Nat → BitVec 32

/-- The handler block address that the firmware puts into XVECM (R133, log entry 10). -/
opaque fwXvecm : Word

/-- Whether SLH-DSA-SHAKE-256s (FIPS 205) accepts a signature of a body under a key (R392, log entry 11). -/
opaque slhDsaAccepts : List Byte → List Byte → List Byte → Bool

/-- The ROM code, the fuse configuration and the vendor public key's digest in the fuses (R392, R394, log entry 11). -/
opaque romCode : List Byte
opaque fuseConfig : List Byte
opaque fuseKeyDigest : List Byte

/-- The firmware image in the flash as delivered, the vendor public key an image carries and the place of its signature in it, and the repair map
as delivered (log entry 11). -/
opaque factoryFlash : List Byte
opaque imageKey : List Byte → List Byte
opaque sigAt : List Byte → Nat
opaque factoryRepairMap : List Byte

/-- The certificate chain in slot 0, its digest, the SPDM payloads and the challenge signature (R395, log entry 12). -/
opaque certChain : List Byte
opaque certDigest : List Byte
opaque spdmVersions : List Byte
opaque spdmCapabilities : List Byte
opaque spdmAlgorithms : List Byte
opaque challengeAnswer : Nat → List Byte → List Byte → List Byte

/-- Revision and serial number of the part (R398, log entry 13). -/
opaque partRevision : BitVec 16
opaque partSerial : Word

end Sys2Proof.Config
end

