-- ==== Sys2Proof/Machine/State.lean ====
section
/-!
DEFINITION. The state of the device as plain data: everything the spec gives the machine, the fault and refusal reasons,
and the state right after reset.

Keys are Nats: cv = 256 · die + cove, ce = 16 · cv + cell, x = 4 · cv + context, node = 16 · ce + slot,
endpoint = 32 · ce + (identifier - 0x20), queue = 32 · ce + identifier, sb = 128 · cv + scoreboard index
(0-15 ports, 16-79 copy queues, 80 configuration, 81 task, 82 unmasking, 83 system; 262144 the host mailbox).
-/
namespace Sys2Proof.Machine

/-! ### Outcomes -/

/-- The machine has no fault that stops it: every fault of the spec is a trap, a record or a rejection, which are next
states. The one constructor is raised by `step` on a turn that names a slot, node or command where an event must stand, which
no agent of the device is. Safe: nothing is claimed of such a step. -/
inductive Fault where
  /-- Raised by `step`: the turn's event is an instruction that only a block, a node slot or a scoreboard can supply. Safe. -/
  | notAnEvent
  deriving DecidableEq, Repr

/-- Why an instruction has no meaning here. -/
inductive Refusal where
  /-- Raised by `exec` for an instruction whose meaning is not written yet. Safe. -/
  | notModelled (mnemonic : String)
  /-- Raised by `step` where the encoding at the agent's place decodes to nothing, which the checks of R104, R119 and the
  loader (R59, R127) exclude in every state a run reaches. Safe. -/
  | noDecode
  deriving DecidableEq, Repr

/-! ### Small types -/

/-- Privilege (R129): task, device runtime, management firmware. -/
inductive Priv where
  | u | s | m
  deriving DecidableEq, Repr

/-- The memory behind a resolved address: device HBM, host memory, shore memory, or another device's space, reached over the link that
the access was sent on (R391); an access sent with no link left, or whose link went down under it, has none. -/
inductive Space where
  | hbm | host | shore
  | peer (dev : Nat) (link : Option Nat)
  deriving DecidableEq, Repr

/-- A resolved address. -/
structure PA where
  sp  : Space
  adr : Nat
  deriving DecidableEq, Repr

/-- A token (R33). -/
structure Tok where
  kind : BitVec 4
  pay  : BitVec 128
  sb   : BitVec 16
  deriving DecidableEq, Repr

/-- A byte memory: the listed addresses, rising, none equal to what an unlisted address reads as. -/
abbrev Memory := List Host.Cell

/-- An agent that makes accesses or freezes on a fault record. -/
inductive Agent where
  | ctx (x : Nat)
  | node (n : Nat)
  | port (cv p : Nat)
  | copy (cv q : Nat)
  | job (j : Nat)
  | umx (eng : Nat)
  | target (sb : Nat)
  deriving DecidableEq, Repr

/-! ### Control-core contexts -/

/-- What the exit of a block does (R162, R169). -/
inductive ExitKind where
  | branch | yield | halt | eret
  deriving DecidableEq, Repr

/-- What an executed slot does at commit (R141). -/
inductive Eff where
  | nothing
  | put (r : Nat) (v : Word)
  | bbarm (bar n : Nat)
  | wrcsr (csr : Nat) (v : Word)
  | store (pa : PA) (va : Word) (n : Nat) (v : Word)
  | atomic (op : Nat) (pa : PA) (va : Word) (v c : Word) (d : Nat)
  | scmd (w : BitVec 128)
  | pop (f : Nat)
  | push (f : Nat) (t : Tok)
  | signal (bar n : Nat)
  | bar (level : Nat)
  | sys (code : Nat)
  | exit (k : ExitKind) (next : Word)
  | call (next : Word) (r : Nat) (link : Word)
  deriving DecidableEq, Repr

/-- A slot of the block in flight: waiting (FENCE, WAIT, QPOP) since a clock, done with its value, effect and FP32 flags,
predicated off, or trapped. A slot with no entry has not executed. -/
inductive SlotSt where
  | wait (since : Nat)
  | done (v : Word) (e : Eff) (fl : BitVec 5)
  | off
  | trapped (cause : BitVec 8) (addr : Word)
  deriving DecidableEq, Repr

/-- The block in flight: its address, the words and pool bytes read at its fetch (R105), APEND as the block began (R175), and
its slots. -/
structure Blk where
  base  : Word
  body  : List (BitVec 32)
  pool  : List Byte
  apend : Bool
  slots : Tab SlotSt
  deriving DecidableEq, Repr

/-- The state of a context (R129). BARWAIT keeps its level; YIELDWAIT keeps the clock of the yield and, for each context
awaited, the number of blocks it had committed. -/
inductive CtxSt where
  | run
  | barwait (level : Nat)
  | yieldwait (since : Nat) (await : List (Nat × Nat))
  | halted
  deriving DecidableEq, Repr

/-- One hardware context (R129, R133): its control registers, its general registers, its place in the program; `seen` is its
view of the core's block cache (R130): each 64-byte line that a fetch of the core has read, with the bytes that its own fetches see until its
next FENCE (R105), none where the line was poisoned. -/
structure Ctx where
  st       : CtxSt
  rid      : Nat
  g        : Tab Word
  xcause   : Word
  xblock   : Word
  xslot    : Word
  xaddr    : Word
  xvec     : Word
  xvecm    : Word
  xscratch : Word
  aie      : Bool
  intrap   : Bool
  pprv     : Priv
  prv      : Priv
  frm      : BitVec 2
  ff       : BitVec 5
  evts     : List Nat
  next     : Word
  blk      : Option Blk
  back     : Option CtxSt
  commits  : Nat
  seen     : Tab (Option (List Byte))
  deriving DecidableEq, Repr

/-! ### Fabric -/

/-- A token held in a queue, with the uses left of it (R41) and the arm that delivered it (R74). -/
structure QTok where
  tok  : Tok
  left : Nat
  arm  : Nat
  deriving DecidableEq, Repr

/-- An input queue (R35 to R46, R74). `src` are its producers' endpoints, `land` the landing slots of a shared window. -/
structure Queue where
  depth    : Nat
  sticky   : Nat
  win      : Bool
  toks     : List QTok
  debt     : Nat
  recv     : BitVec 16
  src      : List Nat
  land     : List (Option Tok)
  lastTie  : Nat
  lastArr  : Option Nat
  lastTake : Option Nat
  deriving DecidableEq, Repr

/-- An output endpoint (R36, R39, R48): the queue it feeds, the arm, its depth and credits, Sent and Dout. -/
structure Endp where
  dst     : Nat
  arm     : Nat
  depth   : Nat
  credits : Nat
  sent    : BitVec 16
  dout    : Nat
  deriving DecidableEq, Repr

/-- Sampling parameters of a cove (R204). -/
structure Samp where
  key0  : BitVec 32
  key1  : BitVec 32
  ctr   : Word
  k     : Nat
  topp  : BitVec 32
  temp  : BitVec 32
  shard : BitVec 32
  heads : Byte
  deriving DecidableEq, Repr

/-- The part of a node's state that only its operation reads. -/
inductive OpSt where
  | none
  /-- CVT: group count GP and, out of MX, the scale held and whether the block is poisoned (R228, R230). -/
  | cvt (gp : Nat) (x : Option Byte) (psn : Bool)
  /-- PACKB and CVT into MX: values gathered, as source bits (R218). -/
  | gather (vals : List (BitVec 64)) (psn : Bool)
  /-- UNPACKB: the tokens of the block held and the firings made on it (R232). -/
  | unpack (held : List Tok) (k : Nat)
  /-- ACC: the accumulator lanes, the poison mark, and whether DATA has been taken since the last emission (R236). -/
  | accum (a : List (BitVec 64)) (psn any : Bool)
  /-- SCAN: the carry (R235). -/
  | scan (c : BitVec 64)
  /-- HDR: START (R237). -/
  | hdr (start : Bool)
  /-- TILE: group count and fibre count (R249). -/
  | tile (c f : Nat)
  /-- ISECT, UNION: the coordinate last taken on each input (R250). -/
  | fibre (a b : Option Nat)
  /-- SQUASH: position and count (R252). -/
  | squash (j n : Nat)
  /-- EXIT: FLUSH when true (R69). -/
  | exit (flush : Bool)
  /-- CCHAIN: pass running, its values, its record, OUTST, clock of the last IDX, EOT pending, passes allowed (R65, R66). -/
  | chain (run : Bool) (v : List Int) (rec : List (Int × Int × Int)) (outst : Int) (last : Option Nat) (eot : Bool) (fresh : Bool)
  /-- SOURCE: pass running and tokens emitted of it (R247). -/
  | source (run : Bool) (k : Nat)
  /-- CTXSEL: the latch and the firings of the phase (R77). -/
  | ctxsel (latch : Bool) (cnt : Nat)
  /-- SORTCE: the pairs of the segment (R281). -/
  | sort (pairs : List (BitVec 64)) (psn : Bool)
  /-- TOPK: the pairs with finite keys, the valid lanes, all lanes, the parameters of the row (R282). -/
  | topk (pairs : List (BitVec 64)) (nvalid nlane : Nat) (par : Option Samp) (psn : Bool)
  /-- CUMTHR: the counter, the pairs and the parameters of the row (R284). -/
  | cum (c : Word) (pairs : List (BitVec 64)) (par : Option Samp) (psn : Bool)
  /-- ACCEPT: the counter, n, the drafts taken, the parameters of the round (R285). -/
  | accept (c : Word) (n : Nat) (drafts : List Tok) (par : Option Samp) (psn : Bool)
  /-- RESID: the counter, the p and q lanes and the parameters of the row (R286). -/
  | resid (c : Word) (p q : List (BitVec 32)) (par : Option Samp) (psn : Bool)
  /-- HEADMASK: the head count and the heads as latched (R271, R287). -/
  | headmask (h : Nat) (heads : Byte)
  /-- UMRANK: part of a step has been taken; `await` when its EOT has been handed over (R288). -/
  | umrank (started await : Bool)
  /-- A node with a back edge that has forwarded DRAIN and discards what still reaches it (R68). -/
  | drained
  deriving DecidableEq, Repr

/-- A reply place of a memory node, in issue order (R256, R50): the access awaited, the token to be emitted once none is, the outputs
whose consumer owes the load (bit 0 OUT_0, bit 1 OUT_1), whether a settle marker takes the reply's place, and whether the place is that of a load
cancelled before its issue, whose settle marker has been sent (R49). -/
structure Rep where
  acc    : Option Nat
  tok    : Option Tok
  owed   : Nat
  settle : Bool
  gone   : Bool
  deriving DecidableEq, Repr

/-- The state of one node of the active context: tokens pending on its two outputs (R218), its operation's state, its
arbitration weight and credit (R325), its replies, the record it is frozen on, whether it has forwarded DRAIN (R54),
whether it has emitted EOS (R52), its firing count (R341), E of R50, and the done marks of its emissions awaited by ORD (R263). -/
structure Node where
  pend    : List (Option Tok × Option Tok)
  op      : OpSt
  weight  : Nat
  credit  : Int
  reps    : List Rep
  frozen  : Option Nat
  drained : Bool
  eos     : Bool
  firings : Nat
  emitted : Nat
  marks   : List (List Nat)
  deriving DecidableEq, Repr

/-- One wave record (R264): the node, its triplet, and the access it carries (none for a null record). -/
structure WaveRec where
  node : Nat
  pred : Nat
  self : Nat
  succ : Nat
  acc  : Option Nat
  seq  : Nat
  deriving DecidableEq, Repr

/-- The parameters of a coupled channel (R201); `i` is none for off. -/
structure CoupPar where
  s    : Nat
  p    : Nat
  i    : Option Nat
  q    : Nat
  wmin : Nat
  wmax : Nat
  mode : Nat
  deriving DecidableEq, Repr

/-- A coupling entry as loaded: its place in the table, the producer endpoint 0-31 of its cell, its parameters. -/
structure CoupEnt where
  order : Nat
  ep    : Nat
  par   : CoupPar
  deriving DecidableEq, Repr

/-- A cell record of an image, as loaded into one context slot of a cell (R193), with the coupling entries of its endpoints. The
destinations of `endp` are resolved: absolute die, cove and cell. -/
structure CellImg where
  nodes : List (BitVec 128)
  depth : List Byte
  endp  : List (BitVec 32)
  puse  : Byte
  coup  : List CoupEnt
  deriving DecidableEq, Repr

/-- A fabric cell: its loaded context slots, the dynamic state of the active one, its 16 flag sets (R96) with the clock at which each was
last raised and the flags raised in it (R97), its wave chain (R265: LAST, NEED, records in arrival order, the wave error, the clock in which the last record was accepted) and the clock of
its last firing (R40). -/
structure Cell where
  imgs     : Tab CellImg
  queues   : Tab Queue
  endps    : Tab Endp
  nodes    : Tab Node
  flags    : Tab (BitVec 5)
  raised   : Tab (Nat × BitVec 5)
  wLast    : Nat
  wNeed    : Nat
  wRecs    : List WaveRec
  wErr     : Bool
  wSeq     : Nat
  wAt      : Option Nat
  lastFire : Option Nat
  deriving DecidableEq, Repr

/-- What travels on a channel: a token, a settle marker, a credit, or an anti-token with its position (R45, R46). -/
inductive Cargo where
  | tok (t : Tok)
  | settle
  | credit
  | anti (p : BitVec 16)
  deriving DecidableEq, Repr

/-- A packet in flight on a channel (named by its producer endpoint): the router it stands at, 256 · die + its place on the ring, the router it came
from, whose input buffer holds it (its own for one not advanced yet), the clock it last advanced, and, while the escape lane
carries it, the die and the place on that die's ring (R61, R62). -/
structure Packet where
  ch     : Nat
  cargo  : Cargo
  router : Nat
  via    : Nat
  since  : Nat
  lane   : Option (Nat × Nat)
  deriving DecidableEq, Repr

/-! ### Ports, copy queues, jobs -/

/-- An issued element of a port: its access, the token when its data is back, and what follows it. -/
structure RobE where
  acc    : Option Nat
  tok    : Option Tok
  behind : Option Tok
  deriving DecidableEq, Repr

/-- A stream binding (R184 to R187): the parameter block and the port's counters. `kind` 0 affine, 1 shore, 2 gather, 3 scatter. -/
structure Bind where
  kind   : Nat
  read   : Bool
  base   : Word
  fmt    : Nat
  lanes  : Nat
  eotl   : Option Nat
  dims   : List Nat
  strs   : List Int
  bar    : Option Nat
  idx    : List Nat
  fin    : Bool
  rob    : List RobE
  job    : Option Nat
  deriving DecidableEq, Repr

/-- One translation held by a cache (R338): tagged by its root; `size` 0 64 KiB, 1 2 MiB, 2 1 GiB. -/
structure TEnt where
  root : Nat
  vpn  : Nat
  size : Nat
  base : Nat
  mt   : Bool
  r    : Bool
  w    : Bool
  deriving DecidableEq, Repr

/-- A stream port: its binding, the tokens delivered since the bind (D), tokens held for its node, each with the accesses of earlier elements
not performed at its delivery (R263), for a write port the address and
translation of the element that its next token makes (no segment for an element to be diverted), the range written (R307), whether it
has emitted EOS (R173), whether it has taken EOS from its node (R188), whether it still delivers the EOS of an
earlier binding, UNBIND pending (with ABORT), the record it is frozen on. -/
structure Port where
  bind   : Option Bind
  dlv    : Nat
  buf    : List (Tok × List Nat)
  rdy    : Option (Word × List (PA × Nat))
  lo     : Option Word
  hi     : Option Word
  eos    : Bool
  took   : Bool
  old    : Bool
  unb    : Option Bool
  frozen : Option Nat
  deriving DecidableEq, Repr

/-- A copy template (R189) with the context that armed it (R349). -/
structure Tmpl where
  src    : Word
  dst    : Word
  bytes  : Nat
  sstep  : Int
  dstep  : Int
  bar    : Option Nat
  trapm  : Bool
  trig   : Bool
  layout : Word
  ctx    : Nat
  rid    : Nat
  deriving DecidableEq, Repr

/-- A copy queue (R190, R191, R348, R349, R366): tokens, template, next firing, tokens taken since the arm, the firing that
stands (its OFFSET, the record it is frozen on and the side that faulted), the PATCH of each side with the offset it starts from, the
range written, DISARM pending, the poison record. -/
structure CopyQ where
  toks   : List Tok
  tmpl   : Option Tmpl
  f      : Nat
  dlv    : Nat
  cur    : Option Nat
  frozen : Option Nat
  wside  : Bool
  spatch : Option (Word × Nat)
  dpatch : Option (Word × Nat)
  lo     : Option Word
  hi     : Option Word
  disarm : Bool
  psnRec : Option Nat
  deriving DecidableEq, Repr

/-- A job of an undertow engine (R186, R187, R351, R352). `pos` is the next index position, `lim` the end of the segment in progress, `bw`
the accesses in its backwash queue, `wordVa` the array word it has stopped at. -/
structure Job where
  cv      : Nat
  port    : Nat
  rid     : Nat
  eng     : Nat
  scat    : Bool
  base    : Word
  idxptr  : Word
  offptr  : Word
  count   : Nat
  nseg    : Nat
  scale   : Nat
  fmt     : Nat
  lanes   : Nat
  idx64   : Bool
  comm    : Bool
  op      : Nat
  cursor  : Word
  pos     : Nat
  lim     : Option Nat
  seg     : Nat
  deliv   : Nat
  bw      : List Nat
  record  : Option Nat
  wordVa  : Option Word
  susp    : Bool
  ended   : Bool
  deriving DecidableEq, Repr

/-! ### Matrix node -/

/-- An entry of the control queue: what is left of a command, with flag Q of its MMA and whether it has been begun, or a token to pass
on (R274, R277, R278). -/
inductive MxIn where
  | cmd (w : BitVec 64) (q begun : Bool)
  | tok (t : Tok)
  deriving DecidableEq, Repr

/-- One tile of an operand buffer (R276). -/
structure Tile where
  toks : List Tok
  psn  : Bool
  deriving DecidableEq, Repr

/-- An operand buffer: its tiles, oldest first, and whether it holds DRAIN. -/
structure MBuf where
  tiles : List Tile
  drain : Bool
  deriving DecidableEq, Repr

/-- The emit buffer (R278): the accumulators copied, the poison mark, RFMT/EHDR/ETOK, and the tokens delivered so far. -/
structure Emit where
  c    : Tab (BitVec 32)
  pm   : Bool
  opts : BitVec 3
  q    : Bool
  pos  : Nat
  deriving DecidableEq, Repr

/-- One plane of the matrix node (R272): control queue, operand buffers, accumulators (key 64 · i + j), poison mark, emit
buffer, and the queue of the consumer of 0x91. -/
structure Plane where
  ctl  : List MxIn
  bufs : Tab MBuf
  c    : Tab (BitVec 32)
  pm   : Bool
  em   : Option Emit
  res  : Queue
  deriving DecidableEq, Repr

/-- An entry of the matrix slot table (R203): CTX, HALF, LEN. Entries with VALID = 0 are absent. -/
structure MEnt where
  ctx  : Nat
  half : Bool
  len  : Nat
  deriving DecidableEq, Repr

/-- The arbitration among units of one kind (R325): the credit of each, and the clock of the last choice. -/
structure Arb where
  credit : Tab Int
  last   : Option Nat
  deriving DecidableEq, Repr

/-- One line of the control core's read buffer (R159). -/
structure Line where
  adr  : PA
  data : List Byte
  deriving DecidableEq, Repr

/-- A cove: barriers, with the clock and the sum of the credits that arrived last at each (R302), token FIFOs (with those, from the control
core, that an EOS has left, R52, and the tokens pushed on them that have not arrived yet, with the residency, R38), ports and copy queues with their arbitrations (R325), contexts with the one that issued last and its clock
(R130), read buffer, the lines that the block cache holds (R10), matrix node with the planes whose work waits, in arrival order (R203, R279), sampling parameters. -/
structure Cove where
  bars   : Tab (BitVec 32)
  crd    : Tab (Nat × Nat)
  tq     : Tab (List Tok)
  fq     : Tab Queue
  fqEos  : List Nat
  fqIn   : Tab (List (Nat × Tok))
  ports  : Tab Port
  cqs    : Tab CopyQ
  parb   : Arb
  qarb   : Arb
  ctxs   : Tab Ctx
  lastCtx : Nat
  issueAt : Option Nat
  rbuf   : List Line
  bcache : List Nat
  mflags : BitVec 5
  mraised : Nat × BitVec 5
  mreq   : List Nat
  planes : Tab Plane
  mslot  : Tab MEnt
  mnew   : Option (Tab MEnt)
  mpos   : Nat
  mstart : Nat
  samp   : Samp
  deriving DecidableEq, Repr

/-! ### Accesses, credits -/

/-- What an access does when it is performed. `rmw` carries the operation of R259, its format, operand and compare value;
`dirty` is the test, with its clear, of one bit (R262); `fadd` is a scatter's atomic add (R187). A piece of a copy is first the read of its
source (`copy`), then the write of what that returned, with its poison and whether it comes from shore memory (`cput`). -/
inductive AccKind where
  | rd (n : Nat)
  | wr (bytes : List (Nat × Byte))
  | rmw (op : Nat) (fmt : Nat) (v c : Word)
  | dirty (bit : Nat) (clr : Bool)
  | copy (src : List (PA × Nat)) (n : Nat)
  | cput (bytes : List Byte) (psn sh : Bool)
  | fadd (fmt : Nat) (lanes : Nat) (data : BitVec 128) (mask : BitVec 16)
  deriving DecidableEq, Repr

/-- An access in flight: who made it, for which residency, its pointer and its length in bytes, what it does, its resolved segments
once translated, its cell and acceptance number in a wave chain, whether it is issued, and its place in its stream (the element of
a port, the index position of a job, the issue order of a copy queue's requests). -/
structure Acc where
  id     : Nat
  ag     : Agent
  rid    : Nat
  va     : Word
  len    : Nat
  kind   : AccKind
  segs   : List (PA × Nat)
  wave   : Option (Nat × Nat)
  issued : Bool
  tag    : Nat
  deriving DecidableEq, Repr

/-- A credit on its way to a tidemark barrier, applied once the accesses it counts are performed (R302). -/
structure Credit where
  cv    : Nat
  bar   : Nat
  n     : Nat
  after : List Nat
  deriving DecidableEq, Repr

/-- A page-table walk in progress (R337, R338): its unit (die 0-7, 8 + stack, or 64 + 16 · cove + port), what it looks for and for
whom. -/
structure Walk where
  unit : Nat
  root : Nat
  va   : Word
  needR : Bool
  needW : Bool
  ag   : Agent
  acc  : Option Nat
  deriving DecidableEq, Repr

/-! ### Residencies and tasks -/

/-- The fields of a launch that its tasks share (R310, R311): LEVMASK, extents (entry 3L + d), GROUP, GSIZE, ARGBASE. -/
structure Launch where
  levmask : Byte
  ext     : List Nat
  group   : Nat
  gsize   : Nat
  argbase : Word
  deriving DecidableEq, Repr

/-- A task record (R199) with its launch and the root that its TASK.LAUNCH took; a record of the host takes its root at its dispatch
(R335, R386). -/
structure TaskRec where
  bits : BitVec 128
  lch  : Launch
  root : Option Nat
  deriving DecidableEq, Repr

/-- A task-type entry (R313). -/
structure TypeEnt where
  image   : Word
  entry   : Word
  report  : Word
  cycles  : Nat
  permits : Nat
  w       : Nat
  h       : Nat
  kind    : Nat
  ndies   : Nat
  coves   : Nat
  ncells  : Nat
  nslots  : Nat
  shore   : Nat
  nctx    : Nat
  valid   : Bool
  dec     : Bool
  donectr : Nat
  ndelta  : Nat
  delta   : Word
  wins    : List (BitVec 32)
  handler : Word
  priv    : Nat
  form    : Bool
  deriving DecidableEq, Repr

/-- The region of a residency (R15, R193, R319): KIND, dies in order, origin cove, width, height, and for a half-cove which half. -/
structure Region where
  kind : Nat
  dies : List Nat
  org  : Nat
  w    : Nat
  h    : Nat
  half : Nat
  deriving DecidableEq, Repr

/-- A coupled channel and its regulator (R326, R328). -/
structure Coup where
  ep    : Nat
  prod  : Nat
  cons  : Nat
  par   : CoupPar
  nxt   : Option CoupPar
  sum   : Int
  fc    : Int
  ec    : Int
  integ : Int
  start : Nat
  deriving DecidableEq, Repr

/-- The sent and received counters of a detector agent, 48 bits each, and its activity flag (R55). -/
structure Det where
  fs  : BitVec 48
  fr  : BitVec 48
  rs  : BitVec 48
  rr  : BitVec 48
  ms  : BitVec 48
  mr  : BitVec 48
  act : Bool
  deriving DecidableEq, Repr

/-- Activity of a residency's units in the current permit window (R331), and the bytes of its deep and peer requests (R332). -/
structure Act where
  fires : Nat
  mac   : Nat
  sort  : Nat
  hbm   : Nat
  link  : Nat
  jobs  : Nat
  far   : Nat
  deriving DecidableEq, Repr

/-- A source of the drain that has not received its DRAIN yet (R52). -/
inductive DrainSrc where
  | node (n : Nat)
  | fifo (cv f : Nat)
  deriving DecidableEq, Repr

/-- Placed, dying (a fatal fault is raised and not yet acted on) or ended by a fatal fault (R354). -/
inductive ResSt where
  | placed | dying | fatal
  deriving DecidableEq, Repr

/-- A residency: a placed task (R321, R322). -/
structure Residency where
  st       : ResSt
  region   : Region
  tidx     : Nat
  ent      : TypeEnt
  trec      : BitVec 128
  lch      : Launch
  root     : Nat
  queue    : Nat
  permits  : Nat
  wins     : Tab (BitVec 32)
  active   : Option Nat
  pend     : Option Nat
  nct      : Tab (BitVec 3)
  drainOn  : Bool
  drainSrc : List DrainSrc
  actAt    : Nat
  placedAt : Nat
  wdFired  : Bool
  parking  : Bool
  logOvf   : Bool
  since    : Nat
  reported : Bool
  dlWrote  : Bool
  coups    : List Coup
  det      : Tab Det
  act      : Act
  winStart : Nat
  gate     : Nat
  deriving DecidableEq, Repr

/-- A command in a scoreboard (R177): its bits, who issued it, the accesses it is released after (R179), its parameter block where it has been
read and the command waits on (R182), and the issuing residency where it has retired with the command still queued (R177, R324). -/
structure Cmd where
  w    : BitVec 128
  x    : Nat
  rid  : Nat
  prv  : Priv
  host : Bool
  rel  : List Nat
  block : Option (List Byte)
  gone : Option Residency
  deriving DecidableEq, Repr

/-- Task queues, held records, dependence counters and the arbiter (R315 to R317): the clock at which each queue's head
became its head and that since which it is a candidate, its ageing steps and blocking mark, the last queue dispatched at each priority,
the last decision, the last port write taken and those that wait, oldest first (R385). -/
structure Tasks where
  queues   : Tab (List TaskRec)
  held     : List (Nat × TaskRec)
  dep      : Tab (BitVec 32)
  headAt   : Tab Nat
  candAt   : Tab Nat
  aged     : Tab Nat
  blocking : List Nat
  rr       : Tab Nat
  lastDec  : Option Nat
  lastPort : Option Nat
  portq    : List (Nat × Word)
  deriving DecidableEq, Repr

/-- An arrival at a level barrier or a phase barrier (R168, R198). -/
structure Arrival where
  phase  : Bool
  level  : Nat
  rid    : Nat
  cv     : Nat
  x      : Nat
  credit : Option (Nat × Nat)
  after  : List Nat
  deriving DecidableEq, Repr

/-! ### Unmasking engines -/

/-- A round of an unmasking engine (R205): its parameters, or closed, with the turn at which UMX.CLOSE was last performed. -/
structure Round where
  isOpen  : Bool
  maskp   : Word
  dirtyp  : Word
  stalep  : Word
  npos    : Nat
  tau     : BitVec 32
  share   : Nat
  cmin    : Nat
  cmax    : Nat
  radius  : Nat
  stale   : Nat
  lgroups : Nat
  bar     : Option Nat
  barcove : Nat
  root    : Nat
  rid     : Nat
  closedAt : Option Nat
  deriving DecidableEq, Repr

/-- One access of an engine's step (R378): clear of mask bits, staleness update, dirty OR. -/
inductive UmxAcc where
  | mask (va : Word) (andw : Word)
  | stale (va : Word) (lanes : List (Nat × Bool))
  | dirty (va : Word) (orw : BitVec 16)
  deriving DecidableEq, Repr

/-- A step handed over by a UMRANK node (R288): its residency, its round and node, the candidates so far, whether its EOT has come, poison;
once begun, the mask as read and M; once ranked, the commits, the accesses still to perform and the number performed. -/
structure UmxStep where
  rid   : Nat
  round : Nat
  node  : Nat
  cands : List Tok
  full  : Bool
  psn   : Bool
  begun : Bool
  ranked : Bool
  mask  : List Byte
  comm  : List Tok
  m     : Nat
  todo  : List UmxAcc
  done  : Nat
  deriving DecidableEq, Repr

/-- An unmasking engine (R375): 64 rounds, the steps in the order of their first candidates, the record it is frozen on. -/
structure Umx where
  rounds : Tab Round
  steps  : List UmxStep
  frozen : Option Nat
  deriving DecidableEq, Repr

/-- A parked residency (R358): what was saved (`banks` are the SHORE bytes of its cells by shore offset, `psn` the poisoned words among
them, `accs` the accesses not issued yet; its unmasking steps stay at their engines, log entry 129; `placedAt` and `winStart` of `res` are the clocks they have counted), the
save area with the resolved bytes of its header, why it was parked, and the resumes and events held. -/
structure Saved where
  res   : Residency
  coves : Tab Cove
  cells : Tab Cell
  banks : Memory
  psn   : List Nat
  accs  : List Acc
  arrs  : List Arrival
  jobs  : Tab Job
  sbs   : Tab (List Cmd)
  sbFz  : Tab Nat
  area  : Word
  hdr   : List PA
  why   : Nat
  held  : List Nat
  evts  : List (Nat × Nat)
  deriving DecidableEq, Repr

/-! ### Records, events, host, errors -/

/-- A fault record before it is written (R341). -/
structure Rec where
  kind  : Nat
  cause : Nat
  rid   : Nat
  st    : Nat
  acc   : Nat
  loc   : Nat
  unit  : Nat
  ctx   : Nat
  seq   : Nat
  count : Nat
  va    : Word
  i     : List Nat
  dlv   : Nat
  aux   : Word
  cycle : Nat
  deriving DecidableEq, Repr

/-- Fault-record bookkeeping (R340): the agent frozen on each open record, freezes that wait for a record (with the contexts,
by residency, that get its asynchronous event), lost records, the last content of each record the device holds. -/
structure Records where
  owner : Tab Agent
  wait  : List (Rec × Option Agent × List (Nat × Nat))
  lost  : Nat
  live  : Tab Rec
  deriving DecidableEq, Repr

/-- An event to the host (R388). -/
structure Ev where
  cls   : Nat
  index : Nat
  value : Word
  deriving DecidableEq, Repr

/-- A fatal fault that has been raised and not yet acted on (R354). -/
structure Fatal where
  rid : Nat
  frec : Rec
  deriving DecidableEq, Repr

/-- BAR0 registers (R383), the event ring's held entries (R389) and the MSI-X messages sent per vector (R388). -/
structure HostSt where
  fail    : Nat
  boot    : Nat
  evovf   : Bool
  devnum  : BitVec 10
  pool    : Nat
  ttbase  : Word
  frtbase : Word
  peertab : Word
  evbase  : Word
  evsize  : BitVec 4
  evhead  : Word
  evtail  : Word
  raspol  : Word
  compl   : Word
  hcmd0   : Word
  hcause  : Byte
  qdesc   : Tab Word
  held    : List Ev
  msix    : Tab Nat
  deriving DecidableEq, Repr

/-- Firmware, measurements and attestation (R392 to R397): whether the package has power, the flash and the repair map (none while they
hold what the part was delivered with), D1 to D4, M4, what the firmware puts into XVECM, the
latest answer of the DOE mailbox with its code. -/
structure BootSt where
  powered : Bool
  flash   : Option (List Byte)
  repair  : Option (List Byte)
  digests : List (List Byte)
  chain   : List Byte
  xvecm   : Word
  reply   : Option (Nat × List Byte)
  deriving DecidableEq, Repr

/-- Errors, scrub and sparing (R362 to R365). Rows are keyed by their address, stack · 48 · 2^30 + row. -/
structure Ras where
  corr     : Tab Nat
  bucket   : Tab Nat
  proposed : List Nat
  sparing  : List Nat
  spared   : List Nat
  lastSum  : Nat
  lastDec  : Nat
  deriving DecidableEq, Repr

/-- Power (R331 to R333, R399): the dies stretched, the pulses each die has skipped since reset, the clock since which each
die draws too much; and the place of each die's lifeline token on its ring (R61). -/
structure Power where
  stretched : List Nat
  skipped   : Tab Nat
  overSince : Tab Nat
  lifeline  : Tab Nat
  deriving DecidableEq, Repr

/-- What the checkpoint engine copies next (R400): given bytes, deep memory of the task, or memory at a device physical address. -/
inductive CkSeg where
  | lit (bs : List Byte)
  | deep (va n : Nat)
  | phys (pa n : Nat)
  deriving DecidableEq, Repr

/-- The checkpoint engine (R400, R401): the scoreboard and residency of its command, what is left to copy and where it goes, the address
of DONE, and how the command ends. -/
structure Ckpt where
  sb      : Nat
  rid     : Nat
  dest    : Word
  todo    : List CkSeg
  doneVa  : Word
  ending  : Nat
  skipped : Nat
  deriving DecidableEq, Repr

/-- A strandline entry (R307). -/
structure LogE where
  rid : Nat
  lo  : Word
  hi  : Word
  deriving DecidableEq, Repr

/-- Poison marks (R362, R363): HBM lines, host lines (64 bytes each) and shore words (8 bytes), by address. -/
structure Poison where
  hbm   : List Nat
  host  : List Nat
  shore : List Nat
  deriving DecidableEq, Repr

/-- Whose instruction the step executes. -/
inductive Focus where
  | none
  | slot (x k : Nat)
  | node (n : Nat)
  | cmd (sb : Nat)
  deriving DecidableEq, Repr

/-- The state of the device. -/
structure State where
  clock   : Nat
  agenda  : List Turn
  focus   : Focus
  turns   : Nat
  free    : Nat
  host    : HostSt
  boot    : BootSt
  tasks   : Tasks
  res     : Tab Residency
  parked  : Tab Saved
  coves   : Tab Cove
  cells   : Tab Cell
  sbs     : Tab (List Cmd)
  sbFz    : Tab Nat
  hbm     : Memory
  hostMem : Memory
  shore   : Memory
  poison  : Poison
  accs    : List Acc
  nextId  : Nat
  nextWave : Nat
  wire    : List Packet
  credits : List Credit
  tlb     : Tab (List TEnt)
  walks   : List Walk
  recs    : Records
  fatals  : List Fatal
  fences  : Tab Nat
  told    : List (Nat × Nat)
  logs    : Tab (List LogE)
  jobs    : Tab Job
  nextJob : Nat
  earb    : Tab Arb
  umx     : Tab Umx
  arrs    : List Arrival
  grpMsgs : List (Bool × Nat × Nat × Nat)
  peersDown : List Nat
  ras     : Ras
  power   : Power
  ckpt    : Option Ckpt
  ckptQ   : List Nat
  deriving DecidableEq, Repr

/-! ### Reset -/

/-- The host's registers after reset (R383, R384, R387): POOL 16,000, IDLE 1 (derived), everything else 0. -/
def HostSt.reset : HostSt where
  fail := 0
  boot := 0
  evovf := false
  devnum := 0
  pool := 16000
  ttbase := 0
  frtbase := 0
  peertab := 0
  evbase := 0
  evsize := 0
  evhead := 0
  evtail := 0
  raspol := 0
  compl := 0
  hcmd0 := 0
  hcause := 0
  qdesc := []
  held := []
  msix := []

/-- Sampling parameters before any SAMPLE.CFG (log entry 3). -/
def Samp.reset : Samp where
  key0 := 0
  key1 := 0
  ctr := 0
  k := 0
  topp := 0
  temp := 0
  shard := 0
  heads := 0

/-- The device right after reset: BOOT 0, nothing placed, every memory and table empty. -/
def State.reset : State where
  clock := 0
  agenda := []
  focus := .none
  turns := 0
  free := 0
  host := HostSt.reset
  boot := ⟨true, none, none, [], [], 0, none⟩
  tasks := ⟨[], [], [], [], [], [], [], [], none, none, []⟩
  res := []
  parked := []
  coves := []
  cells := []
  sbs := []
  sbFz := []
  hbm := []
  hostMem := []
  shore := []
  poison := ⟨[], [], []⟩
  accs := []
  nextId := 0
  nextWave := 0
  wire := []
  credits := []
  tlb := []
  walks := []
  recs := ⟨[], [], 0, []⟩
  fatals := []
  fences := []
  told := []
  logs := []
  jobs := []
  nextJob := 0
  earb := []
  umx := []
  arrs := []
  grpMsgs := []
  peersDown := []
  ras := ⟨[], [], [], [], [], 0, 0⟩
  power := ⟨[], [], [], []⟩
  ckpt := none
  ckptQ := []

end Sys2Proof.Machine
end

