-- ==== Sys2Proof/Machine/Tables.lean ====
section
/-!
DEFINITION. The operations of tables and byte memories, and the bit helpers every later file uses.
-/
namespace Sys2Proof.Machine

/-! ### Tables -/

/-- The entry of key `k`. -/
def Tab.find? {V : Type} : Tab V → Nat → Option V
  | [], _ => none
  | (k, v) :: t, q => if k = q then some v else Tab.find? t q

/-- The entry of key `k`, or `d` where the table has none. -/
def Tab.get {V : Type} (d : V) (t : Tab V) (k : Nat) : V := (Tab.find? t k).getD d

/-- The table with entry `k` set to `v`, keys kept rising. -/
def Tab.insert {V : Type} : Tab V → Nat → V → Tab V
  | [], k, v => [(k, v)]
  | (k', v') :: t, k, v =>
    if k < k' then (k, v) :: (k', v') :: t
    else if k = k' then (k, v) :: t
    else (k', v') :: Tab.insert t k v

/-- The table without entry `k`. -/
def Tab.erase {V : Type} : Tab V → Nat → Tab V
  | [], _ => []
  | (k', v') :: t, k => if k' = k then t else (k', v') :: Tab.erase t k

/-- Set entry `k` to `v`; an entry equal to the value an unlisted key reads as is not listed. -/
def Tab.put {V : Type} [DecidableEq V] (d : V) (t : Tab V) (k : Nat) (v : V) : Tab V :=
  if v = d then Tab.erase t k else Tab.insert t k v

/-- Whether the keys of a table rise. -/
def Tab.rising {V : Type} : Tab V → Bool
  | [] => true
  | [_] => true
  | a :: b :: t => decide (a.1 < b.1) && Tab.rising (b :: t)

/-- Apply `f` to the entry of `k`, where there is one. -/
def Tab.modify {V : Type} (t : Tab V) (k : Nat) (f : V → V) : Tab V :=
  t.map fun e => if e.1 = k then (e.1, f e.2) else e

/-- Entry `n` of a list, or `d` beyond its end. -/
def nth {V : Type} (d : V) : List V → Nat → V
  | [], _ => d
  | v :: _, 0 => v
  | _ :: t, n + 1 => nth d t n

/-- The list with entry `n` replaced. -/
def setNth {V : Type} : List V → Nat → V → List V
  | [], _, _ => []
  | _ :: t, 0, w => w :: t
  | v :: t, n + 1, w => v :: setNth t n w

/-- The list without entry `n`. -/
def dropNth {V : Type} : List V → Nat → List V
  | [], _ => []
  | _ :: t, 0 => t
  | v :: t, n + 1 => v :: dropNth t n

/-- Insert a number into a rising list without repeats. -/
def insNat : List Nat → Nat → List Nat
  | [], n => [n]
  | m :: t, n => if n < m then n :: m :: t else if n = m then m :: t else m :: insNat t n

/-! ### Byte memories -/

/-- What an address that is not listed reads as (log entry 2). -/
def Memory.unlisted : Byte := 0

/-- Whether every address of a memory lies above `lo`, rising, with no byte equal to the unlisted one. -/
def Memory.wfFrom : Nat → Memory → Bool
  | _, [] => true
  | lo, (a, b) :: t => decide (lo ≤ a) && (b != Memory.unlisted) && Memory.wfFrom (a + 1) t

/-- The canonical form of a byte memory. -/
def Memory.wf (m : Memory) : Bool := Memory.wfFrom 0 m

/-- Read one byte. -/
def Memory.rd : Memory → Nat → Byte
  | [], _ => Memory.unlisted
  | (a, b) :: t, q => if a = q then b else if q < a then Memory.unlisted else Memory.rd t q

/-- Write one byte; writing the value an unlisted address reads as removes the entry. -/
def Memory.wr : Memory → Nat → Byte → Memory
  | [], q, v => if v = Memory.unlisted then [] else [(q, v)]
  | (a, b) :: t, q, v =>
    if q < a then (if v = Memory.unlisted then (a, b) :: t else (q, v) :: (a, b) :: t)
    else if a = q then (if v = Memory.unlisted then t else (q, v) :: t)
    else (a, b) :: Memory.wr t q v

/-- `n` bytes from address `a` on. -/
def Memory.rdN (m : Memory) (a : Nat) : Nat → List Byte
  | 0 => []
  | n + 1 => Memory.rd m a :: Memory.rdN m (a + 1) n

/-- Write bytes from address `a` on. -/
def Memory.wrN (m : Memory) (a : Nat) : List Byte → Memory
  | [] => m
  | b :: t => Memory.wrN (Memory.wr m a b) (a + 1) t

/-! ### Bits and bytes -/

/-- `n` low bits of a Nat from bit `lo`. -/
def bitsOf (w lo n : Nat) : Nat := (w >>> lo) % 2 ^ n

/-- Bit `i` of a Nat. -/
def bitOf (w i : Nat) : Bool := (w >>> i) % 2 = 1

/-- The little-endian value of bytes (R5). -/
def leNat : List Byte → Nat
  | [] => 0
  | b :: t => b.toNat + 256 * leNat t

/-- The `n` bytes of a value, least significant first (R5). -/
def leBytes (v : Nat) : Nat → List Byte
  | 0 => []
  | n + 1 => BitVec.ofNat 8 (v % 256) :: leBytes (v / 256) n

/-- A field of `n` bits read as two's complement. -/
def sext (n v : Nat) : Int := if 2 * v < 2 ^ n then (v : Int) else (v : Int) - (2 ^ n : Nat)

/-- An integer cut to `n` bits. -/
def cutInt (n : Nat) (i : Int) : Nat := (i % ((2 ^ n : Nat) : Int)).toNat

/-- A 64-bit value as signed. -/
def sw (v : Word) : Int := v.toInt

/-- Cut a list into pieces of `n` with `fuel` pieces at most. -/
def chunks {V : Type} (n : Nat) : Nat → List V → List (List V)
  | 0, _ => []
  | f + 1, l => l.take n :: chunks n f (l.drop n)

/-- The numbers from `a`, `n` of them. -/
def span (a : Nat) : Nat → List Nat
  | 0 => []
  | n + 1 => a :: span (a + 1) n

/-- Whether a list of numbers has the number. -/
def has (l : List Nat) (n : Nat) : Bool := l.contains n

end Sys2Proof.Machine
end

