-- ==== Sys2Proof/Machine/Addr.lean ====
section
/-!
DEFINITION. Places and addresses: the geometry of the device, the address classes with their checks (R13 to R20), the
page-table walk and the translation caches (R335 to R339), and reads and writes of resolved bytes.
-/
namespace Sys2Proof.Machine

/-! ### Geometry (R10, R11) -/

/-- The die of a cove key. -/
def dieOf (cv : Nat) : Nat := cv / 256

/-- The cove number within the die of a cove key. -/
def coveNo (cv : Nat) : Nat := cv % 256

/-- The bay of a cove (R11): its mesh row. -/
def bayOf (cv : Nat) : Nat := coveNo cv / 16

/-- The cove of a context key, a cell key, a queue or endpoint key, and a node key. -/
def cvOfX (x : Nat) : Nat := x / 4
def cvOfCe (ce : Nat) : Nat := ce / 16
def ceOfQ (q : Nat) : Nat := q / 32
def ceOfNode (n : Nat) : Nat := n / 16
def cvOfNode (n : Nat) : Nat := n / 256

/-- The scoreboard key of entry `i` of cove `cv`, and the cove of a scoreboard key. -/
def sbKey (cv i : Nat) : Nat := 128 * cv + i
def cvOfSb (sb : Nat) : Nat := sb / 128

/-- The host mailbox's scoreboard (R387). -/
def mailbox : Nat := 262144

/-- All cove keys of the device, in die and cove order. -/
def allCoves : List Nat := (span 0 8).flatMap fun d => (span 0 192).map fun c => 256 * d + c

/-! ### Regions (R15, R193, R319) -/

/-- Whether a cove belongs to the region. -/
def Region.hasCove (r : Region) (cv : Nat) : Bool :=
  if r.kind = 2 then has r.dies (dieOf cv) && decide (coveNo cv < 192)
  else has r.dies (dieOf cv)
    && decide (r.org % 16 ≤ coveNo cv % 16 ∧ coveNo cv % 16 < r.org % 16 + r.w)
    && decide (r.org / 16 ≤ coveNo cv / 16 ∧ coveNo cv / 16 < r.org / 16 + r.h)

/-- Whether a cell belongs to the region: of a half-cove only its 8 cells (R17). -/
def Region.hasCell (r : Region) (ce : Nat) : Bool :=
  r.hasCove (cvOfCe ce) && (r.kind != 1 || decide (ce % 16 / 8 = r.half))

/-- Region die k (R15). -/
def Region.die (r : Region) (k : Nat) : Option Nat :=
  if r.kind = 2 then (if k < r.dies.length then some (nth 0 r.dies k) else none)
  else (let d := nth 0 r.dies 0 + k; if d < 8 then some d else none)

/-- The coves of the region, in die and cove order. -/
def Region.coves (r : Region) : List Nat :=
  if r.kind = 2 then r.dies.flatMap fun d => (span 0 192).map fun c => 256 * d + c
  else (span 0 r.h).flatMap fun dy => (span 0 r.w).map fun dx => 256 * nth 0 r.dies 0 + r.org + 16 * dy + dx

/-- The cells of the region, in die, cove and cell order. -/
def Region.cells (r : Region) : List Nat :=
  r.coves.flatMap fun cv =>
    if r.kind = 1 then span (16 * cv + 8 * r.half) 8 else span (16 * cv) 16

/-! ### Clocks (R333) -/

/-- The clocks a die has counted since reset: those that have passed less the pulses it skipped. -/
def dieClock (s : State) (d : Nat) : Nat := s.clock - Tab.get 0 s.power.skipped d

/-- CYCLE of a cove (R133). -/
def cycleOf (s : State) (cv : Nat) : Nat := dieClock s (dieOf cv)

/-! ### Device memory bytes -/

/-- One byte of device HBM. -/
def hbmByte (s : State) (a : Nat) : Byte := Memory.rd s.hbm a

/-- The little-endian value of `n` bytes of device HBM. -/
def hbmNat (s : State) (a n : Nat) : Nat := leNat (Memory.rdN s.hbm a n)

/-- Write one byte of device HBM; physical page 0 discards writes (R397). -/
def hbmWr (s : State) (a : Nat) (b : Byte) : State :=
  if a < 65536 then s else { s with hbm := Memory.wr s.hbm a b }

/-- Read one byte at a resolved address. A byte of another device is no byte of this one (see `rdSegs`). -/
def rdPA (s : State) (p : PA) : Byte :=
  match p.sp with
  | .hbm => Memory.rd s.hbm p.adr
  | .host => Memory.rd s.hostMem p.adr
  | .shore => Memory.rd s.shore p.adr
  | .peer _ _ => 0

/-- Write one byte at a resolved address; a byte of another device leaves this one. -/
def wrPA (s : State) (p : PA) (b : Byte) : State :=
  match p.sp with
  | .hbm => hbmWr s p.adr b
  | .host => { s with hostMem := Memory.wr s.hostMem p.adr b }
  | .shore => { s with shore := Memory.wr s.shore p.adr b }
  | .peer _ _ => s

/-- Write a list of bytes at resolved addresses, first to last. -/
def wrPAs (s : State) : List (PA × Byte) → State
  | [] => s
  | e :: t => wrPAs (wrPA s e.1 e.2) t

/-! ### Poison (R362, R363) -/

/-- Whether a resolved byte is poisoned. -/
def psnAt (s : State) (p : PA) : Bool :=
  match p.sp with
  | .hbm => has s.poison.hbm (p.adr / 64)
  | .host => has s.poison.host (p.adr / 64)
  | .shore => has s.poison.shore (p.adr / 8)
  | .peer _ _ => false

/-- Whether a write to a resolved byte lands: those to physical page 0 are discarded (R397). -/
def lands (p : PA) : Bool := !decide (p.sp = .hbm ∧ p.adr < 65536)

/-- Mark the unit of a resolved byte. -/
def psnMark (s : State) (p : PA) : State :=
  match p.sp with
  | .hbm => { s with poison := { s.poison with hbm := insNat s.poison.hbm (p.adr / 64) } }
  | .host => { s with poison := { s.poison with host := insNat s.poison.host (p.adr / 64) } }
  | .shore => { s with poison := { s.poison with shore := insNat s.poison.shore (p.adr / 8) } }
  | .peer _ _ => s

/-- Whether a write list covers every byte of the unit at `base`, `n` bytes long, of space `sp`. -/
def coversUnit (l : List (PA × Byte)) (sp : Space) (base n : Nat) : Bool :=
  (span base n).all fun a => l.any fun e => decide (e.1 = ⟨sp, a⟩)

/-- One write clears the mark of every poisoned unit that it covers whole (R363). -/
def psnClear (s : State) (l : List (PA × Byte)) : State :=
  let p := s.poison
  if p.hbm.isEmpty && p.host.isEmpty && p.shore.isEmpty then s
  else { s with poison :=
    { hbm := p.hbm.filter fun u => !coversUnit l .hbm (64 * u) 64
      host := p.host.filter fun u => !coversUnit l .host (64 * u) 64
      shore := p.shore.filter fun u => !coversUnit l .shore (8 * u) 8 } }

/-- Perform one write of bytes at resolved addresses; a discarded byte clears no mark either. -/
def writeBytes (s : State) (l : List (PA × Byte)) : State := psnClear (wrPAs s l) (l.filter fun e => lands e.1)

/-- The resolved byte addresses of segments. -/
def segPAs (segs : List (PA × Nat)) : List PA :=
  segs.flatMap fun e => (span e.1.adr e.2).map fun a => ⟨e.1.sp, a⟩

/-! ### Rights and classes (R13 to R20) -/

/-- Why an access fails: its cause, and the remote cause in AUX for a peer (R337). -/
structure XErr where
  cause : Nat
  aux   : Nat
  deriving DecidableEq, Repr

/-- The rights an access is made with: the residency's region and windows, its translation root, and whether R17 is waived. -/
structure Rt where
  rid  : Nat
  reg  : Option Region
  wins : Tab (BitVec 32)
  root : Nat
  priv : Bool
  deriving DecidableEq, Repr

/-- The rights of a residency's agents; `priv` for a context at S or M. -/
def rtOf (s : State) (rid : Nat) (priv : Bool) : Rt :=
  match Tab.find? s.res rid with
  | some r => ⟨rid, some r.region, r.wins, r.root, priv⟩
  | none => ⟨rid, none, [], 0, priv⟩

/-- Whether a granted-window word (R314) admits an access to a cove. -/
def winAdmits (w : BitVec 32) (cv : Nat) (write : Bool) : Bool :=
  let n := w.toNat
  let c := coveNo cv
  bitOf n 21 && decide (bitsOf n 16 3 = dieOf cv) && (!write || bitOf n 20)
    && decide (bitsOf n 0 4 ≤ c % 16 ∧ c % 16 ≤ bitsOf n 0 4 + bitsOf n 8 4)
    && decide (bitsOf n 4 4 ≤ c / 16 ∧ c / 16 ≤ bitsOf n 4 4 + bitsOf n 12 4)

/-- R17: whether a shore access to a cell is within the rights. -/
def shoreOk (rt : Rt) (ce : Nat) (write : Bool) : Bool :=
  rt.priv
    || (match rt.reg with | some r => r.hasCell ce | none => false)
    || rt.wins.any fun e => winAdmits e.2 (cvOfCe ce) write

/-- The reachable-peer entry of a device (R390). -/
def peerEntry (s : State) (dev : Nat) : Nat := hbmNat s (s.host.peertab.toNat + 4 * dev) 4

/-- The links of a device's mask that are up (R391). -/
def peerLinks (s : State) (dev : Nat) : List Nat := (span 0 24).filter fun l => bitOf (peerEntry s dev) l && !has s.peersDown l

/-- The link that an access to address `adr` of a device is sent on, by the entry as it stands at the sending (R390, R391). -/
def linkOf (s : State) (dev adr : Nat) : Option Nat :=
  let l := peerLinks s dev
  l[Config.peerHash dev (adr / 4096) % l.length]?

/-- A resolved address with its link chosen anew, as at the sending. -/
def routePA (s : State) (p : PA) : PA :=
  match p.sp with
  | .peer dev _ => ⟨.peer dev (linkOf s dev p.adr), p.adr⟩
  | _ => p

/-- The segments of an access as it is sent. -/
def routeSegs (s : State) (segs : List (PA × Nat)) : List (PA × Nat) := segs.map fun e => (routePA s e.1, e.2)

/-- A checked access before translation. -/
inductive Cls where
  | deep (va : Nat)
  | shore (off : Nat)
  | peer (dev va : Nat)
  deriving DecidableEq, Repr

/-- R15: the shore offset of a shore pointer, REL resolved against the region. -/
def shoreOff (rt : Rt) (a : Nat) : Option Nat :=
  let die := bitsOf a 28 3
  let cove := bitsOf a 20 8
  let cell := bitsOf a 16 4
  let byte := bitsOf a 0 16
  if bitOf a 61 then
    match rt.reg with
    | none => none
    | some r =>
      match r.die die with
      | none => none
      | some d =>
        let c := cove + r.org
        let k := cell + (if r.kind = 1 ∧ r.half = 1 then 8 else 0)
        if c < 192 ∧ k < 16 then some (d * 2 ^ 28 + c * 2 ^ 20 + k * 2 ^ 16 + byte) else none
  else if cove < 192 then some (die * 2 ^ 28 + cove * 2 ^ 20 + cell * 2 ^ 16 + byte) else none

/-- The pointer that the device reports for an access at `a` (R15): a region-relative address resolved, with REL clear. Where it resolves
to no shore byte each field still shows the sum it came to, cut to the field's width, and a die offset that names no region die stays as it is
(log entry 96). -/
def shownPtr (rt : Rt) (a : Word) : Word :=
  let v := a.toNat
  if bitsOf v 61 3 = 3 then
    let k := bitsOf v 28 3
    let up := bitsOf v 31 30 * 2 ^ 31
    match rt.reg with
    | none => BitVec.ofNat 64 (v - 2 ^ 61)
    | some r =>
      let cell := bitsOf v 16 4 + (if r.kind = 1 ∧ r.half = 1 then 8 else 0)
      BitVec.ofNat 64 (2 ^ 62 + up + (r.die k).getD k * 2 ^ 28 + (bitsOf v 20 8 + r.org) % 256 * 2 ^ 20 + cell % 16 * 2 ^ 16 + bitsOf v 0 16)
  else a

/-- R13 to R20: the class of an access of `n` bytes at pointer `a`, or the lowest cause that applies. A deep access that starts in the class
and whose last bytes lie at 2^52 or beyond is given ADDR_FORM as a whole (log entry 97); one of the peer class passes, whatever its length (log entry 118). -/
def classify (s : State) (rt : Rt) (a : Word) (n : Nat) (write : Bool) : Except Nat Cls :=
  let v := a.toNat
  match bitsOf v 62 2 with
  | 0 => if bitsOf v 52 10 = 0 ∧ v + n ≤ 2 ^ 52 then .ok (.deep v) else .error 0x21
  | 1 =>
    if bitsOf v 31 30 ≠ 0 then .error 0x21
    else match shoreOff rt v with
      | none => .error 0x22
      | some off =>
        if off % 65536 + n > 65536 then .error 0x22
        else if shoreOk rt (off / 65536) write then .ok (.shore off) else .error 0x23
  | 2 =>
    let dev := bitsOf v 52 10
    if dev = s.host.devnum.toNat then .ok (.deep (bitsOf v 0 52))
    else if bitOf (peerEntry s dev) 31 then .ok (.peer dev (bitsOf v 0 52)) else .error 0x24
  | _ => .error 0x20

/-! ### Translation (R335 to R339) -/

/-- The address bits below a page of size code `z` (0 64 KiB, 1 2 MiB, 2 1 GiB). -/
def pageBits (z : Nat) : Nat := if z = 0 then 16 else if z = 1 then 21 else 30

/-- The index of level `l` (R335). -/
def ptIndex (l va : Nat) : Nat :=
  match l with
  | 0 => bitsOf va 41 11
  | 1 => bitsOf va 30 11
  | 2 => bitsOf va 21 9
  | _ => bitsOf va 16 5

/-- The size in bytes of a level's table (R335). -/
def ptSize (l : Nat) : Nat :=
  match l with
  | 0 => 16384
  | 1 => 16384
  | 2 => 4096
  | _ => 256

/-- The page-size code of a leaf at level `l`. -/
def ptPage (l : Nat) : Nat := 3 - l

/-- Whether an entry breaks R336: reserved bits, or flags in a pointer. -/
def ptBadForm (e : Nat) : Bool :=
  bitsOf e 52 12 != 0 || bitsOf e 5 3 != 0 || (!bitOf e 1 && bitsOf e 2 3 != 0)

/-- Levels `l` to 3 of the walk (R337), `f` levels left: the entry for the cache, or the cause. A frame beyond device HBM breaks
R336 (log entry 16). -/
def walkFrom (s : State) (root va : Nat) (needR needW : Bool) : Nat → Nat → Nat → Except Nat TEnt
  | 0, _, _ => .error 0x42
  | f + 1, l, t =>
    let a := t + 8 * ptIndex l va
    if has s.poison.hbm (a / 64) then .error 0x43
    else
      let e := hbmNat s a 8
      if !bitOf e 0 then .error 0x40
      else if ptBadForm e || (l == 0 && bitOf e 1) || (l == 3 && !bitOf e 1) then .error 0x42
      else
        let adr := bitsOf e 8 44 * 256
        if bitOf e 1 then
          if adr % 2 ^ pageBits (ptPage l) ≠ 0 ∨ (!bitOf e 4 ∧ adr ≥ 768 * 2 ^ 30) then .error 0x42
          else if (needR && !bitOf e 2) || (needW && !bitOf e 3) then .error 0x41
          else .ok ⟨root, va / 2 ^ pageBits (ptPage l), ptPage l, adr, bitOf e 4, bitOf e 2, bitOf e 3⟩
        else if adr % ptSize (l + 1) ≠ 0 then .error 0x42
        else walkFrom s root va needR needW f (l + 1) adr

/-- The walk of R337. -/
def walk (s : State) (root va : Nat) (needR needW : Bool) : Except Nat TEnt :=
  walkFrom s root va needR needW 4 0 root

/-- The cached entry of a list that maps `va` under `root` (R338). -/
def tlbFind (l : List TEnt) (root va : Nat) : Option TEnt :=
  l.find? fun e => decide (e.root = root ∧ e.vpn = va / 2 ^ pageBits e.size)

/-- Add an entry to a cache of `cap` entries; a full cache gives up one, which the spec leaves open (log entry 7). -/
def tlbAdd (cap pick : Nat) (l : List TEnt) (e : TEnt) : List TEnt :=
  if l.length < cap then l ++ [e] else dropNth l (Config.freeVictim pick % l.length) ++ [e]

/-- The resolved address that an entry gives. -/
def TEnt.pa (e : TEnt) (va : Nat) : PA :=
  ⟨if e.mt then .host else .hbm, e.base + va % 2 ^ pageBits e.size⟩

/-- Whether the entry permits the access. -/
def TEnt.permits (e : TEnt) (needR needW : Bool) : Bool := (!needR || e.r) && (!needW || e.w)

/-- Entries of the cache of unit `u`: 16,384 for a die (keys 0 to 7), 8,192 for a stack's base die (keys 8 to 23), 64 for a port. -/
def tlbCap (u : Nat) : Nat := if u < 8 then 16384 else if u < 24 then 8192 else 64

/-- Translate through the cache of unit `u`: the cached entry, or a walk whose success the cache then holds. -/
def xlateDeep (s : State) (u root va : Nat) (needR needW : Bool) : State × Except Nat PA :=
  let l := Tab.get [] s.tlb u
  match tlbFind l root va with
  | some e => if e.permits needR needW then (s, .ok (e.pa va)) else (s, .error 0x41)
  | none =>
    match walk s root va needR needW with
    | .ok e => ({ s with tlb := Tab.insert s.tlb u (tlbAdd (tlbCap u) s.free l e), free := s.free + 1 }, .ok (e.pa va))
    | .error c => (s, .error c)

/-- Translate `n` bytes at a deep address: one segment, or two where they cross a 64 KiB boundary. -/
def xlateSegs (s : State) (u root va n : Nat) (needR needW : Bool) : State × Except Nat (List (PA × Nat)) :=
  let first := 65536 - va % 65536
  match xlateDeep s u root va needR needW with
  | (s1, .error c) => (s1, .error c)
  | (s1, .ok p) =>
    if n ≤ first then (s1, .ok [(p, n)])
    else
      match xlateDeep s1 u root (va + first) needR needW with
      | (s2, .error c) => (s2, .error c)
      | (s2, .ok q) => (s2, .ok [(p, first), (q, n - first)])

/-- Whether another device translates an access to it (log entry 6); a device that no link reaches answers nothing (R391). -/
def xlatePeer (s : State) (dev va n : Nat) : State × Except XErr (List (PA × Nat)) :=
  let c := Config.freePeerCause s.free
  let s1 := { s with free := s.free + 1 }
  let l := linkOf s dev va
  if l.isNone || c == 0 then (s1, .ok [(⟨.peer dev l, va⟩, n)])
  else (s1, .error ⟨0x44, 0x40 + (c - 1) % 4⟩)

/-- Class, rights and translation of one access of `n` bytes at `a`, through the cache of unit `u` (R13 to R20, R337, R338). -/
def resolve (s : State) (rt : Rt) (u : Nat) (a : Word) (n : Nat) (needR needW : Bool) :
    State × Except XErr (List (PA × Nat)) :=
  match classify s rt a n needW with
  | .error c => (s, .error ⟨c, 0⟩)
  | .ok (.shore off) => (s, .ok [(⟨.shore, off⟩, n)])
  | .ok (.peer dev va) => xlatePeer s dev va n
  | .ok (.deep va) =>
    match xlateSegs s u rt.root va n needR needW with
    | (s1, .ok segs) => (s1, .ok segs)
    | (s1, .error c) => (s1, .error ⟨c, 0⟩)

/-! ### Reads of resolved bytes -/

/-- Whether a segment is of another device that no link reaches. -/
def lostSeg (e : PA × Nat) : Bool := match e.1.sp with | .peer _ l => l.isNone | _ => false

/-- Whether another device, to which an access gets, has fenced its bytes (R355): a free value (log entry 6). -/
def peerFenced (s : State) (segs : List (PA × Nat)) : State × Bool :=
  match segs with
  | (⟨.peer _ (some _), _⟩, _) :: _ => ({ s with free := s.free + 1 }, Config.freePeerFence s.free)
  | _ => (s, false)

/-- The bytes of a read, and whether any of them is poisoned. Bytes of another device are free values, and so is whether it answers with poison,
which a fence or a mark there makes it do (R355, R363, log entry 6); an access with no link returns poison (R391). -/
def rdSegs (s : State) (segs : List (PA × Nat)) : State × List Byte × Bool :=
  match segs with
  | (⟨.peer _ _, _⟩, _) :: _ =>
    let n := (segs.map (·.2)).sum
    ({ s with free := s.free + n }, (span s.free n).map Config.freeByte, segs.any lostSeg || Config.freePeerPoison s.free)
  | _ =>
    let l := segPAs segs
    (s, l.map (rdPA s), l.any (psnAt s))

/-- Whether two resolved addresses lie in one space: another device is one space over whichever link it is reached. -/
def Space.same (p q : Space) : Bool :=
  match p, q with
  | .peer d _, .peer e _ => d == e
  | _, _ => p == q

/-- Whether two segments have a common byte. -/
def meets (x y : PA × Nat) : Bool := x.1.sp.same y.1.sp && decide (x.1.adr < y.1.adr + y.2 ∧ y.1.adr < x.1.adr + x.2)

/-- Whether a segment holds a resolved byte. -/
def holdsPA (x : PA × Nat) (p : PA) : Bool := meets x (p, 1)

/-- The residency whose fatal fault fences a resolved access made for residency `rid`; its own accesses meet no fence (R355). An identifier
that has been given back since stands in `fences` raised by 16,384, once for each time. -/
def fencedBy (s : State) (rid : Nat) (segs : List (PA × Nat)) : Option Nat :=
  match segs with
  | (⟨.shore, off⟩, _) :: _ =>
    match Tab.find? s.fences (off / 65536) with
    | some f => if f = rid then none else some f
    | none => none
  | _ => none

end Sys2Proof.Machine
end

