-- ==== Sys2Proof/Machine/Ops.lean ====
section
/-!
DEFINITION. The shared operations over the state: coves, contexts, cells and nodes by key; events to the host (R388, R389);
fault records (R340, R341); taking an exception and returning from one (R144, R146, R147, R169); level barriers (R168, R198);
tidemark barriers (R166, R302).
-/
namespace Sys2Proof.Machine

/-! ### Parts by key -/

/-- An arbitration in which nothing has been chosen. -/
def Arb.empty : Arb := ⟨[], none⟩

/-- A cove with nothing in it. -/
def Cove.empty : Cove where
  bars := []
  crd := []
  tq := []
  fq := []
  fqEos := []
  fqIn := []
  ports := []
  cqs := []
  parb := Arb.empty
  qarb := Arb.empty
  ctxs := []
  lastCtx := 3
  issueAt := none
  rbuf := []
  bcache := []
  mflags := 0
  mraised := (0, 0)
  mreq := []
  planes := []
  mslot := []
  mnew := none
  mpos := 0
  mstart := 0
  samp := Samp.reset

/-- A context that no task has declared (R129): HALTED, registers 0, AIE 1 (R134). -/
def Ctx.idle : Ctx where
  st := .halted
  rid := 0
  g := []
  xcause := 0
  xblock := 0
  xslot := 0
  xaddr := 0
  xvec := 0
  xvecm := 0
  xscratch := 0
  aie := true
  intrap := false
  pprv := .u
  prv := .u
  frm := 0
  ff := 0
  evts := []
  next := 0
  blk := none
  back := none
  commits := 0
  seen := []

/-- A cell with nothing loaded. -/
def Cell.empty : Cell where
  imgs := []
  queues := []
  endps := []
  nodes := []
  flags := []
  raised := []
  wLast := 0
  wNeed := 0
  wRecs := []
  wErr := false
  wSeq := 0
  wAt := none
  lastFire := none

/-- An unbound port. -/
def Port.empty : Port where
  bind := none
  dlv := 0
  buf := []
  rdy := none
  lo := none
  hi := none
  eos := false
  took := false
  old := false
  unb := none
  frozen := none

/-- An unarmed copy queue. -/
def CopyQ.empty : CopyQ where
  toks := []
  tmpl := none
  f := 0
  dlv := 0
  cur := none
  frozen := none
  wside := false
  spatch := none
  dpatch := none
  lo := none
  hi := none
  disarm := false
  psnRec := none

/-- The cove of key `cv`. -/
def State.cove (s : State) (cv : Nat) : Cove := Tab.get Cove.empty s.coves cv

/-- Replace the cove of key `cv`. -/
def State.setCove (s : State) (cv : Nat) (c : Cove) : State := { s with coves := Tab.insert s.coves cv c }

/-- The context of key `x`. -/
def State.ctx (s : State) (x : Nat) : Ctx := Tab.get Ctx.idle (s.cove (x / 4)).ctxs (x % 4)

/-- Replace the context of key `x`. -/
def State.setCtx (s : State) (x : Nat) (c : Ctx) : State :=
  let v := s.cove (x / 4)
  s.setCove (x / 4) { v with ctxs := Tab.insert v.ctxs (x % 4) c }

/-- The cell of key `ce`. -/
def State.cell (s : State) (ce : Nat) : Cell := Tab.get Cell.empty s.cells ce

/-- Replace the cell of key `ce`. -/
def State.setCell (s : State) (ce : Nat) (c : Cell) : State := { s with cells := Tab.insert s.cells ce c }

/-- Port `p` of cove `cv`. -/
def State.port (s : State) (cv p : Nat) : Port := Tab.get Port.empty (s.cove cv).ports p

/-- Replace port `p` of cove `cv`. -/
def State.setPort (s : State) (cv p : Nat) (q : Port) : State :=
  let v := s.cove cv
  s.setCove cv { v with ports := Tab.insert v.ports p q }

/-- Copy queue `q` of cove `cv`. -/
def State.cq (s : State) (cv q : Nat) : CopyQ := Tab.get CopyQ.empty (s.cove cv).cqs q

/-- Replace copy queue `q` of cove `cv`. -/
def State.setCq (s : State) (cv q : Nat) (c : CopyQ) : State :=
  let v := s.cove cv
  s.setCove cv { v with cqs := Tab.insert v.cqs q c }

/-- General register `r` of a context. -/
def Ctx.reg (c : Ctx) (r : Nat) : Word := Tab.get 0 c.g r

/-- Write general register `r`. -/
def Ctx.setReg (c : Ctx) (r : Nat) (v : Word) : Ctx := { c with g := Tab.put 0 c.g r v }

/-- The counter of a tidemark barrier. -/
def State.bar (s : State) (cv b : Nat) : BitVec 32 := Tab.get 0 (s.cove cv).bars b

/-- Set the counter of a tidemark barrier. -/
def State.setBar (s : State) (cv b : Nat) (v : BitVec 32) : State :=
  let c := s.cove cv
  s.setCove cv { c with bars := Tab.put 0 c.bars b v }

/-- The bytes of the credits that have arrived at a barrier in this clock. -/
def creditsNow (s : State) (cv b : Nat) : Nat :=
  match Tab.find? (s.cove cv).crd b with
  | some (t, n) => if t = cycleOf s cv then n else 0
  | none => 0

/-- A credit of `n` bytes (R166). -/
def creditBar (s : State) (cv b n : Nat) : State :=
  let c := s.cove cv
  s.setCove cv { c with
    bars := Tab.put 0 c.bars b (BitVec.ofNat 32 ((s.bar cv b).toNat - n)), crd := Tab.insert c.crd b (cycleOf s cv, creditsNow s cv b + n) }

/-- An arm with `n` bytes (R166): it comes before the credits that arrive in its clock (R302), which therefore count against it. -/
def armBar (s : State) (cv b n : Nat) : State := s.setBar cv b (BitVec.ofNat 32 (n - creditsNow s cv b))

/-- A credit that is applied once the accesses it counts are performed (R302). -/
def sendCredit (s : State) (cv b n : Nat) (after : List Nat) : State :=
  { s with credits := s.credits ++ [⟨cv, b, n, after⟩] }

/-! ### Flag sets (R96, R97) -/

/-- The flags raised in a set in clock `now`, of what was raised last and the clock of that. -/
def raisedNow (r : Nat × BitVec 5) (now : Nat) : BitVec 5 := if r.1 = now then r.2 else 0

/-- What was raised last, once flags `f` are raised in clock `now`. -/
def noteRaised (r : Nat × BitVec 5) (now : Nat) (f : BitVec 5) : Nat × BitVec 5 := (now, raisedNow r now ||| f)

/-- A write of ones `m` to a set `f`: a flag raised in the clock of the write remains set (R97). -/
def clearSet (f m : BitVec 5) (r : Nat × BitVec 5) (now : Nat) : BitVec 5 := f &&& (~~~m ||| raisedNow r now)

/-! ### Arbitration among units of one kind (R325) -/

/-- Saturation to s16. -/
def sat16 (x : Int) : Int := if x < -32768 then -32768 else if 32767 < x then 32767 else x

/-- Of units `l`, the one with the greatest credit, the first among equals. -/
def Arb.best (t : Tab Int) : List Nat → Option Nat
  | [] => none
  | u :: l =>
    match Arb.best t l with
    | some v => if Tab.get 0 t u < Tab.get 0 t v then some v else some u
    | none => some u

/-- The choice of clock `now` among the units `l`, in the order that breaks ties, each of weight 16 (R325); there is one in a clock. -/
def Arb.choose (a : Arb) (now : Nat) (l : List Nat) : Arb × Option Nat :=
  if a.last = some now then (a, none)
  else
    let t := l.foldl (fun t u => Tab.put 0 t u (sat16 (Tab.get 0 t u + 16))) a.credit
    match Arb.best t l with
    | some u => (⟨Tab.put 0 t u (sat16 (Tab.get 0 t u - 16 * (l.length : Int))), some now⟩, some u)
    | none => (a, none)

/-- A unit that begins anew holds no credit. -/
def Arb.fresh (a : Arb) (u : Nat) : Arb := { a with credit := Tab.erase a.credit u }

/-! ### Owners of units (R180) -/

/-- Whether the residency owns unit `u` of a bank of `n` such units in cove `cv` (ports 16, copy queues and barriers 64, FIFOs 8). -/
def Region.ownsUnit (r : Region) (cv u n : Nat) : Bool :=
  r.hasCove cv && (r.kind != 1 || decide (u / (n / 2) = r.half))

/-- Whether residency `rid` owns unit `u` of a bank of `n` in cove `cv`. -/
def ownsUnit (s : State) (rid cv u n : Nat) : Bool :=
  match Tab.find? s.res rid with
  | some r => r.region.ownsUnit cv u n
  | none => false

/-- The residency that holds a cell. -/
def ridOfCell (s : State) (ce : Nat) : Option Nat := (s.res.find? fun e => e.2.region.hasCell ce).map (·.1)

/-- The contexts of a residency, by key. -/
def ctxsOf (s : State) (rid : Nat) : List Nat :=
  s.coves.flatMap fun e => (e.2.ctxs.filter fun c => decide (c.2.rid = rid)).map fun c => 4 * e.1 + c.1

/-- The contexts of a parked residency, by key. -/
def parkedCtxs (s : State) (rid : Nat) : List Nat :=
  match Tab.find? s.parked rid with
  | some p => p.coves.flatMap fun e => (e.2.ctxs.filter fun c => decide (c.2.rid = rid)).map fun c => 4 * e.1 + c.1
  | none => []

/-- The permits that tasks may still take (R330): the pool less 2,500 less what placed and parked tasks hold. -/
def freePermits (s : State) : Nat :=
  s.host.pool - 2500 - (s.res.foldl (fun n e => n + e.2.permits) 0 + s.parked.foldl (fun n e => n + e.2.res.permits) 0)

/-! ### The permit gate (R332) -/

/-- Change a residency. -/
def modRes (s : State) (rid : Nat) (f : Residency → Residency) : State := { s with res := Tab.modify s.res rid f }

/-- The bytes of segments in stacks and on links, charged to a residency's permit meter (R331), and those outside the banks (R332). -/
def meterSegs (s : State) (rid : Nat) (segs : List (PA × Nat)) : State :=
  modRes s rid fun r => { r with act :=
    { r.act with
      hbm := r.act.hbm + segs.foldl (fun n e => if e.1.sp = .hbm then n + e.2 else n) 0
      link := r.act.link + segs.foldl (fun n e => match e.1.sp with | .peer _ _ => n + e.2 | _ => n) 0
      far := r.act.far + segs.foldl (fun n e => if e.1.sp = .shore then n else n + e.2) 0 } }

/-- Whether residency `rid` has made a deep or a peer request between two states (R332): its meter has counted bytes of one. -/
def asked (s t : State) (rid : Nat) : Bool :=
  match Tab.find? s.res rid, Tab.find? t.res rid with
  | some a, some b => decide (a.act.far ≠ b.act.far)
  | _, _ => false

/-- Whether a gate of `g` sixty-fourths is open at clock `t`: its open clocks lie evenly (R332). -/
def gateOpen (g t : Nat) : Bool := decide (64 ≤ g) || decide (t * g / 64 ≠ (t + 1) * g / 64)

/-- Whether the gate of a residency lets its units issue in this clock. -/
def gateLets (s : State) (rid : Nat) : Bool :=
  match Tab.find? s.res rid with
  | some r => gateOpen r.gate (dieClock s (nth 0 r.region.dies 0))
  | none => true

/-! ### Privilege -/

/-- The code of a privilege in XSTATUS (R134). -/
def Priv.code : Priv → Nat
  | .u => 0
  | .s => 1
  | .m => 3

/-- Whether privilege `p` admits what needs `q` (R131). -/
def Priv.admits (p q : Priv) : Bool := decide (q.code ≤ p.code)

/-- XSTATUS (R134). -/
def Ctx.xstatus (c : Ctx) : Word :=
  BitVec.ofNat 64 (c.prv.code + 4 * c.pprv.code + 16 * c.intrap.toNat + 32 * c.aie.toNat + 64 * (!c.evts.isEmpty).toNat)

/-! ### Events to the host (R388, R389) -/

/-- The places taken in token FIFO `f` from the control core: by the tokens in it and by those on their way to it (R38, R153). -/
def fqCount (s : State) (cv f : Nat) : Nat :=
  (match Tab.find? (s.cove cv).fq f with
  | some q => q.toks.length
  | none => 0) + (Tab.get [] (s.cove cv).fqIn f).length

/-- Whether the event ring is full. -/
def ringFull (s : State) : Bool :=
  decide (s.host.evhead.toNat - s.host.evtail.toNat = 2 ^ (s.host.evsize.toNat + 4))

/-- Put an entry of class 0 before the first of that class. -/
def beforeZero (e : Ev) : List Ev → List Ev
  | [] => [e]
  | f :: t => if f.cls = 0 then e :: f :: t else f :: beforeZero e t

/-- Coalesce the held events of a full ring (R389): the entries of class 0 stay, in the order of the writes, another class keeps its latest; the classes
stand in the order in which each last occurred. -/
def coalesce : List Ev → List Ev
  | [] => []
  | e :: t =>
    if t.any fun f => f.cls = e.cls then (if e.cls = 0 then beforeZero e (coalesce t) else coalesce t)
    else e :: coalesce t

/-- Raise an event: it is held until its entry is written; a full ring sets EVOVF and coalesces. -/
def raise (s : State) (cls index : Nat) (value : Word) : State :=
  let l := s.host.held ++ [⟨cls, index, value⟩]
  if ringFull s then { s with host := { s.host with held := coalesce l, evovf := true } }
  else { s with host := { s.host with held := l } }

/-! ### Fault records (R340, R341) -/

/-- A record with every field it does not use zero. -/
def Rec.zero : Rec where
  kind := 0
  cause := 0
  rid := 0
  st := 0
  acc := 0
  loc := 0
  unit := 0xFF
  ctx := 0xFF
  seq := 1
  count := 0
  va := 0
  i := []
  dlv := 0
  aux := 0
  cycle := 0

/-- The 64 bytes of a record (R341). -/
def Rec.bytes (r : Rec) : List Byte :=
  leBytes r.kind 1 ++ leBytes r.cause 1 ++ leBytes (r.rid % 8192) 2 ++ leBytes r.st 1 ++ leBytes r.acc 1 ++ leBytes r.loc 2
    ++ leBytes r.unit 1 ++ leBytes r.ctx 1 ++ leBytes r.seq 2 ++ leBytes r.count 4 ++ leBytes r.va.toNat 8
    ++ leBytes (nth 0 r.i 0) 4 ++ leBytes (nth 0 r.i 1) 4 ++ leBytes (nth 0 r.i 2) 4 ++ leBytes (nth 0 r.i 3) 4
    ++ leBytes r.dlv 8 ++ leBytes r.aux.toNat 8 ++ leBytes r.cycle 8

/-- The device physical address of record `idx`. -/
def recAddr (s : State) (idx : Nat) : Nat := s.host.frtbase.toNat + 64 * idx

/-- The STATE byte of record `idx`, as memory holds it. -/
def recState (s : State) (idx : Nat) : Nat := (hbmByte s (recAddr s idx + 4)).toNat

/-- The lowest record from `i` whose STATE reads 0 and that no agent is frozen on, looking at `f` records. -/
def freeRecFrom (s : State) : Nat → Nat → Option Nat
  | 0, _ => none
  | f + 1, i => if recState s i = 0 ∧ (Tab.find? s.recs.owner i).isNone then some i else freeRecFrom s f (i + 1)

/-- The lowest free record. -/
def freeRec (s : State) : Option Nat := freeRecFrom s 4096 0

/-- Write bytes of device HBM from `a` on. -/
def hbmWrN (s : State) (a : Nat) : List Byte → State
  | [] => s
  | b :: t => hbmWrN (hbmWr s a b) (a + 1) t

/-- Write record `idx` whole, a line that is then poisoned no more (R363), and raise its event. -/
def writeRec (s : State) (idx : Nat) (r : Rec) : State :=
  let s1 := psnClear (hbmWrN s (recAddr s idx) r.bytes) (((span (recAddr s idx) 64).map fun a => (⟨.hbm, a⟩, 0)).filter fun e => lands e.1)
  raise { s1 with recs := { s1.recs with live := Tab.insert s1.recs.live idx r } } 0 idx (BitVec.ofNat 64 r.seq)

/-- Set COUNT of record `idx`, without writing the record again. -/
def setRecCount (s : State) (idx n : Nat) : State :=
  let s1 := hbmWrN s (recAddr s idx + 12) (leBytes n 4)
  { s1 with recs := { s1.recs with live := Tab.modify s1.recs.live idx fun r => { r with count := n } } }

/-- Set the STATE byte of record `idx`. -/
def setRecState (s : State) (idx st : Nat) : State :=
  let s1 := hbmWr s (recAddr s idx + 4) (BitVec.ofNat 8 st)
  { s1 with recs := { s1.recs with live := Tab.modify s1.recs.live idx fun r => { r with st := st } } }

/-- The asynchronous event of R146 for context `x` of residency `rid`: pending, or recorded where the residency is parked. -/
def asyncTo (s : State) (rid x idx : Nat) : State :=
  match Tab.find? s.parked rid with
  | some p => { s with parked := Tab.insert s.parked rid { p with evts := p.evts ++ [(x, idx)] } }
  | none =>
    match Tab.find? (s.cove (x / 4)).ctxs (x % 4) with
    | some c => if c.rid = rid then s.setCtx x { c with evts := c.evts ++ [idx] } else s
    | none => s

/-- Set the record an agent is frozen on. -/
def freezeOn (s : State) (ag : Agent) (r : Option Nat) : State :=
  match ag with
  | .ctx _ => s
  | .node n =>
    let c := s.cell (n / 16)
    s.setCell (n / 16) { c with nodes := Tab.modify c.nodes (n % 16) fun d => { d with frozen := r } }
  | .port cv p => s.setPort cv p { s.port cv p with frozen := r }
  | .copy cv q => s.setCq cv q { s.cq cv q with frozen := r }
  | .job j => { s with jobs := Tab.modify s.jobs j fun d => { d with record := r } }
  | .umx e => { s with umx := Tab.modify s.umx e fun d => { d with frozen := r } }
  | .target sb =>
    { s with sbFz := match r with | some i => Tab.insert s.sbFz sb i | none => Tab.erase s.sbFz sb }

/-- Set the record an agent of residency `rid` is frozen on: where the residency is parked, in what was saved of it; an engine keeps its own. -/
def freezeFor (s : State) (rid : Nat) (ag : Agent) (r : Option Nat) : State :=
  match Tab.find? s.parked rid, ag with
  | none, _ | some _, .umx _ => freezeOn s ag r
  | some p, _ =>
    let t := freezeOn { s with coves := p.coves, cells := p.cells, jobs := p.jobs, sbFz := p.sbFz } ag r
    let q : Saved := { p with coves := t.coves, cells := t.cells, jobs := t.jobs, sbFz := t.sbFz }
    { s with parked := Tab.insert s.parked rid q }

/-- Give record `idx` to `r`: frozen agent or none, then the asynchronous events. -/
def giveRec (s : State) (idx : Nat) (r : Rec) (ag : Option Agent) (asy : List (Nat × Nat)) : State :=
  let s1 := match ag with
    | some a => freezeFor { s with recs := { s.recs with owner := Tab.insert s.recs.owner idx a } } r.rid a (some idx)
    | none => s
  asy.foldl (fun t e => asyncTo t e.1 e.2 idx) (writeRec s1 idx { r with st := if ag.isSome then 1 else 3 })

/-- The record that reports how many were lost. -/
def lostRec (s : State) : Rec := { Rec.zero with kind := 15, cause := 0x53, count := s.recs.lost, cycle := dieClock s 0 }

/-- Give free records to what waits for one, at most `f` of them: the freezes in the order in which they arose, then the record that counts
the lost ones (R340). -/
def flushRecs : Nat → State → State
  | 0, s => s
  | f + 1, s =>
    match freeRec s, s.recs.wait with
    | none, _ => s
    | some idx, (r, ag, asy) :: t => flushRecs f (giveRec { s with recs := { s.recs with wait := t } } idx r ag asy)
    | some idx, [] =>
      if s.recs.lost = 0 then s else giveRec { s with recs := { s.recs with lost := 0 } } idx (lostRec s) none []

/-- Take a record for `r` (R340). A freeze with no free record waits (4096 stands for the record to come); an informational record
with none is lost and counted, that of cause 0x56 which such a freeze gives among them (R343, log entry 18). -/
def takeRec (s : State) (r : Rec) (ag : Option Agent) (asy : List (Nat × Nat)) : State :=
  match freeRec s with
  | some idx => giveRec s idx r ag asy
  | none =>
    match ag with
    | some a => freezeOn { s with recs := { s.recs with wait := s.recs.wait ++ [(r, ag, asy)], lost := s.recs.lost + 1 } } a (some 4096)
    | none => { s with recs := { s.recs with lost := s.recs.lost + 1 } }

/-- The records that arose before, as far as there are free ones for them. -/
def settleRecs (s : State) : State :=
  if s.recs.wait.isEmpty && s.recs.lost == 0 then s else flushRecs (s.recs.wait.length + 1) s

/-- Open a record (R340), after those that arose before it. -/
def openRec (s : State) (r : Rec) (ag : Option Agent) (asy : List (Nat × Nat)) : State := takeRec (settleRecs s) r ag asy

/-- Rewrite an open record with SEQ + 1 (R346). -/
def rewriteRec (s : State) (idx : Nat) (f : Rec → Rec) : State :=
  match Tab.find? s.recs.live idx with
  | some r => writeRec s idx { f r with seq := (r.seq + 1) % 65536, st := 1 }
  | none => s

/-- Close a resumable record: STATE 0 once the FRESUME that closes it is performed (R340); its agent runs again. -/
def closeRec (s : State) (idx : Nat) : State :=
  let s1 := setRecState s idx 0
  match Tab.find? s1.recs.owner idx with
  | some a =>
    freezeOn { s1 with recs := { s1.recs with
      owner := Tab.erase s1.recs.owner idx, live := Tab.erase s1.recs.live idx } } a none
  | none => s1

/-- One record for a residency that another's fatal fault concerns (R356), with its asynchronous event in every context. -/
def tellFenced (s : State) (rid faulted loc : Nat) : State :=
  if s.told.any (fun e => decide (e = (rid, faulted))) then s
  else
    openRec { s with told := s.told ++ [(rid, faulted)] }
      { Rec.zero with
        kind := 11, cause := 0x49, rid := rid, loc := loc, aux := BitVec.ofNat 64 (faulted % 16384)
        cycle := cycleOf s (cvOfCe loc) } none ((ctxsOf s rid ++ parkedCtxs s rid).map fun x => (rid, x))

/-- A fatal fault is raised (R354): the record is kept until FATAL_FAULT acts on it, and the residency stops at once. -/
def raiseFatal (s : State) (r : Rec) : State :=
  match Tab.find? s.res r.rid with
  | some d =>
    if d.st = .placed then
      { s with fatals := s.fatals ++ [⟨r.rid, r⟩], res := Tab.insert s.res r.rid { d with st := .dying } }
    else s
  | none => s

/-! ### Level barriers (R168, R198, R312) -/

/-- Whether two coves lie in one domain of level `l` (R21): 2 cove, 3 bay, 4 die, 5 and above the device. -/
def sameDomain (l a b : Nat) : Bool :=
  if l = 2 then decide (a = b)
  else if l = 3 then decide (dieOf a = dieOf b ∧ bayOf a = bayOf b)
  else if l = 4 then decide (dieOf a = dieOf b)
  else true

/-- The peer group of a residency at a level: nonzero only at levels 6 and 7. -/
def groupOf (s : State) (rid l : Nat) : Nat :=
  if l < 6 then 0 else match Tab.find? s.res rid with | some r => r.lch.group | none => 0

/-- The local residencies that take part with `rid` at level `l`. -/
def partners (s : State) (rid l : Nat) : List Nat :=
  let g := groupOf s rid l
  if g = 0 then [rid] else (s.res.filter fun e => decide (e.2.lch.group = g)).map (·.1)

/-- The contexts that take part in BAR of level `l` from cove `cv`: those of the partners, in the domain, not HALTED. -/
def barParts (s : State) (rid l cv : Nat) : List Nat :=
  ((partners s rid l).flatMap (ctxsOf s)).filter fun x =>
    sameDomain l (cvOfX x) cv && (match (s.ctx x).st with | .halted => false | _ => true)

/-- The coves that take part in PHASE of level `l` from cove `cv`. -/
def phaseParts (s : State) (rid l cv : Nat) : List (Nat × Nat) :=
  (partners s rid l).flatMap fun r =>
    match Tab.find? s.res r with
    | some d => (d.region.coves.filter fun c => sameDomain l c cv).map fun c => (r, c)
    | none => []

/-- Whether an arrival of a context at a barrier stands, its stores performed. -/
def arrived (s : State) (l x : Nat) : Bool :=
  s.arrs.any fun a => !a.phase && decide (a.level = l ∧ a.x = x)
    && a.after.all fun i => !(s.accs.any fun c => decide (c.id = i))

/-- Whether an arrival of a cove at a phase barrier stands. -/
def arrivedPhase (s : State) (l rid cv : Nat) : Bool :=
  s.arrs.any fun a => a.phase && decide (a.level = l ∧ a.rid = rid ∧ a.cv = cv)
    && a.after.all fun i => !(s.accs.any fun c => decide (c.id = i))

/-- Whether the arrival messages of every other device of the group are in (R312). -/
def groupIn (s : State) (phase : Bool) (l rid : Nat) : Bool :=
  let g := groupOf s rid l
  g == 0 || (match Tab.find? s.res rid with
    | some r => decide (((s.grpMsgs.filter fun m => decide (m.1 = phase ∧ m.2.1 = l ∧ m.2.2.1 = g)).map (·.2.2.2)).eraseDups.length
        ≥ r.lch.gsize - 1)
    | none => false)

/-- Drop the first message of each device of group `g` for this barrier. -/
def dropMsgs (phase : Bool) (l g : Nat) (seen : List Nat) : List (Bool × Nat × Nat × Nat) → List (Bool × Nat × Nat × Nat)
  | [] => []
  | m :: t =>
    if m.1 = phase ∧ m.2.1 = l ∧ m.2.2.1 = g ∧ !has seen m.2.2.2 then dropMsgs phase l g (m.2.2.2 :: seen) t
    else m :: dropMsgs phase l g seen t

/-- Empty the read buffer of a cove: the acquire of R159 and R300. -/
def acquire (s : State) (cv : Nat) : State := s.setCove cv { s.cove cv with rbuf := [] }

/-- The context once its wait at level `l` is over: it runs, or waits at another level at which it has arrived too. -/
def leaveBar (s : State) (l x : Nat) : State :=
  let c := s.ctx x
  match c.st with
  | .barwait m =>
    if m = l then
      match s.arrs.find? fun a => !a.phase && decide (a.x = x) && decide (c.back ≠ some (.barwait a.level)) with
      | some a => s.setCtx x { c with st := .barwait a.level }
      | none => s.setCtx x { c with st := .run }
    else s
  | _ => s

/-- Whether a residency of the same peer group is parked: it takes part still, and the barrier waits for it. -/
def partnerParked (s : State) (rid l : Nat) : Bool :=
  let g := groupOf s rid l
  g != 0 && s.parked.any fun e => e.2.res.lch.group == g

/-- Complete the level barrier of level `l` that cove `cv` of `rid` belongs to, when every participant has arrived. -/
def tryBar (s : State) (rid l cv : Nat) : State :=
  let ps := barParts s rid l cv
  if !ps.isEmpty && !partnerParked s rid l && ps.all (arrived s l) && groupIn s false l rid then
    let s1 := { s with
      arrs := s.arrs.filter fun a => a.phase || decide (a.level ≠ l) || !has ps a.x
      grpMsgs := dropMsgs false l (groupOf s rid l) [] s.grpMsgs }
    ps.foldl (fun t x => acquire (leaveBar t l x) (cvOfX x)) s1
  else s

/-- Remove the first arrival of each of these coves at a phase barrier, and give its credit. -/
def takePhase (s : State) (l : Nat) : List (Nat × Nat) → State
  | [] => s
  | (rid, cv) :: t =>
    let f := fun a : Arrival => a.phase && decide (a.level = l ∧ a.rid = rid ∧ a.cv = cv)
    let s1 := match s.arrs.find? f with
      | some a => match a.credit with | some (b, n) => creditBar s cv b n | none => s
      | none => s
    takePhase { s1 with arrs := s1.arrs.eraseP f } l t

/-- Complete the phase barrier of level `l` when every participating cove has arrived, crediting each (R198). -/
def tryPhase (s : State) (rid l cv : Nat) : State :=
  let ps := phaseParts s rid l cv
  if !ps.isEmpty && !partnerParked s rid l && ps.all (fun p => arrivedPhase s l p.1 p.2) && groupIn s true l rid then
    takePhase { s with grpMsgs := dropMsgs true l (groupOf s rid l) [] s.grpMsgs } l ps
  else s

/-- Try every barrier at which something has arrived. -/
def tryBars (s : State) : State :=
  s.arrs.foldl (fun t a => if a.phase then tryPhase t a.rid a.level a.cv else tryBar t a.rid a.level a.cv) s

/-! ### Taking an exception and returning (R144 to R147, R169) -/

/-- A context becomes HALTED; it no longer counts at the barriers (R168). -/
def haltCtx (s : State) (x : Nat) : State :=
  let s1 := { s with arrs := s.arrs.filter fun a => a.phase || decide (a.x ≠ x) }
  tryBars (s1.setCtx x { s1.ctx x with st := .halted, blk := none, back := none })

/-- The record of a double trap (R147, R342); XBLOCK is reported as R15 gives. -/
def doubleRec (s : State) (x : Nat) : Rec :=
  let c := s.ctx x
  { Rec.zero with
    kind := 13, cause := 0x4B, rid := c.rid, loc := 16 * cvOfX x, ctx := x % 4, va := shownPtr (rtOf s c.rid (c.prv != .u)) c.xblock
    aux := BitVec.ofNat 64 (c.xcause.toNat % 256 + 256 * (c.xslot.toNat % 256))
    cycle := cycleOf s (cvOfX x) }

/-- Halt on a double trap: the record and its event to the host. -/
def haltDouble (s : State) (x : Nat) : State :=
  openRec (haltCtx s x) (doubleRec s x) none []

/-- The control registers after trap entry into handler `h` (R144). -/
def Ctx.enter (c : Ctx) (cause : Nat) (slot : Nat) (blk addr h : Word) : Ctx :=
  { c with
    xcause := BitVec.ofNat 64 (cause + 256 * c.prv.code)
    xslot := BitVec.ofNat 64 slot
    xblock := blk
    xaddr := addr
    pprv := c.prv
    intrap := true
    prv := match c.prv with | .u => .s | _ => .m
    st := .run
    next := h
    blk := none }

/-- TakeTrap (R144): the block in flight is abandoned and the handler block is fetched next. -/
def takeTrap (s : State) (x cause slot : Nat) (blk addr : Word) : State :=
  let c := s.ctx x
  if c.intrap then haltDouble s x
  else
    let h := match c.prv with | .u => c.xvec | _ => c.xvecm
    if h = 0 then
      haltDouble (s.setCtx x { c with
        xcause := BitVec.ofNat 64 (cause + 256 * c.prv.code), xslot := BitVec.ofNat 64 slot, xblock := blk, xaddr := addr }) x
    else s.setCtx x (c.enter cause slot blk addr h)

/-- Whether a YIELDWAIT of the contexts `w` since clock `t` is over (R162): 64 clocks have passed, or each of them has committed a block. -/
def yieldMet (s : State) (cv t : Nat) (w : List (Nat × Nat)) : Bool :=
  decide (t + 64 ≤ cycleOf s cv) || w.all fun e => decide (e.2 < (s.ctx e.1).commits)

/-- Where a context goes on that no YIELDWAIT holds: at a barrier at which it has arrived, other than the one it was taken from, or on. -/
def afterWait (s : State) (x : Nat) : CtxSt :=
  match s.arrs.find? fun a => !a.phase && decide (a.x = x) && decide ((s.ctx x).back ≠ some (.barwait a.level)) with
  | some a => .barwait a.level
  | none => .run

/-- The state in which ERET leaves a context (R169): the wait it was taken from, where that still stands; else the wait of an arrival, its
block's own BAR or an earlier one. -/
def backWait (s : State) (x : Nat) : CtxSt :=
  match (s.ctx x).back with
  | some (.barwait l) => if s.arrs.any (fun a => !a.phase && decide (a.level = l ∧ a.x = x)) then .barwait l else afterWait s x
  | some (.yieldwait t w) => if yieldMet s (cvOfX x) t w then afterWait s x else .yieldwait t w
  | _ => afterWait s x

/-- The return of ERET at commit step 5 (R169). -/
def eretCtx (s : State) (x : Nat) : State :=
  let c := s.ctx x
  s.setCtx x { c with prv := c.pprv, intrap := false, next := c.xblock, st := backWait s x, back := none, blk := none }

end Sys2Proof.Machine
end

