-- ==== Sys2Proof/Machine/Operands.lean ====
section
/-!
DEFINITION. Operands, predicates and the execution of one slot of a control-core block: operand bytes (R107), predicates
(R109), the shared step of a slot (R137), the resolution of a trap among the slots (R140), and QPOP's token number (R170).
-/
namespace Sys2Proof.Machine

/-- Word `k` of the body in flight. -/
def Blk.word (b : Blk) (k : Nat) : BitVec 32 := nth 0 b.body k

/-- Whether slot `k` is an EXT word (R111). -/
def Blk.isExt (b : Blk) (k : Nat) : Bool := slotOp (b.word k) == 0x78

/-- The state of slot `k`. -/
def Blk.slot (b : Blk) (k : Nat) : Option SlotSt := Tab.find? b.slots k

/-- The value a slot has yielded (R108): 0 when it is predicated off. -/
def Blk.val (b : Blk) (k : Nat) : Option Word :=
  match b.slot k with
  | some (.done v _ _) => some v
  | some .off => some 0
  | _ => none

/-- Whether a slot has executed or been predicated off. -/
def Blk.resolved (b : Blk) (k : Nat) : Bool := (b.val k).isSome

/-- Coordinate `i` (0 x, 1 y, 2 z) of a task record (R199). -/
def recTile (r : BitVec 128) (i : Nat) : Nat := bitsOf r.toNat (96 - 16 * i) 16

/-- The task's argument pointer (R311). -/
def argPtr (s : State) (rid : Nat) : Word :=
  match Tab.find? s.res rid with
  | some r => r.lch.argbase + BitVec.ofNat 64 (16 * bitsOf r.trec.toNat 0 20)
  | none => 0

/-- A coordinate of the task that context `c` belongs to. -/
def tileOf (s : State) (rid i : Nat) : Word :=
  match Tab.find? s.res rid with
  | some r => BitVec.ofNat 64 (recTile r.trec i)
  | none => 0

/-- The value of an operand byte (R107); none while the slot it names has not yielded. -/
def opnd (s : State) (x : Nat) (c : Ctx) (b : Blk) (o : Byte) : Option Word :=
  let n := o.toNat
  if n < 0x80 then b.val n
  else if n < 0xC0 then some (c.reg (n - 0x80))
  else if n < 0xE0 then some ((o.extractLsb' 0 5).signExtend 64)
  else match n with
  | 0xE0 => some b.base
  | 0xE1 => some (BitVec.ofNat 64 (x % 4))
  | 0xE2 => some (BitVec.ofNat 64 (coveNo (cvOfX x)))
  | 0xE3 => some (BitVec.ofNat 64 (dieOf (cvOfX x)))
  | 0xE4 => some (tileOf s c.rid 0)
  | 0xE5 => some (tileOf s c.rid 1)
  | 0xE6 => some (tileOf s c.rid 2)
  | 0xE7 => some (argPtr s c.rid)
  | _ => none

/-- Whether a predicate byte lets its slot execute (R109); none while the slot it names has not yielded. -/
def predOf (b : Blk) (p : Byte) : Option Bool :=
  if p = 0xFF then some true
  else (b.val (p.toNat % 128)).map fun v => if p.toNat < 128 then decide (v ≠ 0) else decide (v = 0)

/-- What the attempt to execute a slot comes to. -/
inductive SlotRes where
  | later
  | done (v : Word) (e : Eff) (fl : BitVec 5)
  | wait
  | trap (cause : Nat) (addr : Word)
  deriving DecidableEq, Repr

/-- Where a slot executes. -/
structure SlotCx where
  x : Nat
  k : Nat
  c : Ctx
  b : Blk
  deriving DecidableEq, Repr

/-- The cove of the context, and the operand `o` of the slot. -/
def SlotCx.cv (q : SlotCx) : Nat := cvOfX q.x
def SlotCx.op (q : SlotCx) (s : State) (o : Byte) : Option Word := opnd s q.x q.c q.b o

/-- Set the state of slot `k` of the block in flight. -/
def setSlot (s : State) (x k : Nat) (t : SlotSt) : State :=
  let c := s.ctx x
  match c.blk with
  | some b => s.setCtx x { c with blk := some { b with slots := Tab.insert b.slots k t } }
  | none => s

/-! ### QPOP's token (R170) -/

/-- Whether slot `j` has executed QPOP with sel[4:3] = 0 on FIFO `f`. -/
def popsFrom (b : Blk) (f j : Nat) : Bool :=
  match b.slot j with
  | some (.done _ (.pop g) _) => g == f
  | _ => false

/-- The token that a QPOP in slot `k` refers to in FIFO `f`: number n from the head, n the QPOPs executed below it. -/
def qpopTok (s : State) (cv : Nat) (b : Blk) (k f : Nat) : Option Tok :=
  (Tab.get [] (s.cove cv).tq f)[((span 0 k).filter (popsFrom b f)).length]?

/-! ### Traps among the slots (R140) -/

/-- Whether slot `j` waits on an empty FIFO in QPOP. -/
def waitsPop (s : State) (x : Nat) (c : Ctx) (b : Blk) (j : Nat) : Bool :=
  match b.slot j with
  | some (.wait _) =>
    slotOp (b.word j) == 0x64 &&
      (match opnd s x c b ((b.word j).extractLsb' 16 8) with
       | some v => (qpopTok s (cvOfX x) b j (v.toNat % 8)).isNone
       | none => false)
  | _ => false

/-- The lowest trapped slot among the slots `l`. -/
def firstTrap (b : Blk) : List Nat → Option (Nat × Nat × Word)
  | [] => none
  | k :: t =>
    match b.slot k with
    | some (.trapped c a) => some (k, c.toNat, a)
    | _ => firstTrap b t

/-- Take the trap of the lowest trapped slot once each slot below it has executed, is predicated off, or waits on an empty FIFO. A
slot below it cannot depend on a trapped slot, since references go down (R107). -/
def settle (s : State) (x : Nat) : State :=
  let c := s.ctx x
  match c.blk with
  | none => s
  | some b =>
    match firstTrap b (span 0 b.body.length) with
    | some (k, cause, addr) =>
      if (span 0 k).all fun j => b.isExt j || b.resolved j || waitsPop s x c b j then takeTrap s x cause k b.base addr
      else s
    | none => s

/-! ### The step of a slot -/

/-- Whether a slot can still execute: not yet attempted, or waiting. -/
def canRun (b : Blk) (k : Nat) : Bool :=
  match b.slot k with
  | none => true
  | some (.wait _) => true
  | _ => false

/-- Keep what the attempt came to. -/
def keepRes (q : SlotCx) (s : State) : SlotRes → State
  | .later => s
  | .done v e fl => setSlot s q.x q.k (.done v e fl)
  | .wait =>
    match q.b.slot q.k with
    | some (.wait _) => s
    | _ => setSlot s q.x q.k (.wait (dieClock s (dieOf q.cv)))
  | .trap cause addr => settle (setSlot s q.x q.k (.trapped (BitVec.ofNat 8 cause) addr)) q.x

/-- One slot's turn (R137): it stalls until its predicate and its operands have yielded, is predicated off, or executes. -/
def slotStep (p : Byte) (body : SlotCx → State → State × SlotRes) (s : State) : Host.Outcome State Fault Refusal :=
  match s.focus with
  | .slot x k =>
    let c := s.ctx x
    match c.st, c.blk with
    | .run, some b =>
      if canRun b k then
        match predOf b p with
        | none => .next s
        | some false => .next (setSlot s x k .off)
        | some true => let r := body ⟨x, k, c, b⟩ s; .next (keepRes ⟨x, k, c, b⟩ r.1 r.2)
      else .next s
    | _, _ => .next s
  | _ => .next s

/-- A slot that yields a value of one operand and nothing else. -/
def slot1 (a p : Byte) (f : Word → Word) (s : State) : Host.Outcome State Fault Refusal :=
  slotStep p (fun q t =>
    match q.op t a with
    | some u => (t, .done (f u) .nothing 0)
    | none => (t, .later)) s

/-- A slot that yields a value of two operands and nothing else. -/
def slot2 (a b p : Byte) (f : Word → Word → Word) (s : State) : Host.Outcome State Fault Refusal :=
  slotStep p (fun q t =>
    match q.op t a, q.op t b with
    | some u, some v => (t, .done (f u v) .nothing 0)
    | _, _ => (t, .later)) s

/-- A slot of two operands that yields a value or traps with a cause of R143. -/
def slot2T (a b p : Byte) (f : SlotCx → State → Word → Word → SlotRes) (s : State) : Host.Outcome State Fault Refusal :=
  slotStep p (fun q t =>
    match q.op t a, q.op t b with
    | some u, some v => (t, f q t u v)
    | _, _ => (t, .later)) s

/-- A slot of one operand that yields a value, waits, or traps. -/
def slot1T (a p : Byte) (f : SlotCx → State → Word → SlotRes) (s : State) : Host.Outcome State Fault Refusal :=
  slotStep p (fun q t =>
    match q.op t a with
    | some u => (t, f q t u)
    | none => (t, .later)) s

/-- A slot of three operands. -/
def slot3T (a b p c : Byte) (f : SlotCx → State → Word → Word → Word → SlotRes) (s : State) :
    Host.Outcome State Fault Refusal :=
  slotStep p (fun q t =>
    match q.op t a, q.op t b, q.op t c with
    | some u, some v, some w => (t, f q t u v w)
    | _, _, _ => (t, .later)) s

end Sys2Proof.Machine
end

