-- ==== Sys2Proof/Machine/CtlMem.lean ====
section
/-!
DEFINITION. The memory instructions and atomics of the control core (R138, R158 to R161): loads through the read buffer with
forwarding from lower stores and from stores in flight, stores and atomics checked at execution and performed from commit on.
-/
namespace Sys2Proof.Machine

/-! ### Order among the slots (R138) -/

/-- Whether slot `j` lets a later load execute: it is no FENCE, WAIT or QPOP, or it has completed or is predicated off. -/
def passedSync (b : Blk) (j : Nat) : Bool :=
  let o := slotOp (b.word j)
  !(o == 0x60 || o == 0x61 || o == 0x64) || b.resolved j

/-- Whether slot `j` is of the store class (R112). -/
def storeClass (o : Nat) : Bool := decide ((0x47 ≤ o ∧ o ≤ 0x4A) ∨ (0x50 ≤ o ∧ o ≤ 0x57))

/-- The address operand of slot `j`, field A. -/
def slotAddr (s : State) (x : Nat) (c : Ctx) (b : Blk) (j : Nat) : Option Word := opnd s x c b ((b.word j).extractLsb' 16 8)

/-- Whether a store-class slot has its address ready, or has been predicated off. -/
def addrReady (s : State) (x : Nat) (c : Ctx) (b : Blk) (j : Nat) : Bool :=
  !storeClass (slotOp (b.word j)) || b.slot j == some .off || (slotAddr s x c b j).isSome

/-- Where a plain store in slot `j` will write when it has not executed yet, by its address alone: of another device's memory whether or not that
device translates it. -/
def pendSegs (s : State) (rt : Rt) (x : Nat) (c : Ctx) (b : Blk) (j : Nat) : List (PA × Nat) :=
  let o := slotOp (b.word j)
  let n := 2 ^ (o - 0x47)
  if 0x47 ≤ o ∧ o ≤ 0x4A ∧ !b.resolved j then
    match slotAddr s x c b j with
    | some a => match classify s rt a n true with
      | .ok (.peer dev va) => [(⟨.peer dev none, va⟩, n)]
      | _ => match (resolve s rt (dieOf (cvOfX x)) a n false true).2 with
        | .ok segs => segs
        | .error _ => []
    | none => []
  else []

/-- The byte that the highest executed ST slot below `k` writes at `p`: slots `l` from high to low (R138). -/
def forwarded (b : Blk) (p : PA) : List Nat → Option Byte
  | [] => none
  | j :: t =>
    match b.slot j with
    | some (.done _ (.store q _ n v) _) =>
      if holdsPA (q, n) p then some (v.extractLsb' (8 * (p.adr - q.adr)) 8)
      else forwarded b p t
    | _ => forwarded b p t

/-! ### Stores in flight -/

/-- Whether the access is a control-core store of a context that `f` admits. -/
def isCtlStore (f : Nat → Bool) (a : Acc) : Bool :=
  match a.ag, a.kind with
  | .ctx x, .wr _ => f x
  | _, _ => false

/-- The byte that the latest store in flight of the contexts that `f` admits writes at `p`. -/
def inFlight (f : Nat → Bool) (p : PA) (l : List Acc) : Option Byte :=
  l.foldl (fun o a =>
    if isCtlStore f a then
      match a.segs, a.kind with
      | (q, n) :: _, .wr bs =>
        if holdsPA (q, n) p then
          (match bs.find? (fun e => e.1 == p.adr - q.adr) with | some e => some e.2 | none => o)
        else o
      | _, _ => o
    else o) none

/-! ### The read buffer (R159) -/

/-- The line address of a resolved address. -/
def lineOf (p : PA) : PA := ⟨p.sp, p.adr / 64 * 64⟩

/-- The line that the buffer of cove `cv` holds. -/
def rbufLine (s : State) (cv : Nat) (l : PA) : Option Line := (s.cove cv).rbuf.find? fun e => decide (e.adr = l)

/-- The content of a line as the core's contexts see memory: their stores in flight over the bytes of memory (log entry 98). -/
def lineBytes (s : State) (cv : Nat) (l : PA) : List Byte :=
  (span l.adr 64).map fun a =>
    (inFlight (fun x => cvOfX x == cv) ⟨l.sp, a⟩ s.accs).getD (rdPA s ⟨l.sp, a⟩)

/-- Fill a line for a residency, whose permit meter its bytes count at (R331); a full buffer of 256 lines gives one up (log entry 7). -/
def fillLine (s : State) (rid cv : Nat) (l : PA) : State :=
  let c := s.cove cv
  let old := if c.rbuf.length < 256 then c.rbuf else dropNth c.rbuf (Config.freeVictim s.free % c.rbuf.length)
  meterSegs { s.setCove cv { c with rbuf := old ++ [⟨l, lineBytes s cv l⟩] } with free := s.free + 1 } rid [(l, 64)]

/-- The bytes of a line at `base` after a store of `n` bytes of `v` at address `a`. -/
def overLine (data : List Byte) (base a n : Nat) (v : Word) : List Byte :=
  (span 0 64).map fun i =>
    if a ≤ base + i ∧ base + i < a + n then v.extractLsb' (8 * (base + i - a)) 8 else nth 0 data i

/-- A store of the core updates a line that the buffer holds. -/
def updLine (s : State) (cv : Nat) (p : PA) (n : Nat) (v : Word) : State :=
  let c := s.cove cv
  s.setCove cv { c with
    rbuf := c.rbuf.map fun l =>
      if l.adr = lineOf p then { l with data := overLine l.data l.adr.adr p.adr n v } else l }

/-- An atomic of the core removes its line. -/
def dropLine (s : State) (cv : Nat) (p : PA) : State :=
  let c := s.cove cv
  s.setCove cv { c with rbuf := c.rbuf.filter fun e => decide (e.adr ≠ lineOf p) }

/-! ### Loads -/

/-- The rights of a context's accesses (R17). -/
def ctxRt (s : State) (c : Ctx) : Rt := rtOf s c.rid (c.prv != .u)

/-- Whether a store of context `x` in flight covers the poisoned word of shore memory that holds a byte: its performance clears the mark (R363, log entry 131). -/
def wordCovered (s : State) (x : Nat) (p : PA) : Bool :=
  s.accs.any fun a => isCtlStore (fun y => y == x) a && (span (p.adr / 8 * 8) 8).all fun b => a.segs.any fun e => holdsPA e ⟨p.sp, b⟩

/-- The bytes of a load from memory, and whether poison was met. A deep load goes through the read buffer; a shore or peer load
reads memory, with the context's own stores in flight over it (R138). What is read counts at the permit meter (R331). -/
def loadBytes (s : State) (q : SlotCx) (deep : Bool) (segs : List (PA × Nat)) : State × List Byte × Bool :=
  match segs with
  | (p, n) :: _ =>
    if deep then
      match rbufLine s q.cv (lineOf p) with
      | some l => (s, (span (p.adr % 64) n).map fun i => nth 0 l.data i, false)
      | none =>
        if psnAt s p then (s, [], true)
        else
          let s1 := fillLine s q.c.rid q.cv (lineOf p)
          (s1, (span p.adr n).map fun a =>
            (inFlight (fun x => cvOfX x == q.cv) ⟨p.sp, a⟩ s.accs).getD (rdPA s ⟨p.sp, a⟩), false)
    else
      let r := rdSegs (meterSegs s q.c.rid segs) segs
      (r.1, (r.2.1.zip (segPAs segs)).map fun e => (inFlight (fun x => x == q.x) e.2 s.accs).getD e.1,
        if p.sp = .shore then (segPAs segs).any fun e => psnAt s e && !wordCovered s q.x e else r.2.2)
  | [] => (s, [], false)

/-- Whether a pointer is of the deep class, the only one that the read buffer serves (R159). -/
def isDeep (a : Word) : Bool := bitsOf a.toNat 62 2 == 0

/-- Whether a load makes a deep or a peer request (R332): the block's stores do not give all its bytes, and the read buffer does not hold its
line. -/
def asks (s : State) (cv : Nat) (adr : Word) (segs : List (PA × Nat)) : Bool :=
  match segs with
  | (p, _) :: _ => if isDeep adr then (rbufLine s cv (lineOf p)).isNone else decide (p.sp ≠ .shore)
  | [] => false

/-- A load of `n` bytes (R158), once every slot below allows it (R138); a request waits for the gate (R332). XADDR of a fenced or poisoned
load is 0 (R145); whether another device has fenced the bytes is open (R355, log entry 6). MISALIGN is reported before what R13 to R18 or the
translation find, as by stores and atomics: the model's choice (log entry 133). -/
def loadSlot (n : Nat) (signed : Bool) (a b p : Byte) (s : State) : Host.Outcome State Fault Refusal :=
  slotStep p (fun q t =>
    match q.op t a, q.op t b with
    | some u, some v =>
      let below := span 0 q.k
      if !below.all (fun j => passedSync q.b j && addrReady t q.x q.c q.b j) then (t, .later)
      else
        let adr := u + v
        let rt := ctxRt t q.c
        let at_ := shownPtr rt adr
        if adr.toNat % n ≠ 0 then (t, .trap 0x12 at_)
        else
          match resolve t rt (dieOf q.cv) adr n true false with
          | (t1, .error e) => (t1, .trap e.cause at_)
          | (t1, .ok segs) =>
            let ps := segPAs segs
            if below.any (fun j => (pendSegs t rt q.x q.c q.b j).any fun e => segs.any (meets e)) then (t, .later)
            else match fencedBy t1 q.c.rid segs with
            | some fr => (tellFenced t1 q.c.rid fr (16 * q.cv), .trap 0x48 0)
            | none =>
              let fw := ps.map fun x => forwarded q.b x below.reverse
              if !gateLets t q.c.rid && !fw.all Option.isSome && asks t1 q.cv adr segs then (t, .later) else
              let pf := if fw.all Option.isSome then (t1, false) else peerFenced t1 segs
              if pf.2 then (pf.1, .trap 0x48 0) else
              let r := if fw.all Option.isSome then (t1, [], false) else loadBytes pf.1 q (isDeep adr) segs
              if r.2.2 then (r.1, .trap 0x4C 0)
              else
                let bytes := (span 0 n).map fun i => (nth none fw i).getD (nth 0 r.2.1 i)
                let w := leNat bytes
                (r.1, .done (if signed then BitVec.ofInt 64 (sext (8 * n) w) else BitVec.ofNat 64 w) .nothing 0)
    | _, _ => (t, .later)) s

/-- LD.b (R158). -/
def execLdB (a b p : Byte) (s : State) := loadSlot 1 true a b p s
/-- LD.h (R158). -/
def execLdH (a b p : Byte) (s : State) := loadSlot 2 true a b p s
/-- LD.w (R158). -/
def execLdW (a b p : Byte) (s : State) := loadSlot 4 true a b p s
/-- LD.d (R158). -/
def execLdD (a b p : Byte) (s : State) := loadSlot 8 true a b p s
/-- LDN.b (R158). -/
def execLdnB (a b p : Byte) (s : State) := loadSlot 1 false a b p s
/-- LDN.h (R158). -/
def execLdnH (a b p : Byte) (s : State) := loadSlot 2 false a b p s
/-- LDN.w (R158). -/
def execLdnW (a b p : Byte) (s : State) := loadSlot 4 false a b p s

/-! ### Stores and atomics -/

/-- A store of `n` bytes (R158): checked at execution, MISALIGN first (log entry 133), written from commit on. -/
def storeSlot (n : Nat) (a b p : Byte) (s : State) : Host.Outcome State Fault Refusal :=
  slotStep p (fun q t =>
    match q.op t a, q.op t b with
    | some adr, some v =>
      let at_ := shownPtr (ctxRt t q.c) adr
      if adr.toNat % n ≠ 0 then (t, .trap 0x12 at_)
      else match resolve t (ctxRt t q.c) (dieOf q.cv) adr n false true with
        | (t1, .error e) => (t1, .trap e.cause at_)
        | (t1, .ok segs) => (t1, .done 0 (.store (nth (⟨.hbm, 0⟩, 0) segs 0).1 adr n v) 0)
    | _, _ => (t, .later)) s

/-- ST.b (R158). -/
def execStB (a b p : Byte) (s : State) := storeSlot 1 a b p s
/-- ST.h (R158). -/
def execStH (a b p : Byte) (s : State) := storeSlot 2 a b p s
/-- ST.w (R158). -/
def execStW (a b p : Byte) (s : State) := storeSlot 4 a b p s
/-- ST.d (R158). -/
def execStD (a b p : Byte) (s : State) := storeSlot 8 a b p s

/-- LDR (R158): 8 bytes of the pool as fetched. -/
def execLdr (x : BitVec 16) (p : Byte) (s : State) :=
  slotStep p (fun q t =>
    (t, .done (BitVec.ofNat 64 (leNat ((q.b.pool.drop (8 * x.toNat)).take 8))) .nothing 0)) s

/-- Fill the line of a deep address that translates for reading, if it is not held: the hint of PREF (R158, R159). -/
def prefetch (s : State) (q : SlotCx) (adr : Word) : State :=
  if isDeep adr then
    match resolve s (ctxRt s q.c) (dieOf q.cv) adr 1 true false with
    | (t1, .ok ((p, _) :: _)) =>
      if (rbufLine s q.cv (lineOf p)).isSome || psnAt s p then t1 else fillLine t1 q.c.rid q.cv (lineOf p)
    | (t1, _) => t1
  else s

/-- PREF (R158): the hint is taken, its fill waiting for the gate (R332); it yields 0 and never traps. -/
def execPref (a p : Byte) (s : State) :=
  slotStep p (fun q t =>
    match q.op t a with
    | some adr =>
      let t1 := prefetch t q adr
      if !gateLets t q.c.rid && asked t t1 q.c.rid then (t, .later) else (t1, .done 0 .nothing 0)
    | none => (t, .later)) s

/-- An atomic of 8 bytes (R161): checked at execution, MISALIGN first (log entry 133), performed at commit step 2. -/
def atomicSlot (op : Nat) (a b p : Byte) (c : Option Byte) (d : Byte) (s : State) : Host.Outcome State Fault Refusal :=
  slotStep p (fun q t =>
    match q.op t a, q.op t b, (match c with | some o => q.op t o | none => some 0) with
    | some adr, some v, some w =>
      let at_ := shownPtr (ctxRt t q.c) adr
      if adr.toNat % 8 ≠ 0 then (t, .trap 0x12 at_)
      else match resolve t (ctxRt t q.c) (dieOf q.cv) adr 8 true true with
        | (t1, .error e) => (t1, .trap e.cause at_)
        | (t1, .ok segs) =>
          match fencedBy t1 q.c.rid segs with
          | some fr => (tellFenced t1 q.c.rid fr (16 * q.cv), .trap 0x48 0)
          | none =>
            let pf := peerFenced t1 segs
            if pf.2 then (pf.1, .trap 0x48 0)
            else (pf.1, .done 0 (.atomic op (nth (⟨.hbm, 0⟩, 0) segs 0).1 adr v w (d.toNat % 64)) 0)
    | _, _, _ => (t, .later)) s

/-- AADD (R161). -/
def execAadd (a b p d : Byte) (s : State) := atomicSlot 0 a b p none d s
/-- AAND (R161). -/
def execAand (a b p d : Byte) (s : State) := atomicSlot 1 a b p none d s
/-- AOR (R161). -/
def execAor (a b p d : Byte) (s : State) := atomicSlot 2 a b p none d s
/-- AXOR (R161). -/
def execAxor (a b p d : Byte) (s : State) := atomicSlot 3 a b p none d s
/-- AMIN (R161). -/
def execAmin (a b p d : Byte) (s : State) := atomicSlot 4 a b p none d s
/-- AMAX (R161). -/
def execAmax (a b p d : Byte) (s : State) := atomicSlot 5 a b p none d s
/-- AXCHG (R161). -/
def execAxchg (a b p d : Byte) (s : State) := atomicSlot 6 a b p none d s
/-- ACAS (R161): the compare value in EXT C. -/
def execAcas (a b p c d : Byte) (s : State) := atomicSlot 7 a b p (some c) d s

/-- What an atomic of R161 leaves in memory, from the old value. -/
def atomicNew (op : Nat) (old v c : Word) : Word :=
  match op with
  | 0 => old + v
  | 1 => old &&& v
  | 2 => old ||| v
  | 3 => old ^^^ v
  | 4 => if sw old ≤ sw v then old else v
  | 5 => if sw old ≤ sw v then v else old
  | 6 => v
  | _ => if old = c then v else old

end Sys2Proof.Machine
end

