-- ==== Sys2Proof/Machine/Flags.lean ====
section
/-!
DEFINITION. Number formats (R81 to R86), exact values, the one rounding of every operation with its sticky flags (R82, R83,
R85, R95, R96), and the integer lanes. Flags are the bits of R96: 16 NV, 8 DZ, 4 OF, 2 UF, 1 NX.
-/
namespace Sys2Proof.Machine

/-! ### Integer formats (R81) -/

/-- The width in bits of a format code. -/
def fmtWidth (f : Nat) : Nat :=
  match f with
  | 0 | 4 | 11 | 12 | 14 => 8
  | 1 | 5 | 9 | 10 => 16
  | 2 | 6 | 8 => 32
  | 3 | 7 => 64
  | _ => 4

/-- Lanes per token of a format (R215). -/
def fmtLanes (f : Nat) : Nat := 128 / fmtWidth f

/-- Whether a code is a signed integer format; codes 4 to 7 are unsigned. -/
def fmtSigned (f : Nat) : Bool := decide (f < 4)

/-- Whether a code is an integer format. -/
def fmtInt (f : Nat) : Bool := decide (f < 8)

/-- A lane read as an integer of the format. -/
def laneInt (f v : Nat) : Int := if f < 4 then sext (fmtWidth f) v else (v : Int)

/-- Wrap(T, x) (R31), as bits. -/
def wrapT (f : Nat) (x : Int) : Nat := cutInt (fmtWidth f) x

/-- The least and the greatest value of an integer format. -/
def minT (f : Nat) : Int := if f < 4 then -(2 ^ (fmtWidth f - 1) : Nat) else 0
def maxT (f : Nat) : Int := if f < 4 then (2 ^ (fmtWidth f - 1) : Nat) - 1 else (2 ^ fmtWidth f : Nat) - 1

/-- Clamp (R31). -/
def clampI (x lo hi : Int) : Int := if x < lo then lo else if hi < x then hi else x

/-- Sat(T, x) (R31), as bits. -/
def satT (f : Nat) (x : Int) : Nat := wrapT f (clampI x (minT f) (maxT f))

/-! ### Floating-point formats (R82, R84) -/

/-- A floating-point format: exponent and fraction bits, bias, the greatest finite code, what an overflow that calls for infinity
delivers, and the NaN it delivers. -/
structure FF where
  eb  : Nat
  fb  : Nat
  bias : Nat
  maxC : Nat
  infC : Nat
  nanC : Nat
  deriving DecidableEq, Repr

def FF.f32 : FF := ⟨8, 23, 127, 0x7F7FFFFF, 0x7F800000, 0x7FC00000⟩
def FF.bf16 : FF := ⟨8, 7, 127, 0x7F7F, 0x7F80, 0x7FC0⟩
def FF.f16 : FF := ⟨5, 10, 15, 0x7BFF, 0x7C00, 0x7E00⟩
def FF.e4m3 : FF := ⟨4, 3, 7, 0x7E, 0x7F, 0x7F⟩
def FF.e5m2 : FF := ⟨5, 2, 15, 0x7B, 0x7C, 0x7E⟩
def FF.e2m1 : FF := ⟨2, 1, 1, 0x7, 0x7, 0x0⟩

/-- The floating-point format of a code (R81). -/
def ffOf (f : Nat) : FF :=
  match f with
  | 9 => .bf16
  | 10 => .f16
  | 11 => .e4m3
  | 12 => .e5m2
  | 13 => .e2m1
  | _ => .f32

/-- The bit that holds the sign. -/
def FF.sign (F : FF) : Nat := F.eb + F.fb

/-- A value: a NaN, signalling or quiet, an infinity, or (-1)^neg · m · 2^e. -/
inductive FV where
  | nan (sig : Bool)
  | inf (neg : Bool)
  | fin (neg : Bool) (m : Nat) (e : Int)
  deriving DecidableEq, Repr

/-- Read a code of FP32, BF16 or FP16 (R82). -/
def FF.decI (F : FF) (b : Nat) : FV :=
  let neg := bitOf b F.sign
  let ex := bitsOf b F.fb F.eb
  let fr := bitsOf b 0 F.fb
  if ex = 2 ^ F.eb - 1 then (if fr = 0 then .inf neg else .nan (!bitOf fr (F.fb - 1)))
  else if ex = 0 then .fin neg fr (1 - (F.bias : Int) - F.fb)
  else .fin neg (2 ^ F.fb + fr) ((ex : Int) - F.bias - F.fb)

/-- Read a code of any floating-point format (R82, R84). NaNs of the 8-bit formats are quiet. -/
def fdec (f b : Nat) : FV :=
  let F := ffOf f
  if f = 11 then (if b % 128 = 127 then .nan false else
    (let ex := bitsOf b 3 4
     if ex = 0 then .fin (bitOf b 7) (b % 8) (-9) else .fin (bitOf b 7) (8 + b % 8) ((ex : Int) - 10)))
  else if f = 13 then
    (let ex := bitsOf b 1 2
     if ex = 0 then .fin (bitOf b 3) (b % 2) (-1) else .fin (bitOf b 3) (2 + b % 2) ((ex : Int) - 2))
  else match F.decI b with
    | .nan s => if f = 12 then .nan false else .nan s
    | v => v

/-- The bit pattern of a sign and a magnitude code. -/
def FF.signed (F : FF) (neg : Bool) (c : Nat) : Nat := if neg then 2 ^ F.sign + c else c

/-- Whether the value is a NaN, and whether it signals. -/
def FV.isNan : FV → Bool
  | .nan _ => true
  | _ => false
def FV.isSig : FV → Bool
  | .nan s => s
  | _ => false

/-- Whether a value is a zero. -/
def FV.isZero : FV → Bool
  | .fin _ m _ => m == 0
  | _ => false

/-- Negation of a value. -/
def FV.neg : FV → FV
  | .nan s => .nan s
  | .inf n => .inf !n
  | .fin n m e => .fin (!n) m e

/-! ### The one rounding (R82, R85, R95) -/

/-- Whether a mode (R95: 0 nearest even, 1 toward zero, 2 up, 3 down) rounds a magnitude up, given its kept part, the discarded
part `rem` of `2^sh`, and whether something below was discarded too. -/
def roundsUp (rm : Nat) (neg : Bool) (q rem sh : Nat) (st : Bool) : Bool :=
  match rm with
  | 0 => if sh = 0 then false
         else decide (2 ^ (sh - 1) < rem) || (decide (rem = 2 ^ (sh - 1)) && (st || decide (q % 2 = 1)))
  | 1 => false
  | 2 => !neg && (decide (rem ≠ 0) || st)
  | _ => neg && (decide (rem ≠ 0) || st)

/-- `m · 2^e` (something below it discarded when `st`) cut to a multiple of 2^qn: the kept count and whether it is inexact. -/
def cutTo (rm : Nat) (neg : Bool) (m : Nat) (st : Bool) (e qn : Int) : Nat × Bool :=
  if qn ≤ e then
    (m * 2 ^ (e - qn).toNat + (if st && (rm == 2 && !neg || rm == 3 && neg) then 1 else 0), st)
  else
    let sh := (qn - e).toNat
    let q := m / 2 ^ sh
    let rem := m % 2 ^ sh
    (q + (if roundsUp rm neg q rem sh st then 1 else 0), decide (rem ≠ 0) || st)

/-- The magnitude code of `q · 2^qn`, where `q` fits the precision or is the next power of two. -/
def FF.code (F : FF) (q : Nat) (qn : Int) : Nat :=
  let ex := (qn + F.fb + F.bias).toNat
  if q < 2 ^ F.fb then q else q - 2 ^ F.fb + ex * 2 ^ F.fb

/-- Whether an overflow in this mode calls for infinity. -/
def ovfInf (rm : Nat) (neg : Bool) : Bool := rm == 0 || (rm == 2 && !neg) || (rm == 3 && neg)

/-- Round (-1)^neg · m · 2^e, with something below discarded when `st`, into a format: bits and flags. -/
def FF.round (F : FF) (rm : Nat) (sat neg : Bool) (m : Nat) (st : Bool) (e : Int) : Nat × Nat :=
  if m = 0 ∧ !st then (F.signed neg 0, 0)
  else
    let top := (Nat.log2 m : Int) + e
    let emin := 1 - (F.bias : Int)
    let qn := (if top < emin then emin else top) - F.fb
    let (q, inx) := cutTo rm neg m st e qn
    let c := F.code q qn
    if c > F.maxC then (F.signed neg (if !sat && ovfInf rm neg then F.infC else F.maxC), 5)
    else
      let (q2, _) := cutTo rm neg m st e (top - F.fb)
      let tiny := decide (top < emin) && !(decide (q2 ≥ 2 ^ (F.fb + 1)) && decide (top + 1 ≥ emin))
      (F.signed neg c, (if inx then 1 else 0) ||| (if tiny && inx then 2 else 0))

/-- A NaN result of a format with flags. -/
def FF.nan (F : FF) (fl : Nat) : Nat × Nat := (F.nanC, fl)

/-- The flag of signalling operands (R83). -/
def sigFl (l : List FV) : Nat := if l.any FV.isSig then 16 else 0

/-! ### Exact sums and products -/

/-- The exact sum of two finite values: sign, magnitude, exponent; an exact zero takes the sign that `rm` gives (R82). -/
def finAdd (rm : Nat) (n1 : Bool) (m1 : Nat) (e1 : Int) (n2 : Bool) (m2 : Nat) (e2 : Int) : Bool × Nat × Int :=
  let e := if e1 < e2 then e1 else e2
  let a : Int := (m1 * 2 ^ (e1 - e).toNat : Nat)
  let b : Int := (m2 * 2 ^ (e2 - e).toNat : Nat)
  let t := (if n1 then -a else a) + (if n2 then -b else b)
  if t = 0 then ((if n1 == n2 then n1 else rm == 3), 0, e)
  else (decide (t < 0), t.natAbs, e)

/-- Round a value of the exact result, scaled by 2^k, into a format (R95, R99). -/
def FF.out (F : FF) (rm : Nat) (k : Int) (v : FV) (fl : Nat) : Nat × Nat :=
  match v with
  | .nan _ => F.nan fl
  | .inf n => (F.signed n F.infC, fl)
  | .fin n m e => let r := F.round rm false n m false (e + k); (r.1, r.2 ||| fl)

/-- a + b. -/
def FF.add (F : FF) (rm : Nat) (k : Int) (a b : FV) : Nat × Nat :=
  match a, b with
  | .fin n1 m1 e1, .fin n2 m2 e2 => let r := finAdd rm n1 m1 e1 n2 m2 e2; F.out rm k (.fin r.1 r.2.1 r.2.2) 0
  | .inf n1, .inf n2 => if n1 = n2 then F.out rm k (.inf n1) 0 else F.nan 16
  | .inf n1, .fin _ _ _ => F.out rm k (.inf n1) 0
  | .fin _ _ _, .inf n2 => F.out rm k (.inf n2) 0
  | _, _ => F.nan (sigFl [a, b])

/-- The exact product, or none for an infinity times zero. -/
def fvMul (a b : FV) : Option FV :=
  match a, b with
  | .fin n1 m1 e1, .fin n2 m2 e2 => some (.fin (n1 != n2) (m1 * m2) (e1 + e2))
  | .inf n1, .inf n2 => some (.inf (n1 != n2))
  | .inf n1, .fin n2 m2 _ => if m2 = 0 then none else some (.inf (n1 != n2))
  | .fin n1 m1 _, .inf n2 => if m1 = 0 then none else some (.inf (n1 != n2))
  | _, _ => some (.nan false)

/-- a · b. -/
def FF.mul (F : FF) (rm : Nat) (k : Int) (a b : FV) : Nat × Nat :=
  match fvMul a b with
  | none => F.nan 16
  | some v => F.out rm k v (sigFl [a, b])

/-- a · b + c with one rounding (R95); an infinity times zero raises NV whatever c is (R225). -/
def FF.fma (F : FF) (rm : Nat) (k : Int) (a b c : FV) : Nat × Nat :=
  match fvMul a b with
  | none => F.nan 16
  | some p => if a.isNan || b.isNan || c.isNan then F.nan (sigFl [a, b, c]) else F.add rm k p c

/-- The quotient of two finite nonzero magnitudes, 80 bits or more of it, and whether more follows. -/
def finDiv (m1 : Nat) (e1 : Int) (m2 : Nat) (e2 : Int) : Nat × Bool × Int :=
  let sh := 80 + Nat.log2 m2
  let n := m1 * 2 ^ sh
  (n / m2, decide (n % m2 ≠ 0), e1 - e2 - sh)

/-- a / b (R225). -/
def FF.div (F : FF) (rm : Nat) (k : Int) (a b : FV) : Nat × Nat :=
  match a, b with
  | .fin n1 m1 e1, .fin n2 m2 e2 =>
    if m2 = 0 then (if m1 = 0 then F.nan 16 else (F.signed (n1 != n2) F.infC, 8))
    else if m1 = 0 then (F.signed (n1 != n2) 0, 0)
    else let d := finDiv m1 e1 m2 e2; F.round rm false (n1 != n2) d.1 d.2.1 (d.2.2 + k)
  | .inf _, .inf _ => F.nan 16
  | .inf n1, .fin n2 _ _ => (F.signed (n1 != n2) F.infC, 0)
  | .fin n1 _ _, .inf n2 => (F.signed (n1 != n2) 0, 0)
  | _, _ => F.nan (sigFl [a, b])

/-- The integer square root by bits: `f` bits left, root so far `r`. -/
def isqrtFrom (n : Nat) : Nat → Nat → Nat
  | 0, r => r
  | f + 1, r => let t := r + 2 ^ f; isqrtFrom n f (if t * t ≤ n then t else r)

/-- The integer square root. -/
def isqrt (n : Nat) : Nat := isqrtFrom n (Nat.log2 n / 2 + 1) 0

/-- √a (R155). -/
def FF.sqrt (F : FF) (rm : Nat) (a : FV) : Nat × Nat :=
  match a with
  | .nan s => F.nan (if s then 16 else 0)
  | .inf n => if n then F.nan 16 else (F.infC, 0)
  | .fin n m e =>
    if m = 0 then (F.signed n 0, 0)
    else if n then F.nan 16
    else
      let m2 := if e % 2 = 0 then m * 2 ^ 120 else m * 2 ^ 121
      let e2 := if e % 2 = 0 then e - 120 else e - 121
      let q := isqrt m2
      F.round rm false false q (decide (q * q ≠ m2)) (e2 / 2)

/-- 1 / √a (R225). -/
def FF.rsq (F : FF) (rm : Nat) (k : Int) (a : FV) : Nat × Nat :=
  match a with
  | .nan s => F.nan (if s then 16 else 0)
  | .inf n => if n then F.nan 16 else (0, 0)
  | .fin n m e =>
    if m = 0 then (F.signed n F.infC, 8)
    else if n then F.nan 16
    else
      let m2 := if e % 2 = 0 then m else m * 2
      let e2 := if e % 2 = 0 then e else e - 1
      let big := 2 ^ (2 * (100 + Nat.log2 m2))
      let q := isqrt (big / m2)
      F.round rm false false q (decide (q * q * m2 ≠ big)) (-(100 + Nat.log2 m2 : Nat) - e2 / 2 + k)

/-- ln 2 and 1 / ln 2 in units of 2^-200, rounded down. -/
def ln2 : Nat := 1113844574712631719546256151097547306333272293549090750737802
def invLn2 : Nat := 2318321547468254865173387471183990171487108758923299108729110

/-- The terms y^i / i! from `i` on, `f` of them, in units of 2^-200, each rounded down. -/
def expTerms (y : Nat) : Nat → Nat → Nat → Nat
  | 0, _, _ => 0
  | f + 1, i, t => t + expTerms y f (i + 1) (t * y / 2 ^ 200 / (i + 1))

/-- 2^x - 1 for a fraction `x` of units 2^-200, rounded down; it is less than 128 units too small. -/
def exp2Frac (x : Nat) : Nat := expTerms (x * ln2 / 2 ^ 200) 60 0 (2 ^ 200) - 2 ^ 200

/-- The terms z^(2i+1) / (2i+1) from `i` on, `f` of them, in units of 2^-200. -/
def atanhTerms (z2 : Nat) : Nat → Nat → Nat → Nat
  | 0, _, _ => 0
  | f + 1, i, t => t / (2 * i + 1) + atanhTerms z2 f (i + 1) (t * z2 / 2 ^ 200)

/-- log2 of `m / 2^b`, from 1 to 2, in units of 2^-200; it is less than 2048 units too small. -/
def log2Frac (m b : Nat) : Nat :=
  let z := (m - 2 ^ b) * 2 ^ 200 / (m + 2 ^ b)
  2 * atanhTerms (z * z / 2 ^ 200) 70 0 z * invLn2 / 2 ^ 200

/-- Round a value known to lie strictly between `lo` and `hi` units of 2^e: the two roundings agree, or the result is the free
value of log entry 9. -/
def FF.between (F : FF) (rm : Nat) (neg : Bool) (lo hi : Nat) (e : Int) (key : Nat) : Nat × Nat :=
  let a := F.round rm false neg lo true e
  let b := F.round rm false neg hi true e
  if a = b then a else ((Config.freeRound key).toNat % 2 ^ (F.sign + 1), 1)

/-- 2^a (R225). -/
def FF.exp2 (F : FF) (rm : Nat) (k : Int) (a : FV) (key : Nat) : Nat × Nat :=
  match a with
  | .nan s => F.nan (if s then 16 else 0)
  | .inf n => (if n then 0 else F.infC, 0)
  | .fin n m e =>
    if m = 0 then F.round rm false false 1 false k
    else if (Nat.log2 m : Int) + e ≥ 10 then F.round rm false false 1 false (if n then -1100 else 1100)
    else
      let x : Nat := if e ≥ -200 then m * 2 ^ (e + 200).toNat else m / 2 ^ (-e - 200).toNat
      let exact := if e ≥ -200 then true else decide (m % 2 ^ (-e - 200).toNat = 0)
      let y : Int := if n then -(x : Int) - (if exact then 0 else 1) else (x : Int)
      let i := y / (2 ^ 200 : Nat)
      let f := (y % (2 ^ 200 : Nat)).toNat
      if f = 0 ∧ exact then F.round rm false false 1 false (i + k)
      else
        let r := 2 ^ 200 + exp2Frac f
        F.between rm false r (if r + 256 < 2 ^ 201 then r + 256 else 2 ^ 201 - 1) (i + k - 200) key

/-- log2 a (R225). -/
def FF.log2 (F : FF) (rm : Nat) (k : Int) (a : FV) (key : Nat) : Nat × Nat :=
  match a with
  | .nan s => F.nan (if s then 16 else 0)
  | .inf n => if n then F.nan 16 else (F.infC, 0)
  | .fin n m e =>
    if m = 0 then (F.signed true F.infC, 8)
    else if n then F.nan 16
    else
      let b := Nat.log2 m
      let top := e + b
      if m = 2 ^ b then F.round rm false (decide (top < 0)) top.natAbs false k
      else
        let l := log2Frac m b
        if top < 0 then
          let hi := top.natAbs * 2 ^ 200 - l
          F.between rm true (hi - 4096) (hi - 1) (k - 200) key
        else
          let lo := top.natAbs * 2 ^ 200 + l
          F.between rm false lo (lo + 4096) (k - 200) key

/-! ### Comparison, minimum, maximum, class -/

/-- The order of two values that are no NaN: -1, 0 or 1; -0 equals +0. -/
def fvCmp (a b : FV) : Int :=
  match a, b with
  | .inf n, .inf p => if n = p then 0 else if n then -1 else 1
  | .inf n, _ => if n then -1 else 1
  | _, .inf p => if p then 1 else -1
  | .fin n1 m1 e1, .fin n2 m2 e2 =>
    let r := finAdd 0 n1 m1 e1 (!n2) m2 e2
    if r.2.1 = 0 then 0 else if r.1 then -1 else 1
  | _, _ => 0

/-- The sign of a value. -/
def FV.sgn : FV → Bool
  | .inf n => n
  | .fin n _ _ => n
  | .nan _ => false

/-- minimumNumber, or maximumNumber when `mx` (R155), as a value with the flag of a signalling operand. -/
def fvMinMax (mx : Bool) (a b : FV) : FV × Nat :=
  let fl := sigFl [a, b]
  if a.isNan && b.isNan then (.nan false, fl)
  else if a.isNan then (b, fl)
  else if b.isNan then (a, fl)
  else
    let c := fvCmp a b
    if c = 0 then ((if a.sgn != mx then a else b), fl)
    else ((if decide (c < 0) != mx then a else b), fl)

/-- A condition of R156 and R226: 0 oeq, 1 one, 2 olt, 3 ole, 4 uno, 5 ord, 6 ogt, 7 oge; with its flag. -/
def fvCond (cond : Nat) (a b : FV) : Bool × Nat :=
  let un := a.isNan || b.isNan
  let fl := if un && (cond == 2 || cond == 3 || cond == 6 || cond == 7) then 16 else sigFl [a, b]
  let c := fvCmp a b
  match cond with
  | 0 => (!un && decide (c = 0), fl)
  | 1 => (!un && decide (c ≠ 0), fl)
  | 2 => (!un && decide (c < 0), fl)
  | 3 => (!un && decide (c ≤ 0), fl)
  | 4 => (un, fl)
  | 5 => (!un, fl)
  | 6 => (!un && decide (0 < c), fl)
  | _ => (!un && decide (0 ≤ c), fl)

/-- FCLASS (R155) of an FP32 code. -/
def fclass (b : Nat) : Nat :=
  match FF.f32.decI b with
  | .nan s => if s then 256 else 512
  | .inf n => if n then 1 else 128
  | .fin n m _ =>
    if m = 0 then (if n then 8 else 16)
    else if m < 2 ^ 23 then (if n then 4 else 32)
    else if n then 2 else 64

/-! ### Conversions (R85, R157, R229) -/

/-- The integer nearest a finite value under a mode, and whether it is inexact. -/
def fvToInt (rm : Nat) (n : Bool) (m : Nat) (e : Int) : Int × Bool :=
  let r := cutTo rm n m false e 0
  ((if n then -(r.1 : Int) else (r.1 : Int)), r.2)

/-- A floating-point value to an integer format (R157, R229). -/
def fToInt (rm f : Nat) (v : FV) : Nat × Nat :=
  match v with
  | .nan _ => (0, 16)
  | .inf n => (wrapT f (if n then minT f else maxT f), 16)
  | .fin n m e =>
    let r := fvToInt rm n m e
    if r.1 < minT f ∨ maxT f < r.1 then (satT f r.1, 16) else (wrapT f r.1, if r.2 then 1 else 0)

/-- A value into a floating-point format, with the outcomes of R85 for the 8-bit and 4-bit ones. -/
def fToF (rm dst : Nat) (sat : Bool) (v : FV) : Nat × Nat :=
  let F := ffOf dst
  match v with
  | .nan s => if dst = 13 then (0, 16) else F.nan (if s then 16 else 0)
  | .inf n =>
    if dst = 11 then (if sat then (F.signed n 0x7E, 0) else (0x7F, 16))
    else if dst = 12 then (if sat then (F.signed n 0x7B, 0) else (F.signed n 0x7C, 0))
    else if dst = 13 then (F.signed n 7, 16)
    else (F.signed n F.infC, 0)
  | .fin n m e =>
    let r := F.round rm (sat && decide (11 ≤ dst)) n m false e
    if dst = 11 ∧ r.1 % 128 = 127 then (0x7F, r.2) else r

/-- An integer value as an exact value. -/
def intFV (i : Int) : FV := .fin (decide (i < 0)) i.natAbs 0

/-- CVT of one lane (R229). -/
def convLane (src dst rm : Nat) (sat : Bool) (b : Nat) : Nat × Nat :=
  if src = dst then (b, 0)
  else if fmtInt src then
    if fmtInt dst then ((if sat then satT dst (laneInt src b) else wrapT dst (laneInt src b)), 0)
    else fToF rm dst sat (intFV (laneInt src b))
  else if fmtInt dst then fToInt rm dst (fdec src b)
  else fToF rm dst sat (fdec src b)

end Sys2Proof.Machine
end

