-- ==== Sys2Proof/Machine/Tokens.lean ====
section
/-!
DEFINITION. Tokens, queues, endpoints and packets: taking, Anti, arrival (R33 to R51, R74), credits, and what enters a fixed unit
of the cell-local channel map (R121).
-/
namespace Sys2Proof.Machine

/-! ### Tokens (R33) -/

/-- The kinds of R33. -/
def kData : Nat := 0
def kHdr : Nat := 1
def kEot : Nat := 2
def kEof : Nat := 3
def kEos : Nat := 4
def kDrain : Nat := 5
def kCtrl : Nat := 6
def kCoord : Nat := 7
def kIdx : Nat := 8
def kPoison : Nat := 9

/-- The kind of a token as a number. -/
def Tok.k (t : Tok) : Nat := t.kind.toNat

/-- A token from its fields. -/
def mkTok (k : Nat) (pay : BitVec 128) (sb : BitVec 16) : Tok := ⟨BitVec.ofNat 4 k, pay, sb⟩

/-- A token with zero fields. -/
def bare (k : Nat) : Tok := mkTok k 0 0

/-- The tokens POISON, EOT, EOS and DRAIN. -/
def poisonTok : Tok := bare 9
def eotTok : Tok := bare 2
def eosTok : Tok := bare 4
def drainTok : Tok := bare 5

/-- A CTRL token of a value. -/
def ctrlTok (v : Nat) : Tok := mkTok 6 (BitVec.ofNat 128 (v % 2 ^ 64)) 0

/-- An EOF token of a coordinate. -/
def eofTok (c : Nat) : Tok := mkTok 3 0 (BitVec.ofNat 16 c)

/-- The control value of a CTRL token (R33). -/
def Tok.ctl (t : Tok) : Nat := bitsOf t.pay.toNat 0 64

/-- Whether the token is a delimiter (R34). -/
def Tok.isDelim (t : Tok) : Bool := t.k == 2 || t.k == 3 || t.k == 4

/-- Whether a sticky queue holds such a token (R41): any kind but a delimiter, DRAIN or HDR. -/
def Tok.holds (t : Tok) : Bool := !(t.isDelim || t.k == 5 || t.k == 1)

/-! ### Queues (R35 to R46) -/

/-- A queue that nothing feeds. -/
def Queue.empty : Queue where
  depth := 0
  sticky := 0
  win := false
  toks := []
  debt := 0
  recv := 0
  src := []
  land := []
  lastTie := 1
  lastArr := none
  lastTake := none

/-- The head of a queue. -/
def Queue.head (q : Queue) : Option QTok := q.toks.head?

/-- Take (R31, R41): the head, its last use or any use of a delimiter or with `rm` removes it. The arm whose credit returns. -/
def Queue.take (q : Queue) (rm : Bool) (now : Nat) : Queue × Option Nat :=
  match q.toks with
  | [] => (q, none)
  | t :: r =>
    if rm || !t.tok.holds || (q.sticky < 15 && t.left ≤ 1) then ({ q with toks := r, lastTake := some now }, some t.arm)
    else if q.sticky = 15 then ({ q with lastTake := some now }, none)
    else ({ q with toks := { t with left := t.left - 1 } :: r, lastTake := some now }, none)

/-- What Anti does beyond the queue (R46): nothing, a credit of an arm, or an anti-token with its position. -/
inductive AntiOut where
  | nothing
  | credit (arm : Nat)
  | up (p : BitVec 16)
  deriving DecidableEq, Repr

/-- Anti (R46), applied only where `canAnti` lets it, so that Debt stays within its 6 bits. Like a take it follows the arrival of its clock
(R38). -/
def Queue.anti (q : Queue) (now : Nat) : Queue × AntiOut :=
  if q.sticky = 15 then (q, .nothing)
  else match q.toks with
  | t :: r =>
    if t.left ≤ 1 ∨ !t.tok.holds then ({ q with toks := r, lastTake := some now }, .credit t.arm)
    else ({ q with toks := { t with left := t.left - 1 } :: r, lastTake := some now }, .nothing)
  | [] =>
    if q.sticky > 0 then ({ q with debt := q.debt + 1, lastTake := some now }, .nothing)
    else ({ q with debt := q.debt + 1, lastTake := some now }, .up (q.recv + BitVec.ofNat 16 q.debt))

/-- Whether Anti may be applied (R47): the queue holds a token, or its Debt is below 63. -/
def Queue.canAnti (q : Queue) : Bool := !q.toks.isEmpty || decide (q.debt < 63)

/-- Arrive (R45) of a token, or of a settle marker for `none`, from an arm: the queue, and whether one credit returns. -/
def Queue.arrive (q : Queue) (x : Option Tok) (arm now : Nat) : Queue × Bool :=
  let q1 := { q with recv := q.recv + 1, lastArr := some now }
  match x with
  | none => ({ q1 with debt := q.debt - 1 }, false)
  | some t =>
    if q.debt = 0 then ({ q1 with toks := q.toks ++ [⟨t, q.sticky + 1, arm⟩] }, false)
    else if q.debt ≥ q.sticky + 1 then ({ q1 with debt := q.debt - (q.sticky + 1) }, true)
    else ({ q1 with toks := q.toks ++ [⟨t, q.sticky + 1 - q.debt, arm⟩], debt := 0 }, false)

/-- Whether the last token of the queue is DRAIN (R53). -/
def Queue.closed (q : Queue) : Bool :=
  match q.toks.getLast? with
  | some t => t.tok.k == 5
  | none => false

/-! ### Places -/

/-- A plane with nothing in it (R272): C reads +0. -/
def Plane.empty : Plane where
  ctl := []
  bufs := []
  c := []
  pm := false
  em := none
  res := { Queue.empty with depth := 8 }

/-- The plane of a cell's residency (R272): 1 for the residency that holds cells 8 to 15 of a half-cove. -/
def planeOf (s : State) (ce : Nat) : Nat :=
  match ridOfCell s ce with
  | some rid => match Tab.find? s.res rid with
    | some r => if r.region.kind = 1 ∧ r.region.half = 1 then 1 else 0
    | none => 0
  | none => 0

/-- Plane `p` of a cove. -/
def State.plane (s : State) (cv p : Nat) : Plane := Tab.get Plane.empty (s.cove cv).planes p

/-- Replace plane `p` of a cove. -/
def State.setPlane (s : State) (cv p : Nat) (q : Plane) : State :=
  let c := s.cove cv
  s.setCove cv { c with planes := Tab.insert c.planes p q }

/-- Token FIFO `f` from the control core, which holds 16 tokens (R153). -/
def State.fifo (s : State) (cv f : Nat) : Queue := Tab.get { Queue.empty with depth := 16 } (s.cove cv).fq f

/-- Replace token FIFO `f` from the control core. -/
def State.setFifo (s : State) (cv f : Nat) (q : Queue) : State :=
  let c := s.cove cv
  s.setCove cv { c with fq := Tab.insert c.fq f q }

/-- The queue that an input identifier of cell `ce` names (R121). -/
def qAt (s : State) (ce id : Nat) : Queue :=
  if id < 0x20 then Tab.get Queue.empty (s.cell ce).queues id
  else if id = 0x91 then (s.plane (cvOfCe ce) (planeOf s ce)).res
  else if 0xA8 ≤ id ∧ id ≤ 0xAF then s.fifo (cvOfCe ce) (id - 0xA8)
  else Queue.empty

/-- Replace that queue. -/
def setQ (s : State) (ce id : Nat) (q : Queue) : State :=
  if id < 0x20 then
    let c := s.cell ce
    s.setCell ce { c with queues := Tab.insert c.queues id q }
  else if id = 0x91 then
    let p := s.plane (cvOfCe ce) (planeOf s ce)
    s.setPlane (cvOfCe ce) (planeOf s ce) { p with res := q }
  else if 0xA8 ≤ id ∧ id ≤ 0xAF then s.setFifo (cvOfCe ce) (id - 0xA8) q
  else s

/-- The endpoint of key `e` = 32 · cell + number. -/
def endpAt (s : State) (e : Nat) : Option Endp := Tab.find? (s.cell (e / 32)).endps (e % 32)

/-- Replace an endpoint. -/
def setEndp (s : State) (e : Nat) (p : Endp) : State :=
  let c := s.cell (e / 32)
  s.setCell (e / 32) { c with endps := Tab.insert c.endps (e % 32) p }

/-! ### The detector's counters (R55) -/

/-- A detector agent with nothing counted. -/
def Det.zero : Det := ⟨0, 0, 0, 0, 0, 0, false⟩

/-- The six counters of R55: tokens sent and received, reverse sent and received, memory requests and replies. -/
inductive DetC where
  | fs | fr | rs | rr | ms | mr
  deriving DecidableEq, Repr

/-- Count one, and set the activity flag. -/
def Det.bump (d : Det) : DetC → Det
  | .fs => { d with fs := d.fs + 1, act := true }
  | .fr => { d with fr := d.fr + 1, act := true }
  | .rs => { d with rs := d.rs + 1, act := true }
  | .rr => { d with rr := d.rr + 1, act := true }
  | .ms => { d with ms := d.ms + 1, act := true }
  | .mr => { d with mr := d.mr + 1, act := true }

/-- Count one at agent `ag` of residency `rid`: a cell key, or 2^20 and above for the other units of a cove. -/
def detUp (s : State) (rid ag : Nat) (c : DetC) : State :=
  modRes s rid fun r => { r with det := Tab.insert r.det ag ((Tab.get Det.zero r.det ag).bump c) }

/-- Count one at a cell, for the residency that holds it. -/
def detCell (s : State) (ce : Nat) (c : DetC) : State :=
  match ridOfCell s ce with
  | some rid => detUp s rid ce c
  | none => s

/-- Set the activity flag of agent `ag` of residency `rid` (R55). -/
def detAct (s : State) (rid ag : Nat) : State :=
  modRes s rid fun r => { r with det := Tab.insert r.det ag { Tab.get Det.zero r.det ag with act := true } }

/-- The detector agent of a unit of a cove (R55): stream ports 0 to 15, copy engines 64 to 127, token FIFOs 128 to 143. -/
def detUnit (cv u : Nat) : Nat := 2 ^ 20 + 256 * cv + u

/-- The detector agents of a cell's memory interface and of a cove's matrix node. -/
def detIface (ce : Nat) : Nat := 2 ^ 23 + ce
def detMatrix (cv : Nat) : Nat := 2 ^ 23 + 2 ^ 20 + cv

/-- A token passes from one agent of a residency to another without a channel between them: sent by the one, received by the other. -/
def detPass (s : State) (rid a b : Nat) : State := detUp (detUp s rid a .fs) rid b .fr

/-- Note an arrival, a credit, a reply or a firing in the region (R57). -/
def touch (s : State) (rid : Nat) : State :=
  match Tab.find? s.res rid with
  | some r => modRes s rid fun q => { q with actAt := dieClock s (nth 0 r.region.dies 0) }
  | none => s

/-! ### Residency faults (R60) -/

/-- A fatal fault of kind 10 at a cell: slot and entry in UNIT, or 0xFF. -/
def resFault (s : State) (rid cause ce unit : Nat) : State :=
  raiseFatal s { Rec.zero with
    kind := 10, cause := cause, rid := rid, loc := ce, unit := unit, cycle := cycleOf s (cvOfCe ce) }

/-- A fatal fault of kind 9 (R19): the access and its pointer. -/
def addrFault (s : State) (rid cause acc ce unit : Nat) (va : Word) : State :=
  raiseFatal s { Rec.zero with
    kind := 9, cause := cause, rid := rid, acc := acc, loc := ce, unit := unit, va := shownPtr (rtOf s rid false) va, cycle := cycleOf s (cvOfCe ce) }

/-! ### Packets -/

/-- Put a packet on channel `ch` at cove `cv`'s router. -/
def sendPkt (s : State) (ch cv : Nat) (c : Cargo) : State :=
  { s with wire := s.wire ++ [⟨ch, c, cv, cv, dieClock s (dieOf cv), none⟩] }

/-- Return one credit of a cell's queue to the producer of an arm (R36). Fixed units hold their places themselves (log entry 21). -/
def returnCredit (s : State) (ce id arm : Nat) : State :=
  if id < 0x20 then
    match (qAt s ce id).src[arm]? with
    | some ep => detCell (sendPkt s ep (cvOfCe ce) .credit) ce .rs
    | none => s
  else s

/-- Note an EOS that has left a token FIFO from the control core (R52): the head of `q`, gone in `r`. -/
def noteEos (s : State) (ce id : Nat) (q r : Queue) : State :=
  match q.head with
  | some t =>
    if 0xA8 ≤ id ∧ id ≤ 0xAF ∧ t.tok.k = 4 ∧ r.toks.length < q.toks.length then
      let c := s.cove (cvOfCe ce)
      s.setCove (cvOfCe ce) { c with fqEos := insNat c.fqEos (id - 0xA8) }
    else s
  | none => s

/-- Take from an input (R31, R41), returning the credit. -/
def doTake (s : State) (ce id : Nat) (rm : Bool) : State :=
  let r := (qAt s ce id).take rm (dieClock s (dieOf (cvOfCe ce)))
  let s1 := noteEos (setQ s ce id r.1) ce id (qAt s ce id) r.1
  match r.2 with
  | some arm => if (qAt s ce id).win then s1 else returnCredit s1 ce id arm
  | none => s1

/-- Apply Anti to an input (R46). An anti-token to a unit of the last row of R48 is discarded there. -/
def doAnti (s : State) (ce id : Nat) : State :=
  let r := (qAt s ce id).anti (dieClock s (dieOf (cvOfCe ce)))
  let s1 := noteEos (setQ s ce id r.1) ce id (qAt s ce id) r.1
  match r.2 with
  | .nothing => s1
  | .credit arm => returnCredit s1 ce id arm
  | .up p =>
    if id < 0x20 then
      match r.1.src[0]? with
      | some ep => detCell (sendPkt s1 ep (cvOfCe ce) (.anti p)) ce .rs
      | none => s1
    else s1

/-! ### Fixed units -/

/-- Tokens of one tile of operand buffer `b` (R276): TFMT 0 BF16, 1 DE8, 2 DE4. -/
def tileLen (tfmt b : Nat) : Nat :=
  if 8 ≤ b then 256 else if tfmt = 1 then 32 else if tfmt = 2 then 16 else 64

/-- The image of the context slot that a residency's cells run. -/
def activeOf (s : State) (rid : Nat) : Option Nat :=
  match Tab.find? s.res rid with
  | some r => r.active
  | none => none

/-- The two node words of slot `k` of a cell's context slot. -/
def nodeWords (s : State) (ce ctx k : Nat) : BitVec 128 × BitVec 128 :=
  match Tab.find? (s.cell ce).imgs ctx with
  | some i => (nth 0 i.nodes (2 * k), nth 0 i.nodes (2 * k + 1))
  | none => (0, 0)

/-- The operation code of the node in slot `k`; 0 for none. -/
def nodeOp (s : State) (ce ctx k : Nat) : Nat := (nodeWords s ce ctx k).1.toNat / 2 ^ 120

/-- The MMA node of a cell's plane: its IMM, by the cells of the residency in that cove. -/
def mmaImm (s : State) (ce : Nat) : Option Nat :=
  match ridOfCell s ce with
  | none => none
  | some rid =>
    match activeOf s rid with
    | none => none
    | some ctx =>
      ((span (16 * cvOfCe ce) 16).filter fun c => ridOfCell s c == some rid).findSome? fun c =>
        ((span 0 16).find? fun k => nodeOp s c ctx k == 0x90).map fun k => (nodeWords s c ctx k).1.toNat % 2 ^ 40

/-- The operand format of the plane of a cell (R274). -/
def tfmtOf (s : State) (ce : Nat) : Nat := match mmaImm s ce with | some i => bitsOf i 28 2 | none => 0

/-- The depth in tiles of operand buffer `b` (R274). -/
def bufDepth (s : State) (ce b : Nat) : Nat := match mmaImm s ce with | some i => bitsOf i (2 * b) 2 + 1 | none => 1

/-- The tokens that an operand buffer holds. -/
def bufCount (m : MBuf) : Nat := m.tiles.foldl (fun n t => n + t.toks.length) 0

/-- Operand buffer `b` of a plane. -/
def Plane.buf (p : Plane) (b : Nat) : MBuf := Tab.get ⟨[], false⟩ p.bufs b

/-- A token enters a buffer (R276): delimiters and HDR are dropped, DRAIN is held, the rest fills the oldest tile not full. -/
def MBuf.push (m : MBuf) (len : Nat) (t : Tok) : MBuf :=
  if t.isDelim || t.k == 1 then m
  else if t.k = 5 then { m with drain := true }
  else
    let x : Tile := ⟨[t], t.k == 9⟩
    match m.tiles.getLast? with
    | some l =>
      if l.toks.length < len then
        { m with tiles := m.tiles.dropLast ++ [⟨l.toks ++ [t], l.psn || t.k == 9⟩] }
      else { m with tiles := m.tiles ++ [x] }
    | none => { m with tiles := [x] }

/-- Whether a buffer holds a tile that is not full. -/
def MBuf.partialTile (m : MBuf) (len : Nat) : Bool :=
  match m.tiles.getLast? with
  | some l => decide (l.toks.length < len)
  | none => false

/-! ### Emission (R36, R40, R49) -/

/-- The credits at an output identifier (R35, R36): of an endpoint its own, of a fixed unit the places left in its queue; none at a sink
or none. -/
def creditsAt (s : State) (ce id : Nat) : Option Nat :=
  let cv := cvOfCe ce
  if 0x20 ≤ id ∧ id ≤ 0x3F then some (match endpAt s (32 * ce + (id - 0x20)) with | some e => e.credits | none => 0)
  else if 0x50 ≤ id ∧ id ≤ 0x8F then some (4 - (s.cq cv (id - 0x50)).toks.length)
  else if id = 0x90 then some (4 - (s.plane cv (planeOf s ce)).ctl.length)
  else if 0x92 ≤ id ∧ id ≤ 0x9F then
    some (bufDepth s ce (id - 0x92) * tileLen (tfmtOf s ce) (id - 0x92) - bufCount ((s.plane cv (planeOf s ce)).buf (id - 0x92)))
  else if 0xA0 ≤ id ∧ id ≤ 0xA7 then some (16 - (Tab.get [] (s.cove cv).tq (id - 0xA0)).length)
  else none

/-- Whether an output identifier has space for one token. -/
def space (s : State) (ce id : Nat) : Bool :=
  match creditsAt s ce id with
  | some n => decide (0 < n)
  | none => true

/-- Emit a token on an output identifier (R36). `cnt` says whether Sent counts it here and an output with Dout > 0 has it lowered by
one (R49); an LD does both when it issues the load. -/
def emit (s : State) (ce id : Nat) (cnt : Bool) (t : Tok) : State :=
  let cv := cvOfCe ce
  let rid := (ridOfCell s ce).getD 0
  if 0x20 ≤ id ∧ id ≤ 0x3F then
    let k := 32 * ce + (id - 0x20)
    match endpAt s k with
    | some e =>
      let e1 := { e with
        credits := e.credits - 1
        sent := if cnt then e.sent + 1 else e.sent
        dout := if cnt then e.dout - 1 else e.dout }
      detCell (sendPkt (setEndp s k e1) k cv (.tok t)) ce .fs
    | none => s
  else if 0x50 ≤ id ∧ id ≤ 0x8F then
    let q := s.cq cv (id - 0x50)
    detPass (s.setCq cv (id - 0x50) { q with toks := q.toks ++ [t] }) rid ce (detUnit cv (64 + (id - 0x50)))
  else if 0x92 ≤ id ∧ id ≤ 0x9F then
    let p := s.plane cv (planeOf s ce)
    let b := id - 0x92
    let len := tileLen (tfmtOf s ce) b
    let s1 := detPass (s.setPlane cv (planeOf s ce) { p with bufs := Tab.insert p.bufs b ((p.buf b).push len t) }) rid ce (detMatrix cv)
    if t.k = 5 ∧ (p.buf b).partialTile len then resFault s1 rid 0x38 ce 0xFF else s1
  else if 0xA0 ≤ id ∧ id ≤ 0xA7 then
    let c := s.cove cv
    detPass (s.setCove cv { c with tq := Tab.insert c.tq (id - 0xA0) (Tab.get [] c.tq (id - 0xA0) ++ [t]) }) rid ce
      (detUnit cv (128 + (id - 0xA0)))
  else s

/-- A settle marker on an output whose firing is cancelled (R49). -/
def settleOut (s : State) (ce id : Nat) : State :=
  if 0x20 ≤ id ∧ id ≤ 0x3F then
    let k := 32 * ce + (id - 0x20)
    match endpAt s k with
    | some e => detCell (sendPkt (setEndp s k { e with dout := e.dout - 1, sent := e.sent + 1 }) k (cvOfCe ce) .settle) ce .fs
    | none => s
  else s

/-! ### Arrival at a cell's queue -/

/-- Admit one landed token into the window of a shared queue in clock `now` (R74), while it holds fewer than its depth; what has been taken in
the clock was still there, since arrivals come first (R38). -/
def takeIn (q : Queue) (now : Nat) : Queue × Option Nat :=
  if q.toks.length + (if q.lastTake = some now then 1 else 0) < q.depth then
    match nth none q.land 0, nth none q.land 1 with
    | some a, some b =>
      let arm := 1 - q.lastTie
      let t := if arm = 0 then a else b
      ({ q with toks := q.toks ++ [⟨t, 1, arm⟩], land := setNth q.land arm none, lastTie := arm, lastArr := some now }, some arm)
    | some a, none => ({ q with toks := q.toks ++ [⟨a, 1, 0⟩], land := setNth q.land 0 none, lastArr := some now }, some 0)
    | none, some b => ({ q with toks := q.toks ++ [⟨b, 1, 1⟩], land := setNth q.land 1 none, lastArr := some now }, some 1)
    | none, none => (q, none)
  else (q, none)

end Sys2Proof.Machine
end

