-- ==== Sys2Proof/Machine/Fabric.lean ====
section
/-!
DEFINITION. One firing of a node: its inputs and readiness (R40, R41), delimiters and DRAIN (R34, R53), POISON (R42), the effect of
a firing and its application, cancellation (R49), and the arrivals on channels (R36, R45, R48).
-/
namespace Sys2Proof.Machine

/-! ### A node at its place -/

/-- A node with the state, its key, its fields and its own state. -/
structure NCx where
  s   : State
  n   : Nat
  rid : Nat
  w   : NodeW
  d   : Node

/-- The cell of the node, and its cove. -/
def NCx.ce (c : NCx) : Nat := c.n / 16
def NCx.cv (c : NCx) : Nat := c.n / 256

/-- The clock of the node's die. -/
def NCx.now (c : NCx) : Nat := dieClock c.s (dieOf c.cv)

/-- A node just activated. -/
def Node.empty : Node where
  pend := []
  op := .none
  weight := 16
  credit := 0
  reps := []
  frozen := none
  drained := false
  eos := false
  firings := 0
  emitted := 0
  marks := []

/-- The state of node `n`. -/
def State.node (s : State) (n : Nat) : Node := Tab.get Node.empty (s.cell (n / 16)).nodes (n % 16)

/-- Replace the state of node `n`. -/
def State.setNode (s : State) (n : Nat) (d : Node) : State :=
  let c := s.cell (n / 16)
  s.setCell (n / 16) { c with nodes := Tab.insert c.nodes (n % 16) d }

/-- Input field `i`: 0 IN_A, 1 IN_B, 2 IN_C. -/
def inF (w : NodeW) (i : Nat) : BitVec 12 := if i = 0 then w.inA else if i = 1 then w.inB else w.inC

/-- Whether an input or output field is none (R121). -/
def isNone (f : BitVec 12) : Bool := chanId f == 0xFF

/-- The queue of input field `i`, and its head. -/
def NCx.q (c : NCx) (i : Nat) : Queue := qAt c.s c.ce (chanId (inF c.w i))
def NCx.hd (c : NCx) (i : Nat) : Option Tok := (c.q i).head.map (·.tok)

/-- Whether input field `i` is a channel. -/
def NCx.has (c : NCx) (i : Nat) : Bool := !isNone (inF c.w i)

/-- Space on an output field. -/
def NCx.room (c : NCx) (f : BitVec 12) : Bool := space c.s c.ce (chanId f)

/-- Space on both outputs (R40). -/
def NCx.rooms (c : NCx) : Bool := c.room c.w.out0 && c.room c.w.out1

/-! ### The effect of a firing -/

/-- What a firing does: inputs taken, with whether every use is removed; inputs that Anti is applied to; the tokens emitted; the
node's state after it; flags raised by byte lane; a residency fault in place of everything; whether Sent counts the emissions (all
nodes but LD); and what else happens. -/
structure Fire where
  takes : List (Nat × Bool)
  antis : List Nat
  out0  : Option Tok
  out1  : Option Tok
  d     : Node
  flags : List (Nat × Nat)
  err   : Option Nat
  cnt   : Bool
  post  : State → State

/-- A firing that takes inputs and emits two tokens. -/
def Fire.of (c : NCx) (takes : List Nat) (out0 out1 : Option Tok) : Fire where
  takes := takes.map fun i => (i, false)
  antis := []
  out0 := out0
  out1 := out1
  d := c.d
  flags := []
  err := none
  cnt := true
  post := id

/-- The residency fault that a head or a mismatch calls for (R60). -/
def Fire.fault (c : NCx) (cause : Nat) : Fire := { Fire.of c [] none none with err := some cause }

/-- A firing that emits one token on both outputs. -/
def Fire.both (c : NCx) (takes : List Nat) (t : Tok) : Fire := Fire.of c takes (some t) (some t)

/-- Raise flags in a cell's flag sets, unless the node has Q (R96, R97). -/
def raiseFlags (s : State) (ce : Nat) : List (Nat × Nat) → State
  | [] => s
  | (lane, f) :: t =>
    let c := s.cell ce
    raiseFlags (s.setCell ce { c with
      flags := Tab.put 0 c.flags lane (Tab.get 0 c.flags lane ||| BitVec.ofNat 5 f)
      raised := Tab.insert c.raised lane (noteRaised (Tab.get (0, 0) c.raised lane) (cycleOf s (cvOfCe ce)) (BitVec.ofNat 5 f)) }) ce t

/-- Emit an optional token on an output field. -/
def emitOpt (s : State) (ce : Nat) (cnt : Bool) (f : BitVec 12) (t : Option Tok) : State :=
  match t with
  | some x => emit s ce (chanId f) cnt x
  | none => s

/-- The marks of a firing or a cancellation: the cell has used its clock (R40), which counts at the permit meter (R331) and in the detector (R55,
R57). -/
def noteTurn (s : State) (n rid : Nat) : State :=
  let ce := n / 16
  let c := s.cell ce
  let s1 := s.setCell ce { c with lastFire := some (dieClock s (dieOf (n / 256))) }
  let op := match activeOf s rid with | some ctx => nodeOp s ce ctx (n % 16) | none => 0
  let srt := if op = 0x92 ∨ op = 0x93 then 1 else 0
  let s2 := modRes s1 rid fun r => { r with act := { r.act with fires := r.act.fires + 1, sort := r.act.sort + srt } }
  touch (detAct s2 rid ce) rid

/-- The marks of a firing, at which the detector re-arms too (R57). -/
def noteFire (s : State) (n rid : Nat) : State := modRes (noteTurn s n rid) rid fun r => { r with reported := false }

/-- Entry `e` of a two-entry node, with the control input of entry 0 (R71). -/
def entryOf (c : NCx) (e : Nat) : NodeW :=
  match activeOf c.s c.rid with
  | some ctx =>
    let ws := nodeWords c.s c.ce ctx (c.n % 16)
    if e = 0 then nodeFields ws.1 else { nodeFields ws.2 with inC := (nodeFields ws.1).inC, t := true }
  | none => c.w

/-- UNIT of a residency fault of a node (R341): its slot and entry; of a write port that takes a token beyond its last element (R185),
the port. -/
def faultUnit (c : NCx) (cause : Nat) : Nat :=
  if cause = 0x37 then bitsOf c.w.imm.toNat 0 8
  else c.n % 16 + (if c.w.t ∧ c.w ≠ entryOf c 0 then 16 else 0)

/-- Apply a firing: takes, Anti (R38: after the arrivals, before Take at the same queue), emissions, state, flags. -/
def applyFire (c : NCx) (f : Fire) : State :=
  match f.err with
  | some cause => resFault c.s c.rid cause c.ce (faultUnit c cause)
  | none =>
    let id := fun i => chanId (inF c.w i)
    let s1 := f.antis.foldl (fun t i => doAnti t c.ce (id i)) c.s
    let s2 := f.takes.foldl (fun t e => doTake t c.ce (id e.1) e.2) s1
    let s3 := emitOpt (emitOpt s2 c.ce f.cnt c.w.out0 f.out0) c.ce f.cnt c.w.out1 f.out1
    let s4 := s3.setNode c.n { f.d with firings := f.d.firings + 1 }
    let s5 := if c.w.q then s4 else raiseFlags s4 c.ce f.flags
    f.post (noteFire s5 c.n c.rid)

/-- The node that the step's focus names, with the fields of the instruction. -/
def ncx (s : State) (n : Nat) (w : NodeW) : NCx := ⟨s, n, (ridOfCell s (n / 16)).getD 0, w, s.node n⟩

/-- A node's own step: nothing when it is not ready. -/
def fireNode (plan : NCx → Option Fire) (w : NodeW) (s : State) : Host.Outcome State Fault Refusal :=
  match s.focus with
  | .node n =>
    let c := ncx s n w
    match plan c with
    | some f => .next (applyFire c f)
    | none => .next s
  | _ => .next s

/-- Whether the agents of a residency go on: it is placed, and neither faulted fatally nor about to be parked (R354, R358). -/
def goesOn (s : State) (rid : Nat) : Bool :=
  match Tab.find? s.res rid with
  | some r => decide (r.st = .placed) && !r.parking
  | none => false

/-- Whether the units of a residency issue in this clock what R332 gates: it goes on, and its gate lets them. -/
def running (s : State) (rid : Nat) : Bool := goesOn s rid && gateLets s rid

/-- Whether a pointer names bytes of a bank, which take no deep or peer request (R12, R332). -/
def shorePtr (a : Word) : Bool := bitsOf a.toNat 62 2 == 1

/-! ### Heads: kinds, delimiters, DRAIN -/

/-- The input fields among `l` that are channels. -/
def NCx.needed (c : NCx) (l : List Nat) : List Nat := l.filter c.has

/-- Whether the head of input `i` is a token held at a sticky count of 15 (R34, R41). -/
def NCx.held (c : NCx) (i : Nat) : Bool :=
  (c.q i).sticky == 15 && (match c.hd i with | some t => t.holds | none => false)

/-- The token behind the head of input `i`. -/
def NCx.behind (c : NCx) (i : Nat) : Option Tok := ((c.q i).toks[1]?).map (·.tok)

/-- What the heads of the needed inputs call for. -/
inductive Heads where
  /-- Some needed input holds no token, or waits for the token behind a held one. -/
  | wait
  /-- Every head is an operand. -/
  | data
  /-- A delimiter, HDR or DRAIN of kind `k` is taken from these inputs. -/
  | delim (k : Nat) (takes : List (Nat × Bool)) (t : Tok)
  | mismatch
  deriving DecidableEq, Repr

/-- What input `j` gives to a firing that takes a delimiter, HDR or DRAIN of kind `k`: nothing yet (none), a mismatch (some none),
or its takes. An input at sticky count 15 that holds a token is exempt for EOT (the token leaves), EOF and HDR (it stays), and shows
the token behind it for EOS and DRAIN. -/
def joinIn (c : NCx) (k j : Nat) : Option (Option (List (Nat × Bool))) :=
  if c.held j then
    if k = 2 then some (some [(j, true)])
    else if k = 3 ∨ k = 1 then some (some [])
    else match c.behind j with
      | some u => if u.k = k then some (some [(j, true), (j, true)]) else none
      | none => none
  else match c.hd j with
    | some u => if u.k = k then some (some [(j, true)]) else if k = 5 then none else some none
    | none => none

/-- All inputs `l` together: wait, mismatch, or the firing on a token of kind `k`. -/
def joinAll (c : NCx) (l : List Nat) (t : Tok) : Heads :=
  let r := l.map (joinIn c t.k)
  if r.any (· == some none) then .mismatch
  else if r.any (· == none) then .wait
  else .delim t.k (r.flatMap fun e => (e.getD none).getD []) t

/-- The first input of `l` that does not hold a token at sticky count 15 and whose head passes `f`, with that head. -/
def headWith (c : NCx) (l : List Nat) (f : Tok → Bool) : Option Tok :=
  l.findSome? fun i => if c.held i then none else (c.hd i).filter f

/-- R34 and R53 over the inputs `l`: `hdr` says whether the operation forwards HDR in the way of a delimiter. -/
def heads (c : NCx) (hdr : Bool) (l : List Nat) : Heads :=
  if l.any fun i => (c.hd i).isNone then .wait
  else match headWith c l fun t => t.isDelim || (hdr && t.k == 1) with
    | some t => joinAll c l t
    | none =>
      match headWith c l fun t => t.k == 5 with
      | some t => joinAll c l t
      | none =>
        if !l.isEmpty && l.all c.held then
          match l.head?.bind c.behind with
          | some t => if t.k = 4 ∨ t.k = 5 then (match joinAll c l t with | .wait => .data | h => h) else .data
          | none => .data
        else .data

/-- Whether some head among `l` is of a reserved kind (R60, cause 0x30). -/
def badKind (c : NCx) (l : List Nat) : Bool :=
  l.any fun i => match c.hd i with | some t => decide (10 ≤ t.k) | none => false

/-- Whether input `i` shows a kind of `ks`. -/
def NCx.shows (c : NCx) (i : Nat) (ks : List Nat) : Bool :=
  match c.hd i with
  | some t => ks.contains t.k
  | none => false

/-- Whether every memory operation that the node has issued is performed and answered (R53). -/
def memIdle (c : NCx) : Bool :=
  c.d.reps.isEmpty && !(c.s.accs.any fun a => decide (a.ag = .node c.n))

/-- Whether an output's Dout is zero. -/
def doutZero (c : NCx) (f : BitVec 12) : Bool :=
  let i := chanId f
  if 0x20 ≤ i ∧ i ≤ 0x3F then (match endpAt c.s (32 * c.ce + (i - 0x20)) with | some e => e.dout == 0 | none => true) else true

/-- DRAIN at the heads of every input (R53): forwarded when nothing is owed and every memory operation is done. `busy` is the cause
for state that DRAIN must not meet (0x38), or none. -/
def drainFire (c : NCx) (l : List Nat) (takes : List (Nat × Bool)) (busy : Bool) : Option Fire :=
  if busy then some (Fire.fault c 0x38)
  else if (l.any fun i => (c.q i).debt != 0) || !doutZero c c.w.out0 || !doutZero c c.w.out1 then some (Fire.fault c 0x33)
  else if memIdle c && c.d.pend.isEmpty then
    some { Fire.both c [] drainTok with takes := takes, d := { c.d with drained := true } }
  else none

/-- A delimiter taken from every input and emitted on each output that is not none (R34). -/
def delimFire (c : NCx) (takes : List (Nat × Bool)) (t : Tok) : Fire :=
  { Fire.both c [] t with takes := takes, d := { c.d with eos := c.d.eos || t.k == 4 } }

/-- Whether POISON is among the heads of `l`. -/
def anyPoison (c : NCx) (l : List Nat) : Bool := l.any fun i => c.shows i [9]

/-- The oldest pending token goes first (R218): a firing of its own that takes no input. -/
def pendFire (c : NCx) : Option (Option Fire) :=
  match c.d.pend with
  | [] => none
  | (a, b) :: t =>
    if c.rooms then some (some { Fire.of c [] a b with d := { c.d with pend := t } }) else some none

/-- The entry of a two-entry node that the firing does not use. -/
def otherEntry (c : NCx) : NCx := { c with w := if c.w = entryOf c 0 then entryOf c 1 else entryOf c 0 }

/-- The inputs of the other entry that the entry in use does not name, and its outputs that the entry in use does not name. -/
def otherIns (c o : NCx) : List Nat :=
  [0, 1].filter fun i => o.has i && !(chanId (inF o.w i) == chanId c.w.inA || chanId (inF o.w i) == chanId c.w.inB
    || chanId (inF o.w i) == chanId c.w.inC)
def otherOuts (c o : NCx) : List Nat :=
  ([chanId o.w.out0, chanId o.w.out1].eraseDups).filter fun i => i != 0xFF && i != chanId c.w.out0 && i != chanId c.w.out1

/-- Takes and emissions of the other entry, after `p`. -/
def restOf (o : NCx) (takes : List (Nat × Bool)) (ids : List Nat) (t : Tok) (p : State → State) (s : State) : State :=
  ids.foldl (fun u i => emit u o.ce i true t) (takes.foldl (fun u e => doTake u o.ce (chanId (inF o.w e.1)) e.2) (p s))

/-- A delimiter, HDR or DRAIN that heads the control input of a two-entry node is matched against the inputs of both entries, and
emitted on the outputs of both (R71). -/
def bothEntries (c : NCx) (t : Tok) (f : Option Fire) : Option Fire :=
  let o := otherEntry c
  let ids := otherOuts c o
  match joinAll o (otherIns c o) t, f with
  | .wait, _ => none
  | .mismatch, _ => some (Fire.fault c 0x31)
  | .data, _ => none
  | .delim _ takes _, some g =>
    if t.k = 5 ∧ ((otherIns c o).any (fun i => (o.q i).debt != 0) || !doutZero o o.w.out0 || !doutZero o o.w.out1) then
      some (Fire.fault c 0x33)
    else if ids.all fun i => space c.s c.ce i then
      some { g with post := restOf o takes ids t g.post }
    else none
  | .delim _ _ _, none => none

/-- The conduct that operations share which forward what they pass: as `plainPlan`, with the conduct for POISON left to `f`. -/
def flowPlan (c : NCx) (l : List Nat) (bad : Nat → List Nat) (f : NCx → Option Fire) : Option Fire :=
  if badKind c l then some (Fire.fault c 0x30)
  else if l.any fun i => c.shows i (bad i) then some (Fire.fault c 0x32)
  else match heads c true l with
  | .wait => none
  | .mismatch => some (Fire.fault c 0x31)
  | .delim k takes t => if !c.rooms then none else if k = 5 then drainFire c l takes false else some (delimFire c takes t)
  | .data => if c.rooms then f c else none

/-- The conduct that plain operations share: reserved kinds, kinds of no use (cause 0x32), readiness, delimiters, DRAIN, and the
firing on operands `f`. -/
def plainPlan (c : NCx) (l : List Nat) (bad : Nat → List Nat) (f : NCx → Option Fire) : Option Fire :=
  if badKind c l then some (Fire.fault c 0x30)
  else if l.any fun i => c.shows i (bad i) then some (Fire.fault c 0x32)
  else match heads c true l with
  | .wait => none
  | .mismatch => some (Fire.fault c 0x31)
  | .delim k takes t =>
    if !c.rooms then none
    else
      let g := if k = 5 then drainFire c l takes false else some (delimFire c takes t)
      if c.w.t && !(c.held 2 && (k == 1 || k == 2 || k == 3)) then bothEntries c t g else g
  | .data => if c.rooms then (if anyPoison c l then some (Fire.both c l poisonTok) else f c) else none

/-! ### Lanes (R215) -/

/-- Lane `k` of a payload with lanes of `w` bits. -/
def lane (w : Nat) (p : BitVec 128) (k : Nat) : Nat := bitsOf p.toNat (w * k) w

/-- Whether lane `k` is valid: of lanes of 4 bits two share a side-band bit. -/
def laneOk (w : Nat) (t : Tok) (k : Nat) : Bool := bitOf t.sb.toNat (if w = 4 then k / 2 else k)

/-- A payload from its lanes. -/
def joinLanes (w : Nat) (l : List Nat) : BitVec 128 :=
  BitVec.ofNat 128 ((l.zipIdx).foldl (fun n e => n + e.1 % 2 ^ w * 2 ^ (w * e.2)) 0)

/-- A side-band from the validity of each lane. -/
def maskOf (w : Nat) (l : List Bool) : BitVec 16 :=
  BitVec.ofNat 16 ((l.zipIdx).foldl (fun n e => if e.1 then n ||| 2 ^ (if w = 4 then e.2 / 2 else e.2) else n) 0)

/-- The lane-valid mask of `n` lanes of `w` bits, all valid. -/
def fullMask (w n : Nat) : BitVec 16 := maskOf w (List.replicate n true)

/-- A DATA token from lanes and their validity; a lane that is not valid holds 0. -/
def dataTok (w : Nat) (l : List (Nat × Bool)) : Tok :=
  mkTok 0 (joinLanes w (l.map fun e => if e.2 then e.1 else 0)) (maskOf w (l.map (·.2)))

/-- The byte lane of result lane `k` of lanes of `w` bits (R96). -/
def byteLane (w k : Nat) : Nat := k * w / 8

/-! ### Cancellation (R49) -/

/-- Whether an operation code is a pure node (R48, R218, R267) with these fields: flag X makes it none. -/
def pureOp (op : Nat) (w : NodeW) : Bool :=
  !w.x && (decide (0x01 ≤ op ∧ op ≤ 0x15) || decide (0x30 ≤ op ∧ op ≤ 0x3B) || op == 0x60 || op == 0x64
    || op == 0x53 || op == 0x54 || op == 0x58
    || (op == 0x50 && !bitOf w.imm.toNat 7 && decide (fmtLanes w.mode.toNat ≤ fmtLanes (bitsOf w.imm.toNat 0 4)))
    || (op == 0x56 && !bitOf w.imm.toNat 36))

/-- The outputs that a cancellation settles: those that are not none or sink. -/
def cancelOuts (w : NodeW) : List Nat := [chanId w.out0, chanId w.out1].filter fun i => decide (i ≠ 0xFF ∧ i ≠ 0xFE)

/-- Dout of an output identifier. -/
def doutOf (c : NCx) (i : Nat) : Nat :=
  if 0x20 ≤ i ∧ i ≤ 0x3F then (match endpAt c.s (32 * c.ce + (i - 0x20)) with | some e => e.dout | none => 0) else 0

/-- The loop condition of R49, with that of R47, over the needed inputs `l`. A two-entry node needs its control token present to know them (log
entry 22). -/
def canCancel (c : NCx) (l : List Nat) : Bool :=
  let outs := cancelOuts c.w
  !outs.isEmpty && outs.all (fun i => decide (0 < doutOf c i))
    && l.all fun i =>
      let q := c.q i
      !(c.shows i [2, 3, 4, 5]) && q.canAnti

/-- One pass of the loop of R49: settle markers on every output, Anti on every needed input; it uses the cell's firing. -/
def cancelPass (c : NCx) (l : List Nat) : State :=
  let s1 := (cancelOuts c.w).foldl (fun t i => settleOut t c.ce i) c.s
  let s2 := l.foldl (fun t i => doAnti t c.ce (chanId (inF c.w i))) s1
  noteTurn s2 c.n c.rid

/-! ### Channel events -/

/-- The first packet of a channel that is a token or a settle marker, unless an escape lane carries it, and the others. -/
def popFwd (ch : Nat) : List Packet → Option (Cargo × List Packet)
  | [] => none
  | p :: t =>
    let found := fun c : Cargo => if p.lane.isSome then none else some (c, t)
    match p.cargo with
    | .tok x => if p.ch = ch then found (.tok x) else (popFwd ch t).map fun r => (r.1, p :: r.2)
    | .settle => if p.ch = ch then found .settle else (popFwd ch t).map fun r => (r.1, p :: r.2)
    | _ => (popFwd ch t).map fun r => (r.1, p :: r.2)

/-- Take the first credit packet of a channel that no escape lane carries. -/
def popCredit (ch : Nat) : List Packet → Option (List Packet)
  | [] => none
  | p :: t => if p.ch = ch ∧ p.cargo = .credit ∧ p.lane = none then some t else (popCredit ch t).map fun r => p :: r

/-- Take the first anti-token of a channel, unless an escape lane carries it. -/
def popAnti (ch : Nat) : List Packet → Option (BitVec 16 × List Packet)
  | [] => none
  | p :: t =>
    match p.cargo with
    | .anti x => if p.ch = ch then (if p.lane.isSome then none else some (x, t)) else (popAnti ch t).map fun r => (r.1, p :: r.2)
    | _ => (popAnti ch t).map fun r => (r.1, p :: r.2)

/-- Admit into a window in clock `now`, returning the arm's credit (R74). -/
def admitQ (now ce id : Nat) (s : State) : State :=
  let r := takeIn (qAt s ce id) now
  match r.2 with
  | some arm => returnCredit (setQ s ce id r.1) ce id arm
  | none => s

/-- The shared windows with a landed token, of the cells of die `d`: cell and queue. -/
def landed (s : State) (d : Nat) : List (Nat × Nat) :=
  s.cells.flatMap fun e =>
    if dieOf (cvOfCe e.1) = d then (e.2.queues.filter fun q => q.2.win && q.2.land.any Option.isSome).map fun q => (e.1, q.1) else []

/-- The admissions of `n` clocks of die `d` from the one that stands (R74): in each, what has landed by its end. -/
def admitDie (d : Nat) : Nat → Nat → State → State
  | 0, _, s => s
  | n + 1, now, s =>
    match landed s d with
    | [] => s
    | l => admitDie d n (now + 1) (l.foldl (fun t e => admitQ now e.1 e.2 t) s)

/-- A token or settle marker reaches queue `id` of cell `ce` on an arm in clock `now` (R45, R53, R74). A token for a shared window lands; it is
admitted as the clock ends (`admitDie`). -/
def arriveIn (s : State) (rid ce id arm : Nat) (x : Option Tok) (now : Nat) : State :=
  let q := qAt s ce id
  if q.win then
    match x with
    | some t =>
      if q.toks.any fun e => e.arm == arm && e.tok.k == 5 then resFault s rid 0x34 ce 0xFF
      else setQ s ce id { q with land := setNth q.land arm (some t) }
    | none => s
  else if q.closed && x.isSome then resFault s rid 0x34 ce 0xFF
  else
    let r := q.arrive x arm now
    let s1 := setQ s ce id r.1
    if r.2 then returnCredit s1 ce id arm else s1

/-- It reaches the queue in the clock that stands. -/
def arriveAt (s : State) (rid ce id arm : Nat) (x : Option Tok) : State := arriveIn s rid ce id arm x (dieClock s (dieOf (cvOfCe ce)))

/-- The tokens on their way to FIFO `f` of cove `cv` that arrive in the `n` clocks of its die after clock `now`: one in each (R38). -/
def pushIn (cv f : Nat) : Nat → Nat → State → State
  | 0, _, s => s
  | n + 1, now, s =>
    match Tab.get [] (s.cove cv).fqIn f with
    | [] => s
    | (rid, t) :: r =>
      let c := s.cove cv
      let s1 := arriveIn (s.setCove cv { c with fqIn := Tab.put [] c.fqIn f r }) rid (16 * cv) (0xA8 + f) 0 (some t) (now + 1)
      pushIn cv f n (now + 1) (modRes s1 rid fun d => { d with actAt := now + 1 })

/-- The same for every FIFO of a cove. -/
def pushesIn (n now cv : Nat) (s : State) : State :=
  if (s.cove cv).fqIn.isEmpty then s else (span 0 8).foldl (fun t f => pushIn cv f n now t) s

/-- Whether the queue can receive now: one arrival per clock, and none after Anti or a take of the same clock (R38); a landing slot must be
free (R74). -/
def canArrive (s : State) (ce id arm : Nat) : Bool :=
  let q := qAt s ce id
  let now := dieClock s (dieOf (cvOfCe ce))
  if q.win then (nth none q.land arm).isNone && q.lastTake != some now
  else q.lastArr != some now && q.lastTake != some now

/-- The residency that holds an endpoint's cell, when it is running. -/
def ridOfCh (s : State) (ch : Nat) : Option Nat := ridOfCell s (ch / 32)

/-- TOKEN_ARRIVE (R36, R45): the oldest token or settle marker of channel `ch` reaches its queue, once it is on no escape lane. -/
def execTokenArrive (ch : Nat) (s : State) : Host.Outcome State Fault Refusal :=
  match endpAt s ch, ridOfCh s ch with
  | some e, some rid =>
    let ce := e.dst / 32
    let id := e.dst % 32
    match popFwd ch s.wire with
    | some (x, w) =>
      if canArrive s ce id e.arm then
        let t := match x with | .tok t => some t | _ => none
        .next (touch (detCell (arriveAt { s with wire := w } rid ce id e.arm t) ce .fr) rid)
      else .next s
    | none => .next s
  | _, _ => .next s

/-- CREDIT_RETURN (R36): a credit reaches the producer endpoint. -/
def execCreditReturn (ch : Nat) (s : State) : Host.Outcome State Fault Refusal :=
  match endpAt s ch, ridOfCh s ch, popCredit ch s.wire with
  | some e, some rid, some w =>
    .next (touch (detCell (setEndp { s with wire := w } ch { e with credits := e.credits + 1 }) (ch / 32) .rr) rid)
  | _, _, _ => .next s

end Sys2Proof.Machine
end

