-- ==== Sys2Proof/Machine/NodeInt.lean ====
section
/-!
DEFINITION. The integer and logic group of the fabric nodes (R215 to R223), with the modifiers of R98 and R99.
-/
namespace Sys2Proof.Machine

/-! ### Operands -/

/-- Whether the firing takes an immediate operand (R220). -/
def useImm (c : NCx) : Bool := !c.w.n && bitOf c.w.imm.toNat 39

/-- The lane that a 32-bit field gives every lane of format `f` (R220). -/
def immLane (f v : Nat) : Nat :=
  if f < 4 then wrapT f (sext 32 v) else if f < 8 then wrapT f (v : Int) else if f = 8 then v else v % 65536

/-- Lane `k` of operand `i` in format `f` and whether it is valid: `im` is the operand marked "imm". Under flag T IN_C is the
control input and gives no lane (log entry 28). An operand field that is none gives no valid lane, the model's choice: the others decide, and a SEL
without its control does not fire (log entry 137). -/
def srcLane (c : NCx) (f : Nat) (im : Option Nat) (k i : Nat) : Nat × Bool :=
  if useImm c && im == some i then (immLane f (bitsOf c.w.imm.toNat 0 32), true)
  else if c.w.t && i == 2 then (0, false)
  else match c.hd i with
    | some t => (lane (fmtWidth f) t.pay k, laneOk (fmtWidth f) t k)
    | none => (0, false)

/-- The needed inputs of an operation that reads the fields `l`. -/
def laneNeeds (c : NCx) (l : List Nat) (im : Option Nat) : List Nat :=
  (l.filter fun i => !(useImm c && im == some i) && c.has i && !(c.w.t && i == 2)) ++ (if c.w.t then [2] else [])

/-- The kinds that an input of these groups does not take (R71, R217). -/
def laneBad (c : NCx) (i : Nat) : List Nat := if c.w.t && i == 2 then [0, 7, 8] else [6, 7, 8]

/-- A firing that emits DATA lanes of width `w`: bits, flags and validity of each (R215, R216). -/
def dataFire (c : NCx) (takes : List Nat) (w : Nat) (l : List (Nat × Nat × Bool)) : Fire :=
  { Fire.both c takes (dataTok w (l.map fun e => (e.1, e.2.2))) with
    flags := (l.zipIdx.filter fun e => e.1.2.2 && e.1.2.1 != 0).map fun e => (byteLane w e.2, e.1.2.1) }

/-- One result lane from the operands `l`: valid when all of them are. -/
def laneRes (c : NCx) (f : Nat) (l : List Nat) (im : Option Nat) (g : List Nat → Nat × Nat) (k : Nat) : Nat × Nat × Bool :=
  let xs := l.map (srcLane c f im k)
  if xs.all (·.2) then let r := g (xs.map (·.1)); (r.1, r.2, true) else (0, 0, false)

/-- A lane-wise operation in format `f` that reads the fields `l`. -/
def lanesPlan (f : Nat) (l : List Nat) (im : Option Nat) (g : List Nat → Nat × Nat) (c : NCx) : Option Fire :=
  let ns := laneNeeds c l im
  plainPlan c ns (laneBad c) fun c =>
    some (dataFire c ns (fmtWidth f) ((span 0 (fmtLanes f)).map (laneRes c f l im g)))

/-! ### Modifiers on integer lanes (R98, R99) -/

/-- Magnitude, then negation, of source `i`; both wrap. -/
def modInt (w : NodeW) (f i : Nat) (x : Int) : Int :=
  let m := w.imm.toNat
  let y := if w.n && bitOf m (33 + 2 * i) then laneInt f (wrapT f (x.natAbs : Int)) else x
  if w.n && bitOf m (32 + 2 * i) then laneInt f (wrapT f (-y)) else y

/-- SCALE: the power of two that multiplies the exact result. -/
def scaleOf (w : NodeW) : Int := if w.n then sext 4 (bitsOf w.imm.toNat 28 4) else 0

/-- x · 2^k, a negative k an arithmetic shift. -/
def scaleInt (k x : Int) : Int := if 0 ≤ k then x * (2 ^ k.toNat : Nat) else x / (2 ^ (-k).toNat : Nat)

/-- CLAMP on an integer. -/
def clampMod (w : NodeW) (x : Int) : Int :=
  let b : Int := bitsOf w.imm.toNat 0 16
  if !w.n then x
  else match bitsOf w.imm.toNat 38 2 with
    | 1 => clampI x (-b) b
    | 2 => clampI x 0 b
    | _ => x

/-- One integer lane: sources modified, the exact result scaled, wrapped or saturated, clamped. A result that a positive SCALE takes out of the format
wraps also for the operations of which R221 gives neither, the model's choice (log entry 132). -/
def intLane (w : NodeW) (f : Nat) (sat : Bool) (op : Nat → Int → Int → Int → Int) (xs : List Nat) : Nat × Nat :=
  let v := fun i => modInt w f i (laneInt f (nth 0 xs i))
  let y := scaleInt (scaleOf w) (op f (v 0) (v 1) (v 2))
  (wrapT f (clampMod w (laneInt f (if sat then satT f y else wrapT f y))), 0)

/-- The plan of an integer operation. -/
def intPlan (l : List Nat) (im : Option Nat) (sat : Bool) (op : Nat → Int → Int → Int → Int) (c : NCx) : Option Fire :=
  lanesPlan c.w.mode.toNat l im (intLane c.w c.w.mode.toNat sat op) c

/-- The shift count: the low bits of the lane of b. -/
def shOf (f : Nat) (b : Int) : Nat := wrapT f b % fmtWidth f

/-! ### The operations (R221) -/

/-- ADD (R221): Wrap(T, a + b). -/
def planNodeAdd : NCx → Option Fire := intPlan [0, 1] (some 1) false (fun _ a b _ => a + b)
def execNodeAdd (n : NodeW) (s : State) := fireNode planNodeAdd n s
/-- SUB (R221): Wrap(T, a - b). -/
def planNodeSub : NCx → Option Fire := intPlan [0, 1] (some 1) false (fun _ a b _ => a - b)
def execNodeSub (n : NodeW) (s : State) := fireNode planNodeSub n s
/-- MUL (R221): Wrap(T, a · b). -/
def planNodeMul : NCx → Option Fire := intPlan [0, 1] (some 1) false (fun _ a b _ => a * b)
def execNodeMul (n : NodeW) (s : State) := fireNode planNodeMul n s
/-- MULH (R221): the high half of the exact product. -/
def planNodeMulh : NCx → Option Fire := intPlan [0, 1] (some 1) false (fun f a b _ => a * b / (2 ^ fmtWidth f : Nat))
def execNodeMulh (n : NodeW) (s : State) := fireNode planNodeMulh n s
/-- MAD (R221): Wrap(T, a · b + c). -/
def planNodeMad : NCx → Option Fire := intPlan [0, 1, 2] (some 2) false (fun _ a b c => a * b + c)
def execNodeMad (n : NodeW) (s : State) := fireNode planNodeMad n s
/-- ABS (R221): Wrap(T, |a|). -/
def planNodeAbs : NCx → Option Fire := intPlan [0] (none) false (fun _ a _ _ => (a.natAbs : Int))
def execNodeAbs (n : NodeW) (s : State) := fireNode planNodeAbs n s
/-- NEG (R221): Wrap(T, -a). -/
def planNodeNeg : NCx → Option Fire := intPlan [0] (none) false (fun _ a _ _ => -a)
def execNodeNeg (n : NodeW) (s : State) := fireNode planNodeNeg n s
/-- MIN (R221): the smaller of a and b. -/
def planNodeMin : NCx → Option Fire := intPlan [0, 1] (some 1) false (fun _ a b _ => if b < a then b else a)
def execNodeMin (n : NodeW) (s : State) := fireNode planNodeMin n s
/-- MAX (R221): the larger of a and b. -/
def planNodeMax : NCx → Option Fire := intPlan [0, 1] (some 1) false (fun _ a b _ => if a < b then b else a)
def execNodeMax (n : NodeW) (s : State) := fireNode planNodeMax n s
/-- AND (R221): a & b. -/
def planNodeAnd : NCx → Option Fire := intPlan [0, 1] (some 1) false (fun f a b _ => laneInt f (wrapT f a &&& wrapT f b))
def execNodeAnd (n : NodeW) (s : State) := fireNode planNodeAnd n s
/-- OR (R221): a | b. -/
def planNodeOr : NCx → Option Fire := intPlan [0, 1] (some 1) false (fun f a b _ => laneInt f (wrapT f a ||| wrapT f b))
def execNodeOr (n : NodeW) (s : State) := fireNode planNodeOr n s
/-- XOR (R221): a ^ b. -/
def planNodeXor : NCx → Option Fire := intPlan [0, 1] (some 1) false (fun f a b _ => laneInt f (wrapT f a ^^^ wrapT f b))
def execNodeXor (n : NodeW) (s : State) := fireNode planNodeXor n s
/-- NOT (R221): ~a of a w-bit lane, read as T reads it before a scale. -/
def planNodeNot : NCx → Option Fire := intPlan [0] (none) false (fun f a _ _ => laneInt f (wrapT f (-a - 1)))
def execNodeNot (n : NodeW) (s : State) := fireNode planNodeNot n s
/-- SHL (R221): Wrap(T, a · 2^sh). -/
def planNodeShl : NCx → Option Fire := intPlan [0, 1] (some 1) false (fun f a b _ => a * (2 ^ shOf f b : Nat))
def execNodeShl (n : NodeW) (s : State) := fireNode planNodeShl n s
/-- SHR (R221): a read unsigned, shifted right by sh. -/
def planNodeShr : NCx → Option Fire := intPlan [0, 1] (some 1) false (fun f a b _ => (wrapT f a / 2 ^ shOf f b : Nat))
def execNodeShr (n : NodeW) (s : State) := fireNode planNodeShr n s
/-- SAR (R221): a read signed, shifted right arithmetically by sh. -/
def planNodeSar : NCx → Option Fire := intPlan [0, 1] (some 1) false (fun f a b _ => sext (fmtWidth f) (wrapT f a) / (2 ^ shOf f b : Nat))
def execNodeSar (n : NodeW) (s : State) := fireNode planNodeSar n s
/-- CLAMP (R221): the larger of a and b, then the smaller of that and c. -/
def planNodeClamp : NCx → Option Fire := intPlan [0, 1, 2] (some 2) false (fun _ a b c => let m := if a < b then b else a; if c < m then c else m)
def execNodeClamp (n : NodeW) (s : State) := fireNode planNodeClamp n s
/-- ADDS (R221): Sat(T, a + b). -/
def planNodeAdds : NCx → Option Fire := intPlan [0, 1] (some 1) true (fun _ a b _ => a + b)
def execNodeAdds (n : NodeW) (s : State) := fireNode planNodeAdds n s
/-- SUBS (R221): Sat(T, a - b). -/
def planNodeSubs : NCx → Option Fire := intPlan [0, 1] (some 1) true (fun _ a b _ => a - b)
def execNodeSubs (n : NodeW) (s : State) := fireNode planNodeSubs n s

/-! ### Comparison and selection (R222, R223) -/

/-- An integer condition of R222: 0 eq, 1 ne, 2 lt, 3 le, 4 gt, 5 ge. -/
def intCond (cond : Nat) (a b : Int) : Bool :=
  match cond with
  | 0 => decide (a = b)
  | 1 => decide (a ≠ b)
  | 2 => decide (a < b)
  | 3 => decide (a ≤ b)
  | 4 => decide (b < a)
  | _ => decide (b ≤ a)

/-- COND and CT of R220. -/
def condOf (w : NodeW) : Nat := bitsOf w.imm.toNat 36 3
def ctOf (w : NodeW) : Bool := bitOf w.imm.toNat 35

/-- A comparison in format `f`: a lane mask, or one CTRL token (R222). -/
def cmpPlan (f : Nat) (g : List Nat → Bool × Nat) (c : NCx) : Option Fire :=
  let ns := laneNeeds c [0, 1] (some 1)
  plainPlan c ns (laneBad c) fun c =>
    let rs := (span 0 (fmtLanes f)).map (laneRes c f [0, 1] (some 1) fun xs =>
      let r := g xs; (if r.1 then 2 ^ fmtWidth f - 1 else 0, r.2))
    let d := dataFire c ns (fmtWidth f) rs
    some (if ctOf c.w then
      { d with
        out0 := some (ctrlTok ((rs.zipIdx).foldl (fun n e => if e.1.2.2 && e.1.1 != 0 then n + 2 ^ e.2 else n) 0))
        out1 := some (ctrlTok ((rs.zipIdx).foldl (fun n e => if e.1.2.2 && e.1.1 != 0 then n + 2 ^ e.2 else n) 0)) }
      else d)

/-- CMP (R222). -/
def planNodeCmp (c : NCx) : Option Fire :=
  let f := c.w.mode.toNat
  cmpPlan f (fun xs => (intCond (condOf c.w) (laneInt f (nth 0 xs 0)) (laneInt f (nth 0 xs 1)), 0)) c
def execNodeCmp (n : NodeW) (s : State) := fireNode planNodeCmp n s

/-- Operand `i` of SEL whole: its token, or the immediate in every lane. -/
def wholeOf (c : NCx) (f i : Nat) : Tok :=
  if useImm c && i == 1 then
    dataTok (fmtWidth f) (List.replicate (fmtLanes f) (immLane f (bitsOf c.w.imm.toNat 0 32), true))
  else (c.hd i).getD (bare 0)

/-- SEL (R223): by a CTRL token whole, by DATA lane by lane; on a two-entry node the control token that selects the entry is its c as well (log entry
28). -/
def planNodeSel (c : NCx) : Option Fire :=
  let f := c.w.mode.toNat
  let ns := laneNeeds c [0, 1, 2] (some 1)
  plainPlan c ns (fun i => if i = 2 then (if c.w.t then [0, 7, 8] else [7, 8]) else [6, 7, 8]) fun c =>
    match c.hd 2 with
    | some t =>
      if t.k = 6 then some (Fire.both c ns (wholeOf c f (if t.ctl ≠ 0 then 0 else 1)))
      else some (dataFire c ns (fmtWidth f) ((span 0 (fmtLanes f)).map (laneRes c f [0, 1, 2] (some 1) fun xs =>
        (if nth 0 xs 2 ≠ 0 then nth 0 xs 0 else nth 0 xs 1, 0))))
    | none => none
def execNodeSel (n : NodeW) (s : State) := fireNode planNodeSel n s

end Sys2Proof.Machine
end

