-- ==== Sys2Proof/Machine/NodeFp.lean ====
section
/-!
DEFINITION. The floating-point group of the fabric nodes (R224 to R226), with the modifiers of R98 and R99.
-/
namespace Sys2Proof.Machine

/-- The format code of MODE (R95). -/
def fpFmt (w : NodeW) : Nat := 8 + bitsOf w.mode.toNat 2 2

/-- Magnitude, then negation, of source `i` on its sign bit. -/
def modFp (w : NodeW) (i : Nat) (v : FV) : FV :=
  let m := w.imm.toNat
  let y := if w.n && bitOf m (33 + 2 * i) then (match v with | .inf _ => .inf false | .fin _ a e => .fin false a e | n => n) else v
  if w.n && bitOf m (32 + 2 * i) then y.neg else y

/-- CLAMP on a result of format `f` (R98, R99): a NaN passes, and no flag is raised. -/
def clampFp (w : NodeW) (f r : Nat) : Nat :=
  let F := ffOf f
  let c := bitsOf w.imm.toNat 0 16
  let hi := if f = 8 then 65536 * c else c
  let v := F.decI r
  if !w.n || v.isNan then r
  else match bitsOf w.imm.toNat 38 2 with
    | 1 => if fvCmp v (F.decI hi).neg < 0 then F.signed true hi else if 0 < fvCmp v (F.decI hi) then hi else r
    | 2 => if fvCmp v (.fin false 0 0) < 0 then 0 else if 0 < fvCmp v (F.decI hi) then hi else r
    | _ => r

/-- Entry `i` of the modified operands. -/
def fv (l : List FV) (i : Nat) : FV := nth (.nan false) l i

/-- One floating-point lane: sources modified, the operation rounded once with its scale, the clamp. The last argument of `op` names
the operation on these bits, for the free value of log entry 9. -/
def fpLane (w : NodeW) (op : FF → Nat → Int → List FV → Nat → Nat × Nat) (xs : List Nat) : Nat × Nat :=
  let f := fpFmt w
  let F := ffOf f
  let vs := (xs.zipIdx).map fun e => modFp w e.2 (F.decI e.1)
  let r := op F (bitsOf w.mode.toNat 0 2) (scaleOf w) vs
    (((nth 0 xs 0 * 16 + w.mode.toNat) * 64 + bitsOf w.imm.toNat 28 6) * 2 + w.n.toNat)
  (clampFp w f r.1, r.2)

/-- The plan of a floating-point operation. -/
def fpPlan (l : List Nat) (im : Option Nat) (op : FF → Nat → Int → List FV → Nat → Nat × Nat) (c : NCx) : Option Fire :=
  lanesPlan (fpFmt c.w) l im (fpLane c.w op) c

/-- FADD (R224, R225): a + b. -/
def planNodeFadd : NCx → Option Fire := fpPlan [0, 1] (some 1) (fun F rm k l _ => F.add rm k (fv l 0) (fv l 1))
def execNodeFadd (n : NodeW) (s : State) := fireNode planNodeFadd n s
/-- FSUB (R224, R225): a - b. -/
def planNodeFsub : NCx → Option Fire := fpPlan [0, 1] (some 1) (fun F rm k l _ => F.add rm k (fv l 0) (fv l 1).neg)
def execNodeFsub (n : NodeW) (s : State) := fireNode planNodeFsub n s
/-- FMUL (R224, R225): a · b. -/
def planNodeFmul : NCx → Option Fire := fpPlan [0, 1] (some 1) (fun F rm k l _ => F.mul rm k (fv l 0) (fv l 1))
def execNodeFmul (n : NodeW) (s : State) := fireNode planNodeFmul n s
/-- FMA (R224, R225): a · b + c with one rounding. -/
def planNodeFma : NCx → Option Fire := fpPlan [0, 1, 2] (some 2) (fun F rm k l _ => F.fma rm k (fv l 0) (fv l 1) (fv l 2))
def execNodeFma (n : NodeW) (s : State) := fireNode planNodeFma n s
/-- FMIN (R224, R225): minimumNumber; the rounding field is ignored, and a scaled result rounds to nearest even (log entry 85). -/
def planNodeFmin : NCx → Option Fire := fpPlan [0, 1] (some 1) (fun F _ k l _ => let r := fvMinMax false (fv l 0) (fv l 1); F.out 0 k r.1 r.2)
def execNodeFmin (n : NodeW) (s : State) := fireNode planNodeFmin n s
/-- FMAX (R224, R225): maximumNumber, in the same way. -/
def planNodeFmax : NCx → Option Fire := fpPlan [0, 1] (some 1) (fun F _ k l _ => let r := fvMinMax true (fv l 0) (fv l 1); F.out 0 k r.1 r.2)
def execNodeFmax (n : NodeW) (s : State) := fireNode planNodeFmax n s
/-- FRCP (R224, R225): 1 / a. -/
def planFrcp : NCx → Option Fire := fpPlan [0] (none) (fun F rm k l _ => F.div rm k (.fin false 1 0) (fv l 0))
def execFrcp (n : NodeW) (s : State) := fireNode planFrcp n s
/-- FRSQ (R224, R225): 1 / √a. -/
def planFrsq : NCx → Option Fire := fpPlan [0] (none) (fun F rm k l _ => F.rsq rm k (fv l 0))
def execFrsq (n : NodeW) (s : State) := fireNode planFrsq n s
/-- FEXP2 (R224, R225): 2^a. -/
def planFexp2 : NCx → Option Fire := fpPlan [0] (none) (fun F rm k l key => F.exp2 rm k (fv l 0) (8 * key))
def execFexp2 (n : NodeW) (s : State) := fireNode planFexp2 n s
/-- FLOG2 (R224, R225): log2 a. -/
def planFlog2 : NCx → Option Fire := fpPlan [0] (none) (fun F rm k l key => F.log2 rm k (fv l 0) (8 * key + 1))
def execFlog2 (n : NodeW) (s : State) := fireNode planFlog2 n s
/-- FDIV (R224, R225): a / b. -/
def planNodeFdiv : NCx → Option Fire := fpPlan [0, 1] (some 1) (fun F rm k l _ => F.div rm k (fv l 0) (fv l 1))
def execNodeFdiv (n : NodeW) (s : State) := fireNode planNodeFdiv n s
/-- FCMP (R222, R226). -/
def planNodeFcmp (c : NCx) : Option Fire :=
  let F := ffOf (fpFmt c.w)
  cmpPlan (fpFmt c.w) (fun xs => fvCond (condOf c.w) (F.decI (nth 0 xs 0)) (F.decI (nth 0 xs 1))) c
def execNodeFcmp (n : NodeW) (s : State) := fireNode planNodeFcmp n s

end Sys2Proof.Machine
end

