-- ==== Sys2Proof/Machine/Access.lean ====
section
/-!
DEFINITION. Accesses of the engines and the fabric: translation through the caches of R338 with walks in progress, issue, the order
in which accesses are performed (R185, R256, R265, R294, R295), and what the performance of one does to memory (R291, R304, R355,
R363).
-/
namespace Sys2Proof.Machine

/-! ### Translation with walks (R337, R338) -/

/-- What a try at translation gives: the segments, why it fails, or the address whose page must be walked first. -/
inductive Xl where
  | ok (segs : List (PA × Nat))
  | err (e : XErr)
  | miss (va : Nat)
  deriving DecidableEq, Repr

/-- Look up `n` bytes at deep address `va` in the cache of unit `u`, page by page. -/
def lookSegs (s : State) (u root va n : Nat) (needR needW : Bool) : Xl :=
  let look := fun a => tlbFind (Tab.get [] s.tlb u) root a
  let first := 65536 - va % 65536
  match look va with
  | none => .miss va
  | some e =>
    if !e.permits needR needW then .err ⟨0x41, 0⟩
    else if n ≤ first then .ok [(e.pa va, n)]
    else match look (va + first) with
      | none => .miss (va + first)
      | some e2 =>
        if !e2.permits needR needW then .err ⟨0x41, 0⟩ else .ok [(e.pa va, first), (e2.pa (va + first), n - first)]

/-- Class, rights and cached translation of an access of `n` bytes at `a`. -/
def tryXl (s : State) (rt : Rt) (u : Nat) (a : Word) (n : Nat) (needR needW : Bool) : State × Xl :=
  match classify s rt a n needW with
  | .error c => (s, .err ⟨c, 0⟩)
  | .ok (.shore off) => (s, .ok [(⟨.shore, off⟩, n)])
  | .ok (.peer dev va) =>
    match xlatePeer s dev va n with
    | (s1, .ok segs) => (s1, .ok segs)
    | (s1, .error e) => (s1, .err e)
  | .ok (.deep va) => (s, lookSegs s u rt.root va n needR needW)

/-- Whether an access needs read and write permission (R337), and its ACC code (R341). -/
def AccKind.needs : AccKind → Bool × Bool
  | .rd _ => (true, false)
  | .wr _ => (false, true)
  | .copy _ _ => (false, true)
  | .cput _ _ _ => (false, true)
  | _ => (true, true)
def AccKind.code : AccKind → Nat
  | .rd _ => 0
  | .wr _ => 1
  | .copy _ _ => 1
  | .cput _ _ _ => 1
  | _ => 2

/-- The translation cache of an agent (R338): a port's own for affine streams, the die's, or the engine's base die. -/
def unitOf (s : State) : Agent → Nat
  | .ctx x => dieOf (cvOfX x)
  | .node n => dieOf (cvOfNode n)
  | .port cv p => 64 + 16 * cv + p
  | .copy cv _ => dieOf cv
  | .job j => match Tab.find? s.jobs j with | some d => 8 + d.eng / 4 | none => 8
  | .umx e => e / 64
  | .target sb => if sb = mailbox then 0 else dieOf (cvOfSb sb)

/-- What walks for the cache of unit `u`: the die's translation unit (0 to 7), for its ports too, or a base die (8 and above). -/
def walkerOf (u : Nat) : Nat := if u < 24 then u else dieOf ((u - 64) / 16)

/-- The walker and the page that a miss waits for. -/
def Walk.page (w : Walk) : Nat × Nat × Nat := (walkerOf w.unit, w.root, w.va.toNat / 65536)

/-- Walks that a walker runs at once (R338). -/
def walkCap (k : Nat) : Nat := if k < 8 then 32 else 64

/-- The pages that the misses of walker `k` wait for, in the order of arrival, each once: a later miss joins the walk of its page. -/
def walkPages (s : State) (k : Nat) : List (Nat × Nat × Nat) :=
  ((s.walks.filter fun w => walkerOf w.unit == k).map Walk.page).eraseDups

/-- Whether the walk of a miss is running: its page is among the first that its walker has room for. -/
def walkRuns (s : State) (w : Walk) : Bool :=
  ((walkPages s (walkerOf w.unit)).take (walkCap (walkerOf w.unit))).contains w.page

/-- Whether a base die holds as many waiting misses as it can. -/
def walksFull (s : State) (k : Nat) : Bool :=
  decide (4096 ≤ (s.walks.filter fun w => walkerOf w.unit == k && !walkRuns s w).length)

/-- A miss of an agent, which joins the walk of its page or waits for one (R338). -/
def beginWalk (s : State) (u root va : Nat) (needR needW : Bool) (ag : Agent) (acc : Option Nat) : State :=
  { s with walks := s.walks ++ [⟨u, root, va, needR, needW, ag, acc⟩] }

/-- Whether an agent waits for a walk. -/
def walking (s : State) (ag : Agent) : Bool := s.walks.any fun w => decide (w.ag = ag)

/-! ### Accesses in flight -/

/-- A new access in flight, with the number it gets. -/
def addAcc (s : State) (ag : Agent) (rid : Nat) (va : Word) (len : Nat) (k : AccKind) (segs : List (PA × Nat)) (issued : Bool)
    (tag : Nat) : State × Nat :=
  ({ s with accs := s.accs ++ [⟨s.nextId, ag, rid, va, len, k, segs, none, issued, tag⟩], nextId := s.nextId + 1 }, s.nextId)

/-- Change access `id`. -/
def modAcc (s : State) (id : Nat) (f : Acc → Acc) : State :=
  { s with accs := s.accs.map fun a => if a.id = id then f a else a }

/-- Remove access `id`. -/
def dropAcc (s : State) (id : Nat) : State := { s with accs := s.accs.filter fun a => decide (a.id ≠ id) }

/-- The accesses of an agent that are in flight. -/
def accsOf (s : State) (ag : Agent) : List Acc := s.accs.filter fun a => decide (a.ag = ag)

/-- The bytes that the request of an access goes to: a piece of a copy reads its source first, then writes its destination. -/
def Acc.touches (a : Acc) : List (PA × Nat) :=
  match a.kind with
  | .copy src _ => src
  | _ => a.segs

/-- Whether an access is part of a copy, whose bytes are performed in no fixed order (R303). -/
def Acc.isCopy (a : Acc) : Bool :=
  match a.ag with
  | .copy _ _ => true
  | _ => false

/-- Whether an access reads shore memory for a copy, or waits with what it read for an older one that does (R294). -/
def Acc.shoreRead (a : Acc) : Bool :=
  match a.kind with
  | .copy src _ => src.any fun e => decide (e.1.sp = .shore)
  | _ => false
def Acc.shoreReply (a : Acc) : Bool :=
  match a.kind with
  | .cput _ _ sh => sh
  | _ => false

/-- Whether a copy's reply from shore memory still waits for an older one, which it may not pass (R294). -/
def replyWaits (s : State) (a : Acc) : Bool :=
  a.shoreReply && s.accs.any fun b => decide (b.ag = a.ag ∧ b.id < a.id) && b.shoreRead

/-- Whether two accesses touch a common byte. -/
def overlap (a b : Acc) : Bool := a.touches.any fun x => b.touches.any (meets x)

/-- Whether two shore accesses go to one bank. -/
def sameBank (a b : Acc) : Bool :=
  a.touches.any fun x => b.touches.any fun y =>
    decide (x.1.sp = .shore ∧ y.1.sp = .shore ∧ x.1.adr / 65536 = y.1.adr / 65536)

/-- Whether two agents are contexts of one core, which share its read buffer (R159). -/
def sameCore (a b : Agent) : Bool :=
  match a, b with
  | .ctx x, .ctx y => decide (cvOfX x = cvOfX y)
  | _, _ => false

/-- Whether `b` must be performed before `a`: an older access of the same agent to common bytes, an older request of the same stream to the
same bank (R295), an older store of the core to common bytes, which the core's loads have shown before `a` (R292), or an access that the wave chain
of both accepted earlier (R265). -/
def before (b a : Acc) : Bool :=
  (decide (b.ag = a.ag ∧ b.id < a.id) && ((!a.isCopy && overlap b a) || sameBank b a))
    || (sameCore b.ag a.ag && decide (b.id < a.id) && overlap b a)
    || (match b.wave, a.wave with | some (c, i), some (d, j) => decide (c = d ∧ i < j) | _, _ => false)

/-- Whether an access may be performed now. -/
def canPerform (s : State) (a : Acc) : Bool :=
  a.issued && !a.segs.isEmpty && !replyWaits s a && !(s.accs.any fun b => before b a)

/-! ### Activity and the detector -/

/-- The detector agent of an access (R55): a cell's memory interface, a unit of a cove, or an engine. -/
def detKey (s : State) : Agent → Nat
  | .ctx x => 2 ^ 24 + x
  | .node n => detIface (n / 16)
  | .port cv p => detUnit cv p
  | .copy cv q => detUnit cv (64 + q)
  | .job j => match Tab.find? s.jobs j with | some d => 2 ^ 22 + d.eng | none => 2 ^ 22
  | .umx e => 2 ^ 22 + 64 + e
  | .target sb => 2 ^ 25 + sb

/-- Count a memory request or reply of an agent of a residency. -/
def detMem (s : State) (a : Acc) (c : DetC) : State :=
  match a.ag with
  | .node _ | .port _ _ | .copy _ _ | .job _ => detUp s a.rid (detKey s a.ag) c
  | _ => s

/-- The bytes that an access moves, charged to its residency. -/
def meter (s : State) (a : Acc) : State := meterSegs s a.rid a.touches

/-! ### Node replies -/

/-- The reply place of access `id` changed by `f`. -/
def Node.modRep (d : Node) (id : Nat) (f : Rep → Rep) : Node :=
  { d with reps := d.reps.map fun r => if r.acc == some id then f r else r }

/-- The reply of access `id` is back at node `n`. -/
def nodeReply (s : State) (n id : Nat) (t : Option Tok) : State :=
  s.setNode n ((s.node n).modRep id fun r => { r with acc := none, tok := r.tok.orElse fun _ => t })

/-- The word of node `n` in its residency's active context. -/
def liveNode (s : State) (rid n : Nat) : NodeW :=
  match activeOf s rid with
  | some ctx => nodeFields (nodeWords s (n / 16) ctx (n % 16)).1
  | none => nodeFields 0

/-- LANES of a memory node (R254). -/
def memLanes (w : NodeW) : Nat := bitsOf w.imm.toNat 8 5 + 1

/-- The DATA token of bytes read: `lanes` lanes of `w` bits (R185, R257). -/
def bytesTok (w lanes : Nat) (bs : List Byte) : Tok :=
  mkTok 0 (BitVec.ofNat 128 (leNat bs)) (BitVec.ofNat 16 (if w = 4 then 2 ^ ((lanes + 1) / 2) - 1 else 2 ^ lanes - 1))

/-! ### Performance -/

/-- The fence on an access, its record written (R355, R356). -/
def fenceCheck (s : State) (a : Acc) : State × Bool :=
  match fencedBy s a.rid a.segs with
  | some fr => (tellFenced s a.rid fr (match a.segs with | (p, _) :: _ => p.adr / 65536 | [] => 0), true)
  | none => (s, false)

/-- The bytes that a write puts at its resolved addresses. -/
def placed (a : Acc) (bs : List (Nat × Byte)) : List (PA × Byte) :=
  let ps := segPAs a.segs
  bs.map fun e => (nth ⟨.hbm, 0⟩ ps e.1, e.2)

/-- One lane of an atomic add in format `f` (R187, R259): integers wrap, floating point rounds to nearest even. -/
def addLane (f a b : Nat) : Nat :=
  if f < 8 then wrapT f (a + b : Int)
  else ((ffOf f).add 0 0 ((ffOf f).decI a) ((ffOf f).decI b)).1

/-- The new value of an ATOM (R259) in format `f`. -/
def atomNew (op f old v c : Nat) : Nat :=
  match op with
  | 0 => wrapT f (laneInt f old + laneInt f v)
  | 1 => old &&& v
  | 2 => old ||| v
  | 3 => old ^^^ v
  | 4 => if laneInt f old ≤ laneInt f v then old else v
  | 5 => if laneInt f old ≤ laneInt f v then v else old
  | 6 => v
  | 7 => if old = c then v else old
  | _ => addLane f old v

/-- What the performance of an access returns: the bytes read, or the old value, and whether poison was met. -/
structure Done where
  s    : State
  data : List Byte
  psn  : Bool

/-- The read of an indivisible read-modify-write and its write by `f`, unless poison is met. -/
def performRmw (s : State) (a : Acc) (f : List Byte → List (Nat × Byte)) : Done :=
  match fenceCheck s a with
  | (s1, true) => ⟨s1, List.replicate a.len 0, false⟩
  | (s1, false) =>
    let r := rdSegs s1 a.segs
    if r.2.2 then ⟨r.1, r.2.1, true⟩ else ⟨writeBytes r.1 (placed a (f r.2.1)), r.2.1, false⟩

/-- The destination of a copy's access without the bytes whose source `fenced` says is fenced: its first byte and its segments. -/
def unfencedPart (a : Acc) (src : List (PA × Nat)) (fenced : PA × Nat → Bool) : Word × List (PA × Nat) :=
  if src.any fenced then
    (match src with | e :: _ => if fenced e then a.va + BitVec.ofNat 64 e.2 else a.va | [] => a.va,
      (((segPAs a.segs).zip (src.flatMap fun e => List.replicate e.2 (fenced e))).filter fun e => !e.2).map fun e => (e.1, 1))
  else (a.va, a.segs)

/-- A piece of a copy has its bytes (R190): of a fenced source, here or on another device, nothing is written (R355); else the write of the piece is
issued. -/
def copyRead (s : State) (a : Acc) (src : List (PA × Nat)) : State × Bool :=
  let fenced := fun e : PA × Nat => (fencedBy s a.rid [e]).isSome
  let s1 := src.foldl (fun t e => match fencedBy s a.rid [e] with | some fr => tellFenced t a.rid fr (e.1.adr / 65536) | none => t) s
  let p := peerFenced s1 src
  if src.all fenced || p.2 then (dropAcc p.1 a.id, true)
  else
    let r := rdSegs p.1 (src.filter fun e => !fenced e)
    (detMem (modAcc r.1 a.id fun b =>
      let w := unfencedPart b src fenced
      { b with
        kind := .cput r.2.1 r.2.2 (src.any fun e => decide (e.1.sp = .shore)), va := w.1, segs := routeSegs r.1 w.2 }) a .ms, false)

/-- The write of a copy's piece (R190, R355, R363): a poisoned source leaves its mark. -/
def performCput (s : State) (a : Acc) (bs : List Byte) (psn : Bool) : State :=
  match fenceCheck s a with
  | (s1, true) => s1
  | (s1, false) =>
    let l := (segPAs a.segs).zip bs
    let s2 := writeBytes s1 l
    if psn then (l.filter fun e => lands e.1).foldl (fun t e => psnMark t e.1) s2 else s2

/-- Perform an access on memory. -/
def perform (s : State) (a : Acc) : Done :=
  match a.kind with
  | .rd _ =>
    (match fenceCheck s a with
    | (s1, true) => ⟨s1, List.replicate a.len 0, true⟩
    | (s1, false) => let r := rdSegs s1 a.segs; ⟨r.1, r.2.1, r.2.2⟩)
  | .wr bs =>
    (match fenceCheck s a with
    | (s1, true) => ⟨s1, [], false⟩
    | (s1, false) => ⟨writeBytes s1 (placed a bs), [], false⟩)
  | .rmw op f v c =>
    let k := a.len
    performRmw s a fun bs =>
      ((leBytes (atomNew op f (leNat bs) (v.toNat % 2 ^ (8 * k)) (c.toNat % 2 ^ (8 * k))) k).zipIdx).map fun e => (e.2, e.1)
  | .dirty bit clr =>
    performRmw s a fun bs =>
      if clr then ((leBytes (if bitOf (leNat bs) bit then leNat bs - 2 ^ bit else leNat bs) 2).zipIdx).map fun e => (e.2, e.1) else []
  | .copy src _ => ⟨(copyRead s a src).1, [], false⟩
  | .cput bs psn _ => ⟨performCput s a bs psn, [], false⟩
  | .fadd f lanes data mask =>
    let w := fmtWidth f
    performRmw s a fun bs =>
      let old := BitVec.ofNat 128 (leNat bs)
      let l := (span 0 lanes).map fun k =>
        if mask.getLsbD k then addLane f (lane w old k) (lane w data k) else lane w old k
      ((leBytes (joinLanes w l).toNat a.len).zipIdx).map fun e => (e.2, e.1)

/-! ### Address faults and records of the engines -/

/-- The ce of an agent for a record's LOC, its UNIT. -/
def agentLoc (s : State) : Agent → Nat × Nat
  | .ctx x => (16 * cvOfX x, 0xFF)
  | .node n => (n / 16, n % 16)
  | .port cv p => (16 * cv, 0x40 + p)
  | .copy cv q => (16 * cv, 0x50 + q)
  | .job j => match Tab.find? s.jobs j with | some d => (16 * d.cv, d.eng) | none => (0, 0xFF)
  | .umx e => (16 * (256 * (e / 64)), 0xFF)
  | .target sb => (if sb = mailbox then 0 else 16 * cvOfSb sb, 0xFF)

/-- The record of a fault of an access (R341): kind, cause, the faulting pointer. -/
def agentRec (s : State) (kind : Nat) (ag : Agent) (rid acc : Nat) (va : Word) (e : XErr) : Rec :=
  let l := agentLoc s ag
  { Rec.zero with
    kind := kind
    cause := e.cause
    rid := rid
    acc := acc
    loc := l.1
    unit := l.2
    va := shownPtr (rtOf s rid false) va
    aux := BitVec.ofNat 64 e.aux
    cycle := cycleOf s (cvOfCe l.1) }

/-- An address fault of an engine or node (R19): fatal, kind 9. -/
def agentAddrFault (s : State) (ag : Agent) (rid acc : Nat) (va : Word) (cause : Nat) : State :=
  raiseFatal s (agentRec s 9 ag rid acc va ⟨cause, 0⟩)

/-- A memory node freezes at access `a` (R268): a record of kind 4; an owed load takes its settle marker instead (R50): of a load with
two endpoint outputs, one that both owe (log entry 102). -/
def nodeFreeze (s : State) (n : Nat) (a : Acc) (e : XErr) : State :=
  let d := s.node n
  let w := liveNode s a.rid n
  let all := (if 0x20 ≤ chanId w.out0 ∧ chanId w.out0 ≤ 0x3F then 1 else 0)
    + (if 0x20 ≤ chanId w.out1 ∧ chanId w.out1 ≤ 0x3F then 2 else 0)
  if all != 0 && d.reps.any fun r => r.acc == some a.id && r.owed &&& all == all then
    (dropAcc s a.id).setNode n (d.modRep a.id fun r => { r with acc := none, settle := true })
  else openRec s { agentRec s 4 a.ag a.rid a.kind.code a.va e with dlv := d.firings } (some a.ag) []

/-- Issue a translated access unless a wave record must be accepted first, and count the request. -/
def translated (s : State) (a : Acc) (segs : List (PA × Nat)) (wave : Bool) : State :=
  let s1 := detMem (modAcc s a.id fun b => { b with segs := segs, issued := b.issued || !wave }) a .ms
  match a.ag with
  | .node n =>
    let d := s1.node n
    if wave then s1
    else match a.kind with
      | .wr _ => s1.setNode n (d.modRep a.id fun r => { r with acc := none })
      | _ => s1
  | _ => s1

/-- Try again to translate access `id` of a node after a walk or a resume: it is issued, waits for a walk, or freezes its node. -/
def retryNode (s : State) (n : Nat) (a : Acc) : State :=
  let need := a.kind.needs
  let rt := rtOf s a.rid false
  match tryXl s rt (unitOf s a.ag) a.va a.len need.1 need.2 with
  | (s1, .ok segs) => translated s1 a segs (liveNode s a.rid n).v
  | (s1, .miss va) => beginWalk s1 (unitOf s a.ag) rt.root va need.1 need.2 a.ag (some a.id)
  | (s1, .err e) => if e.cause < 0x40 then agentAddrFault s1 a.ag a.rid a.kind.code a.va e.cause else nodeFreeze s1 n a e

end Sys2Proof.Machine
end

