-- ==== Sys2Proof/Machine/NodeFmt.lean ====
section
/-!
DEFINITION. The format and lanes group of the fabric nodes (R227 to R239), with MX blocks (R86, R87) and dual-exponent blocks
(R88 to R90).
-/
namespace Sys2Proof.Machine

/-! ### Stateful nodes (R218) -/

/-- The node with its operation's state replaced. -/
def Node.withOp (d : Node) (o : OpSt) : Node := { d with op := o }

/-- A firing that leaves the operation's state `o`. -/
def Fire.op (f : Fire) (o : OpSt) : Fire := { f with d := f.d.withOp o }

/-- A firing that leaves tokens pending, behind those that are. -/
def Fire.pending (f : Fire) (l : List (Option Tok × Option Tok)) : Fire := { f with d := { f.d with pend := f.d.pend ++ l } }

/-- The flags of a firing that reads a whole block go to the set of byte lane 0 (R216). -/
def onByte0 (f : Fire) : Fire := { f with flags := f.flags.map fun e : Nat × Nat => (0, e.2) }

/-- A firing that raises flags in the set of byte lane 0. -/
def Fire.flag0 (f : Fire) (fl : Nat) : Fire := if fl = 0 then f else { f with flags := f.flags ++ [(0, fl)] }

/-- The conduct of a stateful node: pending tokens first, then as `plainPlan`, with its own conduct for delimiters and HDR, for POISON
and for DATA; `busy` is state that DRAIN must not meet. -/
def statePlan (c : NCx) (l : List Nat) (bad : List Nat) (busy : Bool) (onDelim : List (Nat × Bool) → Tok → Option Fire)
    (onPsn : Option Fire) (f : Option Fire) : Option Fire :=
  match pendFire c with
  | some r => r
  | none =>
    if badKind c l then some (Fire.fault c 0x30)
    else if l.any fun i => c.shows i bad then some (Fire.fault c 0x32)
    else match heads c true l with
    | .wait => none
    | .mismatch => some (Fire.fault c 0x31)
    | .delim k takes t =>
      if !c.rooms then none else if k = 5 then drainFire c l takes busy else onDelim takes t
    | .data => if c.rooms then (if anyPoison c l then onPsn else f) else none

/-- The lanes of a DATA token in format `f`, an invalid lane counted as +0 (R218). -/
def valuesOf (f : Nat) (t : Tok) : List (BitVec 64) :=
  (span 0 (fmtLanes f)).map fun k => if laneOk (fmtWidth f) t k then BitVec.ofNat 64 (lane (fmtWidth f) t.pay k) else 0

/-- An HDR token with another format code. -/
def reformat (t : Tok) (f : Nat) : Tok :=
  if t.k = 1 then { t with pay := BitVec.ofNat 128 (t.pay.toNat / 16 * 16 + f % 16) } else t

/-- The values gathered. -/
def gathered (d : Node) : List (BitVec 64) := match d.op with | .gather v _ => v | _ => []

/-- Gathering (R218): 32 values form a block by `blk`, which gives the first pair of tokens, those pending, and flags; a delimiter or
HDR completes a block that has been begun and follows it; POISON makes the block's tokens POISON and ends the gathering. -/
def gatherPlan (c : NCx) (f hf : Nat) (blk : List FV → (Option Tok × Option Tok) × List (Option Tok × Option Tok) × Nat) :
    Option Fire :=
  let got := gathered c.d
  let ff := ffOf f
  let shape := blk (List.replicate 32 (.fin false 0 0))
  let psn := fun o : Option Tok => o.map fun _ => poisonTok
  let close := fun (vs : List (BitVec 64)) (takes : List (Nat × Bool)) (tail : List (Option Tok × Option Tok)) =>
    let b := blk ((vs ++ List.replicate (32 - vs.length) 0).map fun v : BitVec 64 => ff.decI v.toNat)
    (({ Fire.of c [] b.1.1 b.1.2 with takes := takes }.pending (b.2.1 ++ tail)).op .none).flag0 b.2.2
  statePlan c [0] [6, 7, 8] (!got.isEmpty)
    (fun takes t =>
      let t := reformat t hf
      if got.isEmpty then some { delimFire c takes t with takes := takes }
      else some (close got takes [(some t, some t)]))
    (some (((Fire.of c [0] (psn shape.1.1) (psn shape.1.2)).pending (shape.2.1.map fun e => (psn e.1, psn e.2))).op .none))
    (match c.hd 0 with
      | some t =>
        let vs := got ++ valuesOf f t
        if vs.length < 32 then some ((Fire.of c [0] none none).op (.gather vs false)) else some (close (vs.take 32) [(0, false)] [])
      | none => none)

/-! ### CVT (R228 to R230) -/

/-- The fields of CVT's IMM. -/
def cvtDst (w : NodeW) : Nat := bitsOf w.imm.toNat 0 4
def cvtRnd (w : NodeW) : Nat := bitsOf w.imm.toNat 4 2
def cvtSat (w : NodeW) : Bool := bitOf w.imm.toNat 6
def cvtMx (w : NodeW) : Bool := bitOf w.imm.toNat 7

/-- The group count, the scale held and the poison of a CVT. -/
def cvtSt (d : Node) : Nat × Option Byte × Bool := match d.op with | .cvt g x p => (g, x, p) | _ => (0, none, false)

/-- Lanes converted in one firing, and the groups of a source token. -/
def cvtN (w : NodeW) : Nat := min (fmtLanes w.mode.toNat) (fmtLanes (cvtDst w))
def cvtG (w : NodeW) : Nat := fmtLanes w.mode.toNat / cvtN w

/-- The lanes of group `g` of the head token under `conv`. -/
def cvtLanes (c : NCx) (g : Nat) (conv : Nat → Nat × Nat) (t : Tok) : List (Nat × Nat × Bool) :=
  let sw := fmtWidth c.w.mode.toNat
  (span 0 (fmtLanes (cvtDst c.w))).map fun k =>
    let j := g * cvtN c.w + k
    if k < cvtN c.w && laneOk sw t j then let r := conv (lane sw t.pay j); (r.1, r.2, true) else (0, 0, false)

/-- A later firing on an operand that stands at IN_A: no delimiter behind a token held at a sticky count of 15 is taken before its last
(R228, R230). -/
def midFire (c : NCx) (onPsn f : Option Fire) : Option Fire := if c.rooms then (if c.shows 0 [9] then onPsn else f) else none

/-- CVT between lanes (R228). -/
def cvtPlain (c : NCx) : Option Fire :=
  let g := (cvtSt c.d).1
  let last := decide (g + 1 = cvtG c.w)
  let st : OpSt := if last then .none else .cvt (g + 1) none false
  let takes := if last then [0] else []
  let psnF : Option Fire := some ((Fire.both c takes poisonTok).op st)
  let f : Option Fire := match c.hd 0 with
    | some t =>
      some ((dataFire c takes (fmtWidth (cvtDst c.w))
        (cvtLanes c g (convLane c.w.mode.toNat (cvtDst c.w) (cvtRnd c.w) (cvtSat c.w)) t)).op st)
    | none => none
  if g != 0 && c.shows 0 [0, 9] then midFire c psnF f
  else statePlan c [0] [6, 7, 8] (g != 0) (fun takes t => some (delimFire c takes (reformat t (cvtDst c.w)))) psnF f

/-- The greatest magnitude of finite values. -/
def maxAbs (l : List FV) : FV :=
  l.foldl (fun a v => match v with | .fin _ m e => if fvCmp a (.fin false m e) < 0 then .fin false m e else a | _ => a) (.fin false 0 0)

/-- Whether a value is a NaN or infinite. -/
def FV.special : FV → Bool
  | .fin _ _ _ => false
  | _ => true

/-- ToMX (R87): the scale, the element codes, the flags. -/
def toMX (dst : Nat) (l : List FV) : Nat × List Nat × Nat :=
  let F := ffOf dst
  if l.any FV.special then
    (255, l.map fun _ => 0, if l.any fun v => v.isSig || (match v with | .inf _ => true | _ => false) then 16 else 0)
  else match maxAbs l with
    | .fin _ m e =>
      if m = 0 then (0, l.map fun _ => 0, 0)
      else
        let x := (clampI ((Nat.log2 m : Int) + e - (if dst = 11 then 8 else 2) + 127) 0 254).toNat
        let rs := l.map fun v => match v with | .fin n a b => F.round 0 true n a false (b + 127 - x) | _ => (0, 0)
        (x, rs.map (·.1), rs.foldl (fun f r => f ||| r.2) 0)
    | _ => (0, [], 0)

/-- The tokens of an MX block: the elements on OUT_0, the scale on OUT_1 with the first (R230). -/
def mxBlock (dst : Nat) (l : List FV) : (Option Tok × Option Tok) × List (Option Tok × Option Tok) × Nat :=
  let r := toMX dst l
  let sc := dataTok 8 [(r.1, true)]
  let el := fun xs : List Nat => dataTok (fmtWidth dst) (xs.map fun v => (v, true))
  if dst = 11 then ((some (el (r.2.1.take 16)), some sc), [(some (el (r.2.1.drop 16)), none)], r.2.2)
  else ((some (el r.2.1), some sc), [], r.2.2)

/-- One element out of an MX block under scale `x` (R230). -/
def mxLane (src dst rm : Nat) (x : Byte) (b : Nat) : Nat × Nat :=
  if x = 0xFF then ((ffOf dst).nanC, 0)
  else (ffOf dst).out rm ((x.toNat : Int) - 127) (fdec src b) 0

/-- CVT out of MX (R230): the scale is taken with the block's first group and released with its last. OUT_1 is a copy of OUT_0, an HDR is
matched at a block boundary and ends an MXFP8 block as a delimiter does, and the flags of a group go to the set of byte lane 0: the model's choices
(log entry 138). -/
def cvtFromMx (c : NCx) : Option Fire :=
  let s := cvtSt c.d
  let g := s.1
  let total := cvtG c.w * (if c.w.mode.toNat = 11 then 2 else 1)
  let start := s.2.1.isNone
  let takeA := decide ((g + 1) % cvtG c.w = 0)
  let nxt := fun (x : Byte) (p : Bool) => if g + 1 = total then OpSt.none else .cvt (g + 1) (some x) p
  if !start && g % cvtG c.w == 0 && c.shows 0 [1, 2, 3, 4] then
    (if c.rooms then some ((Fire.of c [] none none).op .none) else none)
  else
    let ns := if start then [0, 1] else [0]
    let takes := (if takeA then [0] else []) ++ (if start then [1] else [])
    let held : Option (Byte × Bool) := match s.2.1 with
      | some x => some (x, s.2.2)
      | none => (c.hd 1).map fun t => (BitVec.ofNat 8 (lane 8 t.pay 0), t.k == 9 || !laneOk 8 t 0)
    match held with
    | none => statePlan c ns [6, 7, 8] (!start) (fun _ _ => none) none none
    | some (x, p) =>
      let psnF : Option Fire := some ((Fire.both c takes poisonTok).op (nxt x p))
      let f : Option Fire :=
        if p then psnF
        else match c.hd 0 with
          | some t =>
            let d := dataFire c takes (fmtWidth (cvtDst c.w)) (cvtLanes c (g % cvtG c.w) (mxLane c.w.mode.toNat (cvtDst c.w) (cvtRnd c.w) x) t)
            some ((onByte0 d).op (nxt x p))
          | none => none
      if !start && c.shows 0 [0, 9] then midFire c psnF f
      else statePlan c ns [6, 7, 8] (!start) (fun takes t => some (delimFire c takes (reformat t (cvtDst c.w)))) psnF f

/-- CVT (R228 to R230). -/
def planCvt (c : NCx) : Option Fire :=
  if !cvtMx c.w then cvtPlain c
  else if c.w.mode.toNat = 11 ∨ c.w.mode.toNat = 13 then cvtFromMx c
  else gatherPlan c c.w.mode.toNat (cvtDst c.w) (mxBlock (cvtDst c.w))
def execCvt (n : NodeW) (s : State) := fireNode planCvt n s

/-! ### Dual-exponent blocks (R88 to R90, R231, R232) -/

/-- A finite magnitude times 2^k rounded to the nearest integer, ties to even. -/
def rneMag (v : FV) (k : Int) : Nat := match v with | .fin _ m e => (cutTo 0 false m false (e + k) 0).1 | _ => 0

/-- Need (R90): the smallest exponent at which a nonzero value fits the mantissa. -/
def needExp (s mmax : Nat) (v : FV) : Int :=
  match v with
  | .fin _ m e =>
    let a : Int := (Nat.log2 m : Int) + e + 128
    if rneMag v (127 + s - a) ≤ mmax then a else a + 1
  | _ => 0

/-- Insert a magnitude into a list in descending order, behind its equals. -/
def insDesc (v : FV) : List FV → List FV
  | [] => [v]
  | u :: t => if fvCmp u v < 0 then v :: u :: t else u :: insDesc v t

/-- The magnitudes in descending order, ties by index. -/
def descend (l : List FV) : List FV :=
  l.foldl (fun acc v => insDesc (match v with | .fin _ m e => .fin false m e | w => w) acc) []

/-- The gap of PACKB before it is limited by E1 (R90). -/
def packGap (s mmax : Nat) (auto : Bool) (gfix : Nat) (e1 : Int) (l : List FV) : Int :=
  if auto then
    let r := nth (.fin false 0 0) (descend l) 16
    if r.isZero then 15
    else let g := e1 - needExp s mmax r; if g < 0 then 0 else if 15 < g then 15 else g
  else gfix

/-- One element of a block: its selector, mantissa and whether it is inexact. -/
def packElem (s mmax : Nat) (e0 e1 g : Int) (v : FV) : Nat × Int × Bool :=
  let neg := v.sgn
  let a := rneMag v (127 + s - e0)
  let sel := if a ≤ mmax ∨ g = 0 then 0 else 1
  let m := if sel = 0 then min a mmax else min (rneMag v (127 + s - e1)) mmax
  let ex := (if sel = 0 then e0 else e1) - 127 - s
  (sel, (if neg then -(m : Int) else (m : Int)), fvCmp (.fin neg m ex) v != 0)

/-- PACKB of 32 values (R90): the exponent pair, the element codes of `w` bits, the flags. -/
def packBlock (w : Nat) (auto : Bool) (gfix : Nat) (l : List FV) : Nat × List Nat × Nat :=
  let s := if w = 8 then 6 else 2
  let mmax := if w = 8 then 63 else 3
  if l.any FV.special then (255 * 256, l.map fun _ => 0, 16)
  else
    let m := maxAbs l
    if m.isZero then (0, l.map fun _ => 0, 0)
    else
      let n := needExp s mmax m
      let e1 := clampI n 1 254
      let g0 := packGap s mmax auto gfix e1 l
      let g := if e1 - g0 < 1 then e1 - 1 else g0
      let e0 := e1 - g
      let es := l.map (packElem s mmax e0 e1 g)
      ((e0 * 256 + g * 16).toNat, es.map fun e => e.1 * 2 ^ (w - 1) + cutInt (w - 1) e.2.1,
        (if 254 < n then 4 else 0) ||| (if es.any (·.2.2) then 1 else 0))

/-- The tokens of a dual-exponent block (R88, R231). -/
def deBlock (de4 auto : Bool) (gfix : Nat) (l : List FV) : (Option Tok × Option Tok) × List (Option Tok × Option Tok) × Nat :=
  let w := if de4 then 4 else 8
  let r := packBlock w auto gfix l
  let tk := fun xs : List Nat => some (mkTok 0 (joinLanes w xs) (BitVec.ofNat 16 r.1))
  if de4 then ((tk r.2.1, tk r.2.1), [], r.2.2)
  else ((tk (r.2.1.take 16), tk (r.2.1.take 16)), [(tk (r.2.1.drop 16), tk (r.2.1.drop 16))], r.2.2)

/-- PACKB (R231). -/
def planPackb (c : NCx) : Option Fire :=
  let i := c.w.imm.toNat
  gatherPlan c c.w.mode.toNat (if bitOf i 0 then 15 else 14) (deBlock (bitOf i 0) (!bitOf i 1) (bitsOf i 2 4))
def execPackb (n : NodeW) (s : State) := fireNode planPackb n s

/-- The class of a block (R89): 0 invalid, 1 NaN, 2 zero, 3 normal; from its pair and its element codes of `w` bits. -/
def blockClass (w pair : Nat) (es : List Nat) : Nat :=
  let e0 := pair / 256
  if pair % 16 ≠ 0 ∨ (e0 + bitsOf pair 4 4 ≥ 255 ∧ e0 ≠ 255) ∨ es.any (fun e => e % 2 ^ (w - 1) == 2 ^ (w - 2)) then 0
  else if e0 = 255 then 1
  else if e0 = 0 then 2
  else 3

/-- The value of an element of a normal block (R88). -/
def elemVal (w pair e : Nat) : FV :=
  let m := sext (w - 1) (e % 2 ^ (w - 1))
  let s : Int := if w = 8 then 6 else 2
  .fin (decide (m < 0)) m.natAbs ((pair / 256 : Nat) + (if e / 2 ^ (w - 1) = 1 then (bitsOf pair 4 4 : Int) else 0) - 127 - s)

/-- The element codes of the tokens of a block, +0 in the places of a token that is missing. -/
def blockElems (w : Nat) (ts : List Tok) : List Nat :=
  let l := ts.flatMap fun t => (span 0 (128 / w)).map (lane w t.pay)
  l ++ List.replicate (32 - l.length) 0

/-- The pair that classifies a block; a second token with another pair makes it invalid (R232). -/
def blockPair (ts : List Tok) : Nat :=
  match ts with
  | a :: b :: _ => if a.sb = b.sb then a.sb.toNat else 1
  | a :: _ => a.sb.toNat
  | [] => 0

/-- One element converted to format `f` (R232). -/
def unpackLane (f w pair : Nat) (cls e : Nat) : Nat × Nat :=
  let F := ffOf f
  match cls with
  | 0 => (F.nanC, 16)
  | 1 => (F.nanC, 0)
  | 2 => (0, 0)
  | _ => F.out 0 0 (elemVal w pair e) 0

/-- The tokens an UNPACKB holds and the groups it has emitted. -/
def unpackSt (d : Node) : List Tok × Nat := match d.op with | .unpack h k => (h, k) | _ => ([], 0)

/-- Emit group `k` of the block of `ts` with the inputs `takes`; the block is classified once, so an invalid one raises NV with its first group
(R89). -/
def unpackGroup (c : NCx) (takes : List Nat) (ts : List Tok) (k : Nat) : Fire :=
  let f := c.w.mode.toNat
  let n := fmtLanes f
  let w := if bitOf c.w.imm.toNat 0 then 4 else 8
  let st : OpSt := if (k + 1) * n ≥ 32 then .none else .unpack ts (k + 1)
  if ts.any (fun t => t.k == 9) then (Fire.both c takes poisonTok).op st
  else
    let es := blockElems w ts
    let cls := blockClass w (blockPair ts) es
    let rs := ((es.drop (k * n)).take n).map (unpackLane f w (blockPair ts) cls)
    let d := dataFire c takes (fmtWidth f) (rs.map fun r => (r.1, if cls = 0 ∧ 0 < k then 0 else r.2, true))
    (onByte0 d).op st

/-- UNPACKB (R232): the firing that takes the last token of a block emits its first group; the others take no input (log
entry 29). DRAIN behind the first token of a DE8 block faults with 0x38, the model's reading (log entry 139). -/
def planUnpackb (c : NCx) : Option Fire :=
  let de4 := bitOf c.w.imm.toNat 0
  let h := unpackSt c.d
  let full := if de4 then 1 else 2
  if h.1.length = full ∨ 0 < h.2 then (if c.rooms then some (unpackGroup c [] h.1 h.2) else none)
  else
    let f : Option Fire := match c.hd 0 with
      | some t =>
        let ts := h.1 ++ [t]
        some (if ts.length = full then unpackGroup c [0] ts 0 else (Fire.of c [0] none none).op (.unpack ts 0))
      | none => none
    statePlan c [0] [6, 7, 8] (!h.1.isEmpty)
      (fun takes t =>
        if h.1.isEmpty then some (delimFire c takes (reformat t c.w.mode.toNat))
        else some (unpackGroup c [] h.1 0)) f f
def execUnpackb (n : NodeW) (s : State) := fireNode planUnpackb n s

/-! ### PERM, REDUCE, SCAN, ACC (R233 to R236) -/

/-- The place in a‖b that lane `k` of `n` takes under a pattern (R233). -/
def permPlace (pat arg n k : Nat) : Nat :=
  match pat with
  | 0 => n - 1 - k
  | 1 => arg % n
  | 2 => (k + arg) % n
  | 3 => if k % 2 = 0 then k / 2 else n + (k - 1) / 2
  | 4 => if k % 2 = 0 then n / 2 + k / 2 else n + n / 2 + (k - 1) / 2
  | 5 => 2 * k
  | _ => 2 * k + 1

/-- PERM (R233). -/
def planPerm (c : NCx) : Option Fire :=
  let w := 8 * 2 ^ bitsOf c.w.mode.toNat 0 2
  let n := 128 / w
  let ns := c.needed [0, 1, 2]
  plainPlan c ns (fun _ => [6, 7, 8]) fun c =>
    let at_ := fun j : Nat =>
      match c.hd (if j < n then 0 else 1) with
      | some t => if j < n || c.has 1 then (lane w t.pay (j % n), 0, laneOk w t (j % n)) else (0, 0, false)
      | none => (0, 0, false)
    some (dataFire c ns w ((span 0 n).map fun k =>
      if c.has 2 then
        let b := match c.hd 2 with | some t => lane 8 t.pay k | none => 0
        if bitOf b 7 then (0, 0, true) else at_ (b % 32 % (2 * n))
      else at_ (permPlace (bitsOf c.w.imm.toNat 0 4) (bitsOf c.w.imm.toNat 4 5) n k)))
def execPerm (n : NodeW) (s : State) := fireNode planPerm n s

/-- A reduction operator on lanes of format `f` (R227): 0 add, 1 min, 2 max, 3 and, 4 or, 5 xor. -/
def redOp (f op a b : Nat) : Nat × Nat :=
  if f < 8 then
    let x := laneInt f a
    let y := laneInt f b
    ((match op with
      | 0 => wrapT f (x + y)
      | 1 => if y < x then b else a
      | 2 => if x < y then b else a
      | 3 => a &&& b
      | 4 => a ||| b
      | _ => a ^^^ b), 0)
  else
    let F := ffOf f
    match op with
    | 0 => F.add 0 0 (F.decI a) (F.decI b)
    | 1 => let r := fvMinMax false (F.decI a) (F.decI b); F.out 0 0 r.1 r.2
    | _ => let r := fvMinMax true (F.decI a) (F.decI b); F.out 0 0 r.1 r.2

/-- The operator field of REDUCE, ACC and SCAN, and the initial value of ACC and SCAN. -/
def redCode (w : NodeW) : Nat := bitsOf w.imm.toNat 32 3
def redInit (w : NodeW) : Nat := immLane w.mode.toNat (bitsOf w.imm.toNat 0 32)

/-- Fold lanes in ascending order from the first. A NaN that is alone is delivered as the canonical one (R83). -/
def foldLanes (f op : Nat) : List Nat → Nat × Nat
  | [] => (0, 0)
  | [a] => if 8 ≤ f ∧ ((ffOf f).decI a).isNan then ((ffOf f).nanC, sigFl [(ffOf f).decI a]) else (a, 0)
  | a :: t => t.foldl (fun acc b => let r := redOp f op acc.1 b; (r.1, acc.2 ||| r.2)) (a, 0)

/-- REDUCE (R234). -/
def planReduce (c : NCx) : Option Fire :=
  let f := c.w.mode.toNat
  plainPlan c [0] (fun _ => [6, 7, 8]) fun c =>
    match c.hd 0 with
    | some t =>
      let l := ((span 0 (fmtLanes f)).filter (laneOk (fmtWidth f) t)).map (lane (fmtWidth f) t.pay)
      if l.isEmpty then some (Fire.both c [0] (bare 0))
      else let r := foldLanes f (redCode c.w) l; some ((Fire.both c [0] (dataTok (fmtWidth f) [(r.1, true)])).flag0 r.2)
    | none => none
def execReduce (n : NodeW) (s : State) := fireNode planReduce n s

/-- The carry of a SCAN. -/
def scanC (c : NCx) : Nat := match c.d.op with | .scan v => v.toNat | _ => redInit c.w

/-- The lanes of a scan from lane `k` on with running value `t` (R235), and the carry after them. -/
def scanLanes (f op : Nat) (excl : Bool) : List (Nat × Bool) → Nat → List (Nat × Nat × Bool) × Nat
  | [], t => ([], t)
  | (a, v) :: rest, t =>
    if v then
      let r := redOp f op t a
      let q := scanLanes f op excl rest r.1
      ((if excl then t else r.1, r.2, true) :: q.1, q.2)
    else
      let q := scanLanes f op excl rest t
      ((0, 0, false) :: q.1, q.2)

/-- The lanes of a scan with the flags of the last step taken out, and those flags: they are the carry's, which no lane shows. -/
def carryFlags : List (Nat × Nat × Bool) → List (Nat × Nat × Bool) × Nat
  | [] => ([], 0)
  | e :: t =>
    if e.2.2 && !(t.any (·.2.2)) then ((e.1, 0, true) :: t, e.2.1)
    else let r := carryFlags t; (e :: r.1, r.2)

/-- SCAN (R235). With EXCL and CARRY the last step forms the carry alone, and its flags go to the set of byte lane 0 (R216, log entry 31). -/
def planScan (c : NCx) : Option Fire :=
  let f := c.w.mode.toNat
  let i := c.w.imm.toNat
  let carry := bitOf i 36
  statePlan c [0] [6, 7, 8] false
    (fun takes t => some ((delimFire c takes t).op (if t.isDelim then .none else c.d.op)))
    (some (Fire.both c [0] poisonTok))
    (match c.hd 0 with
      | some t =>
        let r := scanLanes f (redCode c.w) (bitOf i 35)
          ((span 0 (fmtLanes f)).map fun k => (lane (fmtWidth f) t.pay k, laneOk (fmtWidth f) t k))
          (if carry then scanC c else redInit c.w)
        let q := if carry && bitOf i 35 then carryFlags r.1 else (r.1, 0)
        some (((dataFire c [0] (fmtWidth f) q.1).flag0 q.2).op (if carry then .scan (BitVec.ofNat 64 r.2) else .none))
      | none => none)
def execScan (n : NodeW) (s : State) := fireNode planScan n s

/-- The accumulator of an ACC: its lanes, the poison mark, whether DATA has been taken since the last emission. -/
def accSt (c : NCx) : List Nat × Bool × Bool :=
  match c.d.op with
  | .accum a p y => (a.map (·.toNat), p, y)
  | _ => (List.replicate (fmtLanes c.w.mode.toNat) (redInit c.w), false, false)

/-- The token an ACC emits. -/
def accTok (c : NCx) : Tok :=
  let a := accSt c
  if a.2.1 then poisonTok else dataTok (fmtWidth c.w.mode.toNat) (a.1.map fun v => (v, true))

/-- The flags of each lane's step. -/
def accFlags (f : Nat) (rs : List (Nat × Nat)) (g : Fire) : Fire :=
  { g with flags := (rs.zipIdx.filter fun e => e.1.2 != 0).map fun e => (byteLane (fmtWidth f) e.2, e.1.2) }

/-- ACC (R236). -/
def planAcc (c : NCx) : Option Fire :=
  let f := c.w.mode.toNat
  let i := c.w.imm.toNat
  let a := accSt c
  let endK := if bitOf i 35 then 3 else 2
  statePlan c [0] [6, 7, 8] a.2.2
    (fun takes t =>
      let emitA := ({ Fire.both c [] (accTok c) with takes := takes, d := { c.d with eos := c.d.eos || t.k == 4 } }).op .none
      if t.k = endK then some (if bitOf i 36 then emitA.pending [(some t, some t)] else emitA)
      else if t.k = 4 && a.2.2 then some (emitA.pending [(some t, some t)])
      else some (delimFire c takes t))
    (some ((Fire.of c [0] none none).op (.accum (a.1.map (BitVec.ofNat 64)) true a.2.2)))
    (match c.hd 0 with
      | some t =>
        let rs := (a.1.zipIdx).map fun e =>
          if laneOk (fmtWidth f) t e.2 then redOp f (redCode c.w) e.1 (lane (fmtWidth f) t.pay e.2) else (e.1, 0)
        some ((accFlags f rs (Fire.of c [0] none none)).op (.accum (rs.map fun r => BitVec.ofNat 64 r.1) a.2.1 true))
      | none => none)
def execAcc (n : NodeW) (s : State) := fireNode planAcc n s

/-! ### HDR and SPLAT (R237, R238) -/

/-- START of an HDR node. -/
def hdrStart (d : Node) : Bool := match d.op with | .hdr b => b | _ => true

/-- The header that an HDR node emits, with the scale of its IN_B head. -/
def hdrTok (c : NCx) : Tok :=
  let i := c.w.imm.toNat
  match c.has 1, c.hd 1 with
  | true, some t =>
    if t.k = 9 then poisonTok
    else mkTok 1 (BitVec.ofNat 128 (bitsOf i 0 4 + bitsOf i 4 16 * 2 ^ 16 + bitsOf i 20 16 * 2 ^ 32 + lane 32 t.pay 0 * 2 ^ 64)) 0
  | _, _ => mkTok 1 (BitVec.ofNat 128 (bitsOf i 0 4 + bitsOf i 4 16 * 2 ^ 16 + bitsOf i 20 16 * 2 ^ 32 + 0x3F800000 * 2 ^ 64)) 0

/-- Take the head of IN_A and emit it. -/
def passHead (c : NCx) (takes : List (Nat × Bool)) : Option Fire :=
  (c.hd 0).map fun t => { Fire.both c [] t with takes := takes, d := { c.d with eos := c.d.eos || t.k == 4 } }

/-- A delimiter or DRAIN of an HDR node (R237, R53): it is taken together with the same kind on its other input, under R34 (log entry 30). EOT and
EOS restart. -/
def hdrDelim (c : NCx) (ns : List Nat) (h : Heads) : Option Fire :=
  match h with
  | .delim k takes t =>
    if !c.rooms then none
    else if k = 5 then drainFire c ns takes false
    else some ((delimFire c takes t).op (if k = 2 ∨ k = 4 then .hdr true else c.d.op))
  | .mismatch => some (Fire.fault c 0x31)
  | _ => none

/-- HDR (R237). While it holds IN_A at sticky count 15, a delimiter or DRAIN at IN_B, or behind the held token, is matched as R34 and R53 give. -/
def planHdr (c : NCx) : Option Fire :=
  let ns := c.needed [0, 1]
  let insert := fun t : Tok =>
    if hdrStart c.d && !bitOf c.w.imm.toNat 36 && t.k != 6 then
      (if c.has 1 && c.shows 1 [1, 2, 3, 4] then some (Fire.fault c 0x31)
       else if !c.rooms || (c.has 1 && ((c.hd 1).isNone || c.shows 1 [5])) then none
       else some ((Fire.both c (if c.has 1 then [1] else []) (hdrTok c)).op (.hdr false)))
    else if c.rooms then passHead c [(0, false)]
    else none
  if badKind c ns then some (Fire.fault c 0x30)
  else if c.has 1 && c.shows 1 [6, 7, 8] then some (Fire.fault c 0x32)
  else match c.hd 0 with
  | none => none
  | some t =>
    if t.isDelim ∨ t.k = 5 then hdrDelim c ns (joinAll c ns t)
    else if t.k = 1 then (if c.rooms then some (Fire.of c [0] none none) else none)
    else if c.held 0 && ns.all fun i => (c.hd i).isSome then
      match heads c false ns with
      | .data => insert t
      | h => hdrDelim c ns h
    else insert t
def execHdr (n : NodeW) (s : State) := fireNode planHdr n s

/-- SPLAT (R238). -/
def planSplat (c : NCx) : Option Fire :=
  let f := c.w.mode.toNat
  let w := fmtWidth f
  let i := c.w.imm.toNat
  let fill := fun r : Nat × Nat => dataFire c [0] w (List.replicate (fmtLanes f) (r.1, r.2, true))
  let num := fun v : Int => fill (if f < 8 then (wrapT f v, 0) else (ffOf f).round 0 false (decide (v < 0)) v.natAbs false 0)
  plainPlan c [0] (fun _ => []) fun c =>
    match c.hd 0 with
    | some t =>
      some (if t.k = 6 then num t.ctl
        else if t.k = 7 then num t.sb.toNat
        else if t.k = 8 then num (sext 32 (bitsOf t.pay.toNat (32 * bitsOf i 5 2) 32))
        else if laneOk w t (bitsOf i 0 5) then fill (lane w t.pay (bitsOf i 0 5), 0)
        else Fire.both c [0] (bare 0))
    | none => none
def execSplat (n : NodeW) (s : State) := fireNode planSplat n s

end Sys2Proof.Machine
end

