-- ==== Sys2Proof/Machine/NodeFlow.lean ====
section
/-!
DEFINITION. The flow nodes of the fabric: loops, conditionals and merges (R63 to R77) and the flow nodes of R240 to R253, with the
early-firing joins (R43, R44, R47).
-/
namespace Sys2Proof.Machine

/-! ### Shared conduct -/

/-- The head of input `i`, or a token of kind DATA where there is none (used only where one is present). -/
def NCx.tok (c : NCx) (i : Nat) : Tok := (c.hd i).getD (bare 0)

/-- POISON in place of a token when a taken input is POISON (R42). -/
def psnIf (p : Bool) (t : Tok) : Tok := if p then poisonTok else t

/-- Whether Anti may be applied to input `i` (R47). -/
def NCx.antiOk (c : NCx) (i : Nat) : Bool := !c.has i || (c.q i).canAnti

/-- The nodes that still await their injected DRAIN, without node `n`. -/
def dropSrc (s : State) (rid n : Nat) : State :=
  modRes s rid fun r => { r with drainSrc := r.drainSrc.filter (· != .node n) }

/-- The injected DRAIN of a source (R52): once it has emitted EOS. -/
def injected (c : NCx) : Option (Option Fire) :=
  match Tab.find? c.s.res c.rid with
  | some r =>
    if r.drainSrc.contains (.node c.n) && c.d.eos && !c.d.drained then
      some (if c.rooms then (drainFire c [] [] false).map fun f => { f with post := fun s => dropSrc s c.rid c.n } else none)
    else none
  | none => none

/-! ### FORK, JOIN, STEER, GATE, DROP, SINK (R72, R242, R244 to R246, R248) -/

/-- FORK (R242): any kind, on both outputs. -/
def planFork (c : NCx) : Option Fire := flowPlan c [0] (fun _ => []) fun c => some (Fire.both c [0] (c.tok 0))
def execFork (n : NodeW) (s : State) := fireNode planFork n s

/-- JOIN (R244): all inputs are taken, the token of IN_A emitted. -/
def planJoin (c : NCx) : Option Fire :=
  let ns := c.needed [0, 1, 2]
  flowPlan c ns (fun _ => []) fun c => some (Fire.both c ns (psnIf (anyPoison c [1, 2]) (c.tok 0)))
def execJoin (n : NodeW) (s : State) := fireNode planJoin n s

/-- STEER (R72): data to OUT_0 on CTRL zero, to OUT_1 otherwise; POISON control to both. -/
def planSteer (c : NCx) : Option Fire :=
  flowPlan c [0, 2] (fun i => if i = 2 then [0, 7, 8] else []) fun c =>
    let t := c.tok 2
    some (if t.k = 9 then Fire.both c [0, 2] poisonTok
      else if t.ctl = 0 then Fire.of c [0, 2] (some (c.tok 0)) none else Fire.of c [0, 2] none (some (c.tok 0)))
def execSteer (n : NodeW) (s : State) := fireNode planSteer n s

/-- GATE (R245): data passes under a nonzero control value, or under zero with INV; POISON control emits POISON. -/
def planGate (c : NCx) : Option Fire :=
  flowPlan c [0, 2] (fun i => if i = 2 then [0, 7, 8] else []) fun c =>
    let t := c.tok 2
    some (if t.k = 9 then Fire.both c [0, 2] poisonTok
      else if (t.ctl != 0) != bitOf c.w.imm.toNat 0 then Fire.both c [0, 2] (c.tok 0) else Fire.of c [0, 2] none none)
def execGate (n : NodeW) (s : State) := fireNode planGate n s

/-- DROP (R246): a token of a kind whose KEEP bit is 1 is forwarded, another discarded. -/
def planDrop (c : NCx) : Option Fire :=
  if badKind c [0] then some (Fire.fault c 0x30)
  else match c.hd 0 with
  | none => none
  | some t =>
    if !c.rooms then none
    else if t.k = 5 then drainFire c [0] [(0, true)] false
    else some (if bitOf c.w.imm.toNat t.k then Fire.both c [0] t else Fire.of c [0] none none)
def execDrop (n : NodeW) (s : State) := fireNode planDrop n s

/-- SINK (R248): every token is discarded. -/
def planSink (c : NCx) : Option Fire := flowPlan c [0] (fun _ => []) fun c => some (Fire.of c [0] none none)
def execSink (n : NodeW) (s : State) := fireNode planSink n s

/-! ### MERGE (R73, R74) -/

/-- Whether the merge works in shared-window mode. -/
def sharedWin (c : NCx) : Bool := c.w.inA == c.w.inB

/-- The oldest token of arm `a`. -/
def armHead (c : NCx) (a : Nat) : Option Tok :=
  if sharedWin c then ((c.q 0).toks.find? fun t => t.arm == a).map (·.tok) else c.hd a

/-- Take the oldest token of arm `a` out of the window; its credit went back at its admission. -/
def winTake (ce id a now : Nat) (s : State) : State :=
  let q := qAt s ce id
  setQ s ce id { q with toks := q.toks.eraseP fun t => t.arm == a, lastTake := some now }

/-- A firing that also takes from the arms `l`. -/
def Fire.arms (f : Fire) (c : NCx) (l : List Nat) : Fire :=
  if sharedWin c then { f with post := fun s => l.foldl (fun u a => winTake c.ce (chanId c.w.inA) a c.now u) (f.post s) }
  else { f with takes := l.map (fun a => (a, false)) ++ f.takes }

/-- MERGE (R73, R74). -/
def planMerge (c : NCx) : Option Fire :=
  if badKind c [2] then some (Fire.fault c 0x30)
  else if c.shows 2 [0, 7, 8] then some (Fire.fault c 0x32)
  else match c.hd 2 with
  | none => none
  | some t =>
    if t.k = 6 ∨ t.k = 9 then
      let a := if t.k = 6 ∧ t.ctl ≠ 0 then 1 else 0
      match armHead c a with
      | none => none
      | some x =>
        if 10 ≤ x.k then some (Fire.fault c 0x30)
        else if x.isDelim ∨ x.k = 1 then some (Fire.fault c 0x31)
        else if x.k = 5 ∨ !c.rooms then none
        else some ((Fire.both c [2] (psnIf (t.k == 9) x)).arms c [a])
    else
      match armHead c 0, armHead c 1 with
      | some x, some y =>
        if x.k = t.k ∧ y.k = t.k ∧ c.rooms then
          (if t.k = 5 then (drainFire c [0, 1, 2] [(2, true)] false).map fun f => f.arms c [0, 1]
           else some ({ delimFire c [] x with takes := [(2, true)] }.arms c [0, 1]))
        else none
      | _, _ => none
def execMerge (n : NodeW) (s : State) := fireNode planMerge n s

/-! ### MUX, ANDE, ORE (R43, R44, R243, R251) -/

/-- Whether some input of a join shows a delimiter, HDR or DRAIN, so that it does not fire early (R44). -/
def joinDelim (c : NCx) (l : List Nat) : Bool := l.any fun i => c.shows i [1, 2, 3, 4, 5]

/-- A firing of an early join: takes, Anti, the token. It does not fire where Anti would meet an empty queue at Debt 63 (R47). -/
def earlyFire (c : NCx) (takes antis : List Nat) (t : Tok) : Option Fire :=
  if antis.all c.antiOk then some { Fire.both c takes t with antis := antis } else none

/-- MUX (R243), early with flag E. -/
def planMux (c : NCx) : Option Fire :=
  let bad := fun i => if i = 2 then [0, 7, 8] else []
  if !c.w.e || joinDelim c [0, 1, 2] then
    flowPlan c [0, 1, 2] bad fun c =>
      some (Fire.both c [0, 1, 2] (psnIf (anyPoison c [0, 1, 2]) (c.tok (if (c.tok 2).ctl = 0 then 0 else 1))))
  else if badKind c [0, 1, 2] then some (Fire.fault c 0x30)
  else if c.shows 2 (bad 2) then some (Fire.fault c 0x32)
  else if !c.rooms then none
  else match c.hd 2 with
  | none => none
  | some t =>
    if t.k = 9 then
      earlyFire c (2 :: [0, 1].filter fun i => (c.hd i).isSome) ([0, 1].filter fun i => (c.hd i).isNone) poisonTok
    else
      let a := if t.ctl = 0 then 0 else 1
      match c.hd a, c.hd (1 - a) with
      | none, _ => none
      | some x, some y => if x.k = 9 ∨ y.k = 9 then earlyFire c [0, 1, 2] [] poisonTok else earlyFire c [2, a] [1 - a] x
      | some x, none => if x.k = 9 then none else earlyFire c [2, a] [1 - a] x
def execMux (n : NodeW) (s : State) := fireNode planMux n s

/-- ANDE and ORE: `dom` is the value that settles the join. -/
def joinPlan (dom : Bool) (c : NCx) : Option Fire :=
  let ns := c.needed [0, 1, 2]
  let isV := fun (v : Bool) (i : Nat) => match c.hd i with | some t => t.k == 6 && ((t.ctl != 0) == v) | none => false
  let out := fun v : Bool => ctrlTok v.toNat
  if !c.w.e || joinDelim c ns then
    flowPlan c ns (fun _ => [0, 7, 8]) fun c =>
      some (Fire.both c ns (psnIf (anyPoison c ns) (out (if ns.any (isV dom) then dom else !dom))))
  else if badKind c ns then some (Fire.fault c 0x30)
  else if ns.any fun i => c.shows i [0, 7, 8] then some (Fire.fault c 0x32)
  else if !c.rooms then none
  else
    let pres := ns.filter fun i => (c.hd i).isSome
    let abs := ns.filter fun i => (c.hd i).isNone
    if pres.any (isV dom) then earlyFire c pres abs (out dom)
    else if !abs.isEmpty then none
    else earlyFire c pres [] (psnIf (anyPoison c ns) (out !dom))

/-- ANDE (R251). -/
def planAnde : NCx → Option Fire := joinPlan false
def execAnde (n : NodeW) (s : State) := fireNode planAnde n s
/-- ORE (R251). -/
def planOre : NCx → Option Fire := joinPlan true
def execOre (n : NodeW) (s : State) := fireNode planOre n s

/-! ### SOURCE and CCHAIN (R63 to R66, R247) -/

/-- The resolved addresses of `n` bytes of a cell's bank from offset `o`. -/
def bankPAs (ce o n : Nat) : List PA := (span (65536 * ce + o) n).map fun a => ⟨.shore, a⟩

/-- The value of bank bytes, and whether any is poisoned. -/
def bankNat (c : NCx) (o n : Nat) : Nat × Bool :=
  let l := bankPAs c.ce o n
  (leNat (l.map (rdPA c.s)), l.any (psnAt c.s))

/-- Whether a pass of a SOURCE runs, and the tokens emitted of it. -/
def sourceSt (c : NCx) : Bool × Nat := match c.d.op with | .source r k => (r, k) | _ => (!c.has 0, 0)

/-- Token `k` of a pass (R247); a poisoned record gives POISON (log entry 33). -/
def sourceTok (c : NCx) (k : Nat) : Tok :=
  let i := c.w.imm.toNat
  let b := bankNat c (bitsOf i 0 16 + 16 * k) 16
  let f := c.w.mode.toNat
  if b.2 then poisonTok
  else match bitsOf i 32 2 with
    | 1 => ctrlTok b.1
    | 2 => mkTok 7 (BitVec.ofNat 128 b.1) (BitVec.ofNat 16 k)
    | _ => mkTok 0 (BitVec.ofNat 128 b.1) (fullMask (fmtWidth f) (fmtLanes f))

/-- The firing that emits token `k` of the pass. -/
def sourceEmit (c : NCx) (takes : List Nat) (k : Nat) : Fire :=
  let last := decide (bitsOf c.w.imm.toNat 16 16 + 1 ≤ k + 1)
  (Fire.both c takes (sourceTok c k)).op (.source (!last) (if last then 0 else k + 1))

/-- A source's EOS. -/
def eosFire (c : NCx) (takes : List Nat) : Fire := { Fire.both c takes eosTok with d := { c.d with eos := true } }

/-- SOURCE (R247). -/
def planSource (c : NCx) : Option Fire :=
  match injected c with
  | some r => r
  | none =>
    let st := sourceSt c
    if c.d.drained then none
    else if badKind c [0] then some (Fire.fault c 0x30)
    else if c.shows 0 [7] then some (Fire.fault c 0x32)
    else if !c.rooms then none
    else if st.1 then some (sourceEmit c [] st.2)
    else if !c.has 0 then (if c.d.eos then none else some (eosFire c []))
    else match c.hd 0 with
      | none => none
      | some t =>
        if t.k = 0 ∨ t.k = 6 ∨ t.k = 8 then some (sourceEmit c [0] 0)
        else if t.k = 9 then some (Fire.both c [0] poisonTok)
        else if t.k = 5 then drainFire c [0] [(0, true)] false
        else some (delimFire c [(0, true)] t)
def execSource (n : NodeW) (s : State) := fireNode planSource n s

/-- The state of a counter chain: pass running, its values, its record, OUTST, the clock of the last IDX, EOT pending, and whether the
pass of the activation is still to come. -/
structure ChainSt where
  run   : Bool
  v     : List Int
  recd  : List (Int × Int × Int)
  outst : Int
  last  : Option Nat
  eot   : Bool
  fresh : Bool

/-- Read the chain's state, and write it. -/
def chainSt (d : Node) : ChainSt :=
  match d.op with
  | .chain r v t o l e f => ⟨r, v, t, o, l, e, f⟩
  | _ => ⟨false, [], [], 0, none, false, true⟩
def ChainSt.op (s : ChainSt) : OpSt := .chain s.run s.v s.recd s.outst s.last s.eot s.fresh

/-- Whether a value lies inside a level (R64): start, bound, step. -/
def insideLv (l : Int × Int × Int) (v : Int) : Bool := if 0 < l.2.2 then decide (v < l.2.1) else decide (l.2.1 < v)

/-- The record of a pass as read from level `j` on: its levels; none for a zero trip; the fault of R80. -/
def chainRead (c : NCx) (base : Nat) : Nat → Nat → Except Nat (Option (List (Int × Int × Int)))
  | 0, _ => .ok (some [])
  | f + 1, j =>
    let a := base + 16 * j
    let s := fun k => sext 32 (bankNat c (a + 4 * k) 4).1
    if s 2 = 0 ∨ s 3 ≠ 0 then .error 0x35
    else if !insideLv (s 0, s 1, s 2) (s 0) then .ok none
    else match chainRead c base f (j + 1) with
      | .ok (some l) => .ok (some ((s 0, s 1, s 2) :: l))
      | r => r

/-- Whether level values up to `j` are all at their starts, or all at their last. -/
def allFirst (s : ChainSt) (j : Nat) : Bool :=
  (span 0 (j + 1)).all fun k => decide (nth 0 s.v k = (nth (0, 0, 0) s.recd k).1)
def atLast (s : ChainSt) (k : Nat) : Bool :=
  !insideLv (nth (0, 0, 0) s.recd k) (nth 0 s.v k + (nth (0, 0, 0) s.recd k).2.2)
def allLast (s : ChainSt) (j : Nat) : Bool := (span 0 (j + 1)).all (atLast s)

/-- The IDX token of the values (R33, R64). -/
def chainTok (s : ChainSt) : Tok :=
  let n := s.recd.length
  mkTok 8 (joinLanes 32 ((span 0 4).map fun k => if k < n then cutInt 32 (nth 0 s.v k) else 0))
    (BitVec.ofNat 16 ((span 0 n).foldl (fun a k =>
      a + (if allFirst s k then 2 ^ k else 0) + (if allLast s k then 2 ^ (k + 4) else 0)) 0))

/-- The lowest level not at its last, from `j` on. -/
def stepLevel (s : ChainSt) : Nat → Nat → Nat
  | 0, j => j
  | f + 1, j => if atLast s j then stepLevel s f (j + 1) else j

/-- The state after an IDX at clock `now` (R64, R65). -/
def chainNext (s : ChainSt) (eotl now : Nat) : ChainSt :=
  let n := s.recd.length
  let done := allLast s (n - 1)
  let j := stepLevel s n 0
  { s with
    outst := s.outst + 1
    last := some now
    eot := decide (eotl ≤ 3) && decide (eotl < n) && allLast s eotl
    run := !done
    v := if done then [] else (s.v.zipIdx).map fun e =>
      if e.2 < j then (nth (0, 0, 0) s.recd e.2).1 else if e.2 = j then e.1 + (nth (0, 0, 0) s.recd j).2.2 else e.1 }

/-- Whether II and LIMIT allow an IDX (R65). -/
def chainGate (c : NCx) (s : ChainSt) : Bool :=
  let i := c.w.imm.toNat
  (bitsOf i 25 6 == 0 || decide (s.outst < bitsOf i 25 6))
    && (match s.last with | some l => decide (l + bitsOf i 16 4 ≤ c.now) | none => true)

/-- An IDX emission by state `s` (with its pass running). -/
def chainIdx (c : NCx) (s : ChainSt) (takes : List Nat) : Fire :=
  (Fire.of c takes (some (chainTok s)) none).op (chainNext s (bitsOf c.w.imm.toNat 22 3) c.now).op

/-- A firing that begins a pass with the inputs `takes`: its first IDX, nothing for a zero trip, or the fault of R80. A poisoned
record gives one POISON (log entry 33). -/
def chainPass (c : NCx) (s : ChainSt) (takes : List Nat) : Option Fire :=
  let i := c.w.imm.toNat
  let n := bitsOf i 20 2 + 1
  let s1 := { s with fresh := false }
  if (bankNat c (bitsOf i 0 16) (16 * n)).2 then some ((Fire.of c takes (some poisonTok) none).op s1.op)
  else match chainRead c (bitsOf i 0 16) n 0 with
    | .error e => some (Fire.fault c e)
    | .ok none => some ((Fire.of c takes none none).op s1.op)
    | .ok (some l) =>
      if chainGate c s then some (chainIdx c { s1 with run := true, v := l.map (·.1), recd := l } takes) else none

/-- What a chain emits in a firing. -/
def chainEmit (c : NCx) (s : ChainSt) : Option Fire :=
  if !c.rooms then none
  else if s.eot then some ((Fire.of c [] (some eotTok) none).op { s with eot := false }.op)
  else if s.run then (if chainGate c s then some (chainIdx c s []) else none)
  else if !c.has 0 then
    (if s.fresh then chainPass c s [] else if c.d.eos then none
     else some { Fire.of c [] (some eosTok) none with d := { c.d with eos := true } })
  else match c.hd 0 with
    | none => none
    | some t =>
      if t.k = 0 ∨ t.k = 6 ∨ t.k = 8 then chainPass c s [0]
      else if t.k = 9 then some (Fire.of c [0] (some poisonTok) none)
      else if t.k = 5 then drainFire c [0] [(0, true)] false
      else some { Fire.of c [0] (some t) none with d := { c.d with eos := c.d.eos || t.k == 4 } }

/-- A firing of the chain with the throttle token at IN_B taken too, one use of it where IN_B is sticky (R41): DATA, CTRL, IDX and POISON lower
OUTST, the rest is discarded. -/
def withThrottle (c : NCx) (f : Fire) : Fire :=
  let s := chainSt f.d
  let k := (c.tok 1).k
  { f with
    takes := f.takes ++ [(1, false)]
    d := f.d.withOp { s with outst := if k = 0 ∨ k = 6 ∨ k = 8 ∨ k = 9 then s.outst - 1 else s.outst }.op }

/-- CCHAIN (R63 to R66, R68). -/
def planCchain (c : NCx) : Option Fire :=
  if c.d.drained then (if c.has 1 && (c.hd 1).isSome then some { Fire.of c [] none none with takes := [(1, true)] } else none)
  else match injected c with
  | some r => r
  | none =>
    if badKind c (c.needed [0, 1]) then some (Fire.fault c 0x30)
    else if (c.needed [0, 1]).any fun i => c.shows i [7] then some (Fire.fault c 0x32)
    else
      let thr := c.has 1 && (c.hd 1).isSome && !c.shows 1 [5]
      match chainEmit c (chainSt c.d) with
      | some f => some (if thr && f.err.isNone && !f.d.drained then withThrottle c f else f)
      | none => if thr then some (withThrottle c (Fire.of c [] none none)) else none
def execCchain (n : NodeW) (s : State) := fireNode planCchain n s

/-! ### CARRY and EXIT (R67 to R69) -/

/-- The constant of a CARRY (R67). For BF16 and FP16, of which R67 says nothing, it is the low 16 bits of IMM, and for FP32 the low 32, whatever
IMM [37:32] holds (log entry 100). -/
def carryConst (w : NodeW) : Tok :=
  let f := w.mode.toNat
  let v := w.imm.toNat % 2 ^ 38
  dataTok (fmtWidth f) [(if f < 8 then wrapT f (sext 38 v) else v % 2 ^ fmtWidth f, true)]

/-- Whether a control token selects the initial source: CTRL zero, IDX with first[LVL], POISON. -/
def carryInit (w : NodeW) (t : Tok) : Bool :=
  t.k == 9 || (t.k == 6 && t.ctl == 0) || (t.k == 8 && bitOf t.sb.toNat (bitsOf w.imm.toNat 38 2))

/-- CARRY (R67, R68); while it holds IN_C at sticky count 15, a delimiter at the IN_A that it selects is matched as R34 gives. -/
def planCarry (c : NCx) : Option Fire :=
  let back : Fire := { Fire.of c [] none none with takes := [(1, true)] }
  if badKind c (c.needed [0, 1, 2]) then some (Fire.fault c 0x30)
  else if c.shows 2 [0, 7] then some (Fire.fault c 0x32)
  else if c.d.drained then (if (c.hd 1).isSome then some back else none)
  else if c.shows 1 [1, 2, 3, 4] then some back
  else match c.hd 2 with
  | none => none
  | some t =>
    let join := fun u => match joinAll c (c.needed [0, 2]) u with
      | .delim k takes v =>
        if !c.rooms then none else if k = 5 then drainFire c (c.needed [0, 1, 2]) takes false else some (delimFire c takes v)
      | .mismatch => some (Fire.fault c 0x31)
      | _ => none
    if t.isDelim ∨ t.k = 1 ∨ t.k = 5 then join t
    else
      let a := if carryInit c.w t then 0 else 1
      if a = 0 ∧ !c.has 0 then (if c.rooms then some (Fire.of c [2] (some (psnIf (t.k == 9) (carryConst c.w))) none) else none)
      else match c.hd a with
        | none => none
        | some x =>
          if c.held 2 && a == 0 && (x.isDelim || x.k == 1 || x.k == 5) then join x
          else if x.isDelim ∨ x.k = 1 then some (Fire.fault c 0x31)
          else if x.k = 5 ∨ !c.rooms then none
          else some (Fire.of c [2, a] (some (psnIf (t.k == 9) x)) none)
def execCarry (n : NodeW) (s : State) := fireNode planCarry n s

/-- Whether an EXIT is in FLUSH. -/
def exitFlush (d : Node) : Bool := match d.op with | .exit b => b | _ => false

/-- EXIT (R69). DRAIN at IN_C waits for DRAIN at IN_A and IN_B as R53 says, also behind a delimiter or HDR that heads one of them: the fault of R69
for another kind at IN_C is not raised for DRAIN (log entry 101). -/
def planExit (c : NCx) : Option Fire :=
  if badKind c [0, 1, 2] then some (Fire.fault c 0x30)
  else if c.shows 0 [0, 7, 8] || c.shows 2 [0, 6, 7] then some (Fire.fault c 0x32)
  else match c.hd 2 with
  | none => none
  | some i =>
    let isD := fun t : Tok => t.isDelim || t.k == 1
    let other := fun j => match c.hd j with | some t => isD t && t.k != i.k | none => false
    if i.k ≠ 5 ∧ (other 0 || other 1) then some (Fire.fault c 0x31)
    else if !c.rooms then none
    else if isD i || i.k == 5 then
      match joinAll c [0, 1, 2] i with
      | .delim k takes t =>
        if k = 5 then drainFire c [0, 1, 2] takes false
        else some ((delimFire c takes t).op (if k = 2 then .none else c.d.op))
      | _ => none
    else
      let lastIt := i.k == 8 && bitOf i.sb.toNat (4 + bitsOf c.w.imm.toNat 0 2)
      if exitFlush c.d then
        if c.antiOk 0 && c.antiOk 1 then
          some ({ Fire.of c [2] none none with antis := [0, 1] }.op (.exit (!lastIt)))
        else none
      else match c.hd 0, c.hd 1 with
        | some t, some x =>
          if t.k = 5 ∨ x.k = 5 then none
          else
            let p := x.k == 9 || i.k == 9
            if t.k = 9 then some ((Fire.both c [0, 1, 2] poisonTok).op (.exit true))
            else if t.ctl ≠ 0 ∨ lastIt then
              some ((Fire.of c [0, 1, 2] (some (psnIf p x)) (some (psnIf p (ctrlTok 0)))).op (.exit (!lastIt)))
            else some (Fire.of c [0, 1, 2] none (some (psnIf p (ctrlTok 1))))
        | _, _ => none
def execExit (n : NodeW) (s : State) := fireNode planExit n s

/-! ### CTXSEL (R77) -/

/-- The latch of a CTXSEL and the firings of the phase. -/
def ctxselSt (c : NCx) : Bool × Nat := match c.d.op with | .ctxsel l n => (l, n) | _ => (bitOf c.w.imm.toNat 2, 0)

/-- CTXSEL (R77). -/
def planCtxsel (c : NCx) : Option Fire :=
  let i := c.w.imm.toNat
  let st := ctxselSt c
  let first := bitOf i 3
  if first && decide (0 < st.2 ∧ st.2 < bitsOf i 4 8 + 1) && ((c.hd 0).isNone || c.shows 0 [6, 9]) then
    (if c.antiOk 0 then some ({ Fire.of c [] none none with antis := [0] }.op (.ctxsel st.1 (st.2 + 1))) else none)
  else
    flowPlan c [0] (fun _ => [0, 7, 8]) fun c =>
      let t := c.tok 0
      let v := if t.k = 9 then bitOf i 2 else decide (t.ctl ≠ 0)
      some ((Fire.of c [0] none none).op (.ctxsel (if first && st.2 != 0 then st.1 else v) (st.2 + 1)))
def execCtxsel (n : NodeW) (s : State) := fireNode planCtxsel n s

/-! ### TILE, ISECT, UNION, SQUASH (R249, R250, R252) -/

/-- The counts of a TILE. -/
def tileSt (d : Node) : Nat × Nat := match d.op with | .tile a b => (a, b) | _ => (0, 0)

/-- Both outputs the same, as a pending pair. -/
def pair2 (t : Tok) : Option Tok × Option Tok := (some t, some t)

/-- TILE (R249). -/
def planTile (c : NCx) : Option Fire :=
  let i := c.w.imm.toNat
  let fib := bitOf i 32
  match pendFire c with
  | some r => r
  | none =>
    if badKind c [0] then some (Fire.fault c 0x30)
    else if c.shows 0 [3] then some (Fire.fault c 0x32)
    else match c.hd 0 with
    | none => none
    | some t =>
      let st := tileSt c.d
      if !c.rooms then none
      else if t.k = 5 then drainFire c [0] [(0, true)] false
      else if t.k = 0 ∨ t.k = 9 then
        if st.1 + 1 = bitsOf i 0 16 + 1 then
          let f := st.2 + 1
          let wrap := decide (f = bitsOf i 16 16 + 1)
          some (((Fire.both c [0] t).pending ((if fib then [pair2 (eofTok st.2)] else []) ++ (if wrap then [pair2 eotTok] else []))).op
            (.tile 0 (if wrap then 0 else f)))
        else some ((Fire.both c [0] t).op (.tile (st.1 + 1) st.2))
      else if t.k = 2 ∨ t.k = 4 then
        some (((Fire.of c [0] none none).pending ((if 0 < st.1 && fib then [pair2 (eofTok st.2)] else []) ++ [pair2 t])).op .none)
      else some (Fire.both c [0] t)
def execTile (n : NodeW) (s : State) := fireNode planTile n s

/-- The coordinates last taken on each input. -/
def fibreSt (d : Node) : Option Nat × Option Nat := match d.op with | .fibre a b => (a, b) | _ => (none, none)

/-- Whether a COORD does not rise above the coordinate last taken. -/
def notRising (l : Option Nat) (t : Tok) : Bool := t.k == 7 && (match l with | some x => decide (t.sb.toNat ≤ x) | none => false)

/-- A COORD token with payload zero. -/
def zeroAt (t : Tok) : Tok := mkTok 7 0 t.sb

/-- ISECT and UNION (R250): `u` for UNION. POISON at both heads is taken in one firing, which emits one POISON on each output (log entry 140). -/
def fibrePlan (u : Bool) (c : NCx) : Option Fire :=
  let ns := [0, 1]
  if badKind c ns then some (Fire.fault c 0x30)
  else if ns.any fun i => c.shows i [0, 6, 8] then some (Fire.fault c 0x32)
  else match c.hd 0, c.hd 1 with
  | some a, some b =>
    let st := fibreSt c.d
    let onlyA : Fire :=
      (if u then Fire.of c [0] (some a) (some (zeroAt a)) else Fire.of c [0] none none).op (.fibre (some a.sb.toNat) st.2)
    let onlyB : Fire :=
      (if u then Fire.of c [1] (some (zeroAt b)) (some b) else Fire.of c [1] none none).op (.fibre st.1 (some b.sb.toNat))
    if notRising st.1 a || notRising st.2 b then some (Fire.fault c 0x39)
    else if !c.rooms then none
    else if a.k = 9 ∨ b.k = 9 then some (Fire.both c (ns.filter fun i => c.shows i [9]) poisonTok)
    else if a.k = 7 ∧ b.k = 7 then
      if a.sb.toNat < b.sb.toNat then some onlyA
      else if b.sb.toNat < a.sb.toNat then some onlyB
      else some ((Fire.of c ns (some a) (some b)).op (.fibre (some a.sb.toNat) (some b.sb.toNat)))
    else if a.k = 3 ∧ b.k = 7 then some onlyB
    else if a.k = 7 ∧ b.k = 3 then some onlyA
    else if a.k = 3 ∧ b.k = 3 then some ((Fire.both c ns a).op .none)
    else match heads c true ns with
      | .delim k takes t => if k = 5 then drainFire c ns takes false else some (delimFire c takes t)
      | .mismatch => some (Fire.fault c 0x31)
      | _ => none
  | _, _ => none

/-- ISECT (R250). -/
def planIsect : NCx → Option Fire := fibrePlan false
def execIsect (n : NodeW) (s : State) := fireNode planIsect n s
/-- UNION (R250). -/
def planUnion : NCx → Option Fire := fibrePlan true
def execUnion (n : NodeW) (s : State) := fireNode planUnion n s

/-- Position and count of a SQUASH. -/
def squashSt (d : Node) : Nat × Nat := match d.op with | .squash j n => (j, n) | _ => (0, 0)

/-- The rest of a SQUASH firing at position `j` under count `n`, taking `takes` and emitting `o1` on OUT_1. -/
def squashRest (c : NCx) (takes : List Nat) (o1 : Option Tok) (j n : Nat) : Option Fire :=
  let d := bitsOf c.w.imm.toNat 0 6 + 1
  let st : OpSt := if j + 1 = d then .none else .squash (j + 1) n
  if c.shows 1 [1, 2, 3, 4] then some (Fire.fault c 0x31)
  else if o1.isSome && !c.room c.w.out1 then none
  else if j < n then
    match c.hd 1 with
    | some x => if x.k = 5 ∨ !c.room c.w.out0 then none else some ((Fire.of c (takes ++ [1]) (some x) o1).op st)
    | none => none
  else if c.antiOk 1 && !c.shows 1 [5] then some ({ Fire.of c takes none o1 with antis := [1] }.op st)
  else none

/-- SQUASH (R252); while it holds IN_A at sticky count 15, a delimiter at IN_B before a bundle is matched as R34 gives. -/
def planSquash (c : NCx) : Option Fire :=
  let join := fun t => match joinAll c [0, 1] t with
    | .delim k takes u => if !c.rooms then none else if k = 5 then drainFire c [0, 1] takes false else some (delimFire c takes u)
    | .mismatch => some (Fire.fault c 0x31)
    | _ => none
  if badKind c [0, 1] then some (Fire.fault c 0x30)
  else if c.shows 0 [0, 7, 8] then some (Fire.fault c 0x32)
  else
    let st := squashSt c.d
    if 0 < st.1 then squashRest c [] none st.1 st.2
    else match c.hd 0 with
    | none => none
    | some t =>
      if t.isDelim ∨ t.k = 1 ∨ t.k = 5 then join t
      else if c.held 0 && c.shows 1 [1, 2, 3, 4, 5] then (c.hd 1).bind join
      else
        let n := if t.k = 9 then 0 else min t.ctl (bitsOf c.w.imm.toNat 0 6 + 1)
        squashRest c [0] (if isNone c.w.out1 then none else some (psnIf (t.k == 9) (ctrlTok n))) 0 n
def execSquash (n : NodeW) (s : State) := fireNode planSquash n s

/-! ### SYNC (R253) -/

/-- Whether a port node of the cell's context names port `p`. -/
def namesPort (s : State) (ce : Nat) (ctx : Option Nat) (p : Nat) : Bool :=
  match ctx with
  | some k => (span 0 16).any fun j =>
      let w := (nodeWords s ce k j).1
      decide (0x83 ≤ nodeOpc w ∧ nodeOpc w ≤ 0x86) && bitsOf w.toNat 0 8 == 0x40 + p
  | none => false

/-- Whether access `a` was issued by a memory node of cell `ce`, or by a port or a job for a port node of it. An access of a node without V is issued by
its firing, also where it still waits for a walk; one with V once its wave record has been accepted (R265); an element diverted to a backwash has not
been issued. -/
def issuedByCell (s : State) (ce : Nat) (ctx : Option Nat) (a : Acc) : Bool :=
  match a.ag with
  | .node n => n / 16 == ce && (a.issued || (match ctx with | some k => !(nodeFields (nodeWords s ce k (n % 16)).1).v | none => false))
  | .port cv p => a.issued && cv == ce / 16 && namesPort s ce ctx p
  | .job j =>
    (match Tab.find? s.jobs j with
    | some d => a.issued && d.cv == ce / 16 && namesPort s ce ctx d.port
    | none => false)
  | _ => false

/-- SYNC (R253): a signal takes its token, which it holds until the accesses issued before that firing are performed; the firing that then emits it, the
same one when there are none, credits the barrier. Wait is ready only while the barrier reads 0, for delimiters too. -/
def planSync (c : NCx) : Option Fire :=
  let i := c.w.imm.toNat
  let b := bitsOf i 32 6
  let credits := fun f : Fire => { f with post := fun s => creditBar s c.cv b (bitsOf i 0 32) }
  match c.d.pend with
  | (x, y) :: _ =>
    if !c.rooms || c.s.accs.any (fun a => (c.d.marks.head?.getD []).contains a.id) then none
    else some (credits { Fire.of c [] x y with d := { c.d with pend := [], marks := [] } })
  | [] =>
    if c.w.mode = 1 && c.s.bar c.cv b != 0 then (if badKind c [0] then some (Fire.fault c 0x30) else none)
    else flowPlan c [0] (fun _ => []) fun c =>
      let f := Fire.both c [0] (c.tok 0)
      let ids := (c.s.accs.filter (issuedByCell c.s c.ce (activeOf c.s c.rid))).map (·.id)
      if c.w.mode = 1 then some f
      else if ids.isEmpty then some (credits f)
      else some { Fire.of c [0] none none with d := { c.d with pend := [(some (c.tok 0), some (c.tok 0))], marks := [ids] } }
def execSync (n : NodeW) (s : State) := fireNode planSync n s

end Sys2Proof.Machine
end

