-- ==== Sys2Proof/Machine/NodeMem.lean ====
section
/-!
DEFINITION. The memory and port nodes of the fabric (R254 to R263), their replies, their wave records (R264), the writes of write
ports (R185, R187), and what an anti-token does at its producer (R48, R50, R267, R347).
-/
namespace Sys2Proof.Machine

/-! ### Replies, ORD marks, wave records -/

/-- The ORD node that reads the channel of endpoint `id` of cell `ce`, if one does. -/
def ordAfter (s : State) (rid ce id : Nat) : Option Nat :=
  if 0x20 ≤ id ∧ id ≤ 0x3F then
    match endpAt s (32 * ce + (id - 0x20)), activeOf s rid with
    | some e, some ctx =>
      let cd := e.dst / 32
      ((span 0 16).find? fun k =>
        let w := nodeWords s cd ctx k
        w.1.toNat / 2 ^ 120 == 0x89 && chanId (nodeFields w.1).inA == e.dst % 32).map fun k => 16 * cd + k
    | _, _ => none
  else none

/-- Note at the ORD nodes behind the outputs of `w` the accesses that a token emitted now stands for (R263). -/
def ordMark (s : State) (rid ce : Nat) (w : NodeW) (ids : List Nat) : State :=
  [chanId w.out0, chanId w.out1].foldl (fun t i =>
    match ordAfter t rid ce i with
    | some n => let d := t.node n; t.setNode n { d with marks := d.marks ++ [ids] }
    | none => t) s

/-- Send a wave record of node `n` (R264); none is a null record. -/
def pushWave (s : State) (n : Nat) (w : NodeW) (acc : Option Nat) : State :=
  let c := s.cell (n / 16)
  let i := w.imm.toNat
  s.setCell (n / 16) { c with
    wRecs := c.wRecs ++ [⟨n, bitsOf i 34 6, bitsOf i 28 6, bitsOf i 22 6, acc, c.wSeq⟩], wSeq := c.wSeq + 1 }

/-- A settle marker on an output, in the place of a token that Sent has counted. -/
def sendSettle (s : State) (ce : Nat) (f : BitVec 12) : State :=
  let i := chanId f
  if 0x20 ≤ i ∧ i ≤ 0x3F then detCell (sendPkt s (32 * ce + (i - 0x20)) (cvOfCe ce) .settle) ce .fs else s

/-- Count a load at an output of an LD (R49, R50). -/
def countLoad (s : State) (ce : Nat) (f : BitVec 12) : State :=
  let i := chanId f
  if 0x20 ≤ i ∧ i ≤ 0x3F then
    match endpAt s (32 * ce + (i - 0x20)) with
    | some e => setEndp s (32 * ce + (i - 0x20)) { e with sent := e.sent + 1, dout := e.dout - 1 }
    | none => s
  else s

/-- Whether the oldest reply can be emitted: it is back, and there is space for it. -/
def headReady (d : Node) (rooms : Bool) : Bool :=
  match d.reps with
  | r :: _ => r.acc.isNone && (r.settle || (r.tok.isSome && rooms))
  | [] => false

/-- The replies of a node without the oldest, and without the places of cancelled loads that follow it. -/
def Node.popRep (d : Node) : Node :=
  let t := (d.reps.drop 1).dropWhile (·.gone)
  { d with reps := t, emitted := d.emitted + (d.reps.length - t.length) }

/-- Emit the oldest reply of node `n` (R256). An ORD behind it waits for the accesses issued: those of a V node once accepted (R263, R265). -/
def emitHead (s : State) (n rid : Nat) (w : NodeW) (ld : Bool) : State :=
  let d := s.node n
  let ce := n / 16
  match d.reps with
  | r :: _ =>
    let s1 := s.setNode n d.popRep
    if r.settle then sendSettle (sendSettle s1 ce w.out0) ce w.out1
    else
      let s2 := emitOpt (emitOpt s1 ce (!ld) w.out0 r.tok) ce (!ld) w.out1 r.tok
      ordMark s2 rid ce w (((accsOf s (.node n)).filter fun a => a.issued || !w.v).map (·.id))
  | [] => s

/-! ### Issue -/

/-- What the issue part of a memory node's firing does: an access, of no byte for a token that only waits for its place in the wave chain, or no
access, with a null record of a V node (R264). -/
inductive MemDo where
  | acc (va : Word) (len : Nat) (k : AccKind)
  | pseudo
  | null

/-- The issue part: inputs taken, what is issued, the token known already; `rep` says whether a reply place is kept. -/
structure Issue where
  takes : List (Nat × Bool)
  act   : MemDo
  tok   : Option Tok
  rep   : Bool

/-- Perform the issue part at node `n`. -/
def doIssue (s : State) (n rid : Nat) (w : NodeW) (ld : Bool) (i : Issue) : State :=
  let ce := n / 16
  let s1 := if ld && i.rep then countLoad (countLoad s ce w.out0) ce w.out1 else s
  let addRep := fun (t : State) (a : Option Nat) =>
    if i.rep then let d := t.node n; t.setNode n { d with reps := d.reps ++ [⟨a, i.tok, 0, false, false⟩] } else t
  match i.act with
  | .acc va len k =>
    let r := addAcc s1 (.node n) rid va len k [] false 0
    let s2 := addRep r.1 (some r.2)
    let s3 := if w.v then pushWave s2 n w (some r.2) else s2
    match s3.accs.find? fun a => a.id == r.2 with
    | some a => retryNode s3 n a
    | none => s3
  | .pseudo =>
    let r := addAcc s1 (.node n) rid 0 0 (.rd 0) [(⟨.hbm, 0⟩, 0)] false 0
    pushWave (addRep (detUp r.1 rid ce .ms) (some r.2)) n w (some r.2)
  | .null =>
    let s2 := addRep s1 none
    if w.v then pushWave s2 n w none else s2

/-- A firing of a memory node: its issue part, its emission part, or both (R256); a token known at issue leaves in the same firing when
no reply is before it. The issue part goes first, so that an ORD behind a reply also waits for the access of the firing that emits it
(R263). -/
def memFire (c : NCx) (ld : Bool) (i : Option Issue) : Option Fire :=
  let ready := headReady c.d c.rooms
  match i with
  | none =>
    if ready then some { Fire.of c [] none none with post := fun s => emitHead s c.n c.rid c.w ld } else none
  | some x =>
    some { Fire.of c [] none none with
      takes := x.takes
      post := fun s =>
        let s1 := doIssue s c.n c.rid c.w ld x
        if ready || (c.d.reps.isEmpty && headReady (s1.node c.n) c.rooms) then emitHead s1 c.n c.rid c.w ld else s1 }

/-- Whether the node may issue: it is not frozen, its last access is translated, and it has fewer than 32 replies outstanding (R294), a settle marker
or a cancelled load being none. -/
def mayIssue (c : NCx) : Bool :=
  c.d.frozen.isNone && decide ((c.d.reps.filter fun r => !r.settle && !r.gone).length < 32) && !((accsOf c.s (.node c.n)).any fun a => a.segs.isEmpty)

/-- A fatal address fault of a node's access. -/
def nodeAddrFault (c : NCx) (k : AccKind) (va : Word) (cause : Nat) : Fire :=
  { Fire.of c [] none none with post := fun s => agentAddrFault s (.node c.n) c.rid k.code va cause }

/-- The issue of an access that R13 to R18 and R255 allow, or its fault. -/
def accIssue (c : NCx) (takes : List (Nat × Bool)) (va : Word) (len unit : Nat) (k : AccKind) (tok : Option Tok) (rep : Bool) :
    Except Fire Issue :=
  match classify c.s (rtOf c.s c.rid false) va len k.needs.2 with
  | .error e => .error (nodeAddrFault c k va e)
  | .ok _ => if va.toNat % unit ≠ 0 then .error (Fire.fault c 0x3A) else .ok ⟨takes, .acc va len k, tok, rep⟩

/-- The forwarding of DRAIN by a memory node, which sends a record as each of its firings does (R264, log entry 36). -/
def drainRecord (c : NCx) (f : Fire) : Fire :=
  if c.w.v && f.err.isNone then { f with post := fun s => pushWave s c.n c.w none } else f

/-- The conduct of LD, ST, ATOM and DIRTY: delimiters keep the order of replies and send a null record (R264, log entry 36), POISON issues no access
(R255), DATA issues by `f`; `free` says whether the issue part needs no space. -/
def memPlan (c : NCx) (ld free : Bool) (l : List Nat) (rep : Bool) (f : List (Nat × Bool) → Except Fire Issue) : Option Fire :=
  let ns := c.needed l
  let idle := memFire c ld none
  if badKind c ns then some (Fire.fault c 0x30)
  else if ns.any fun i => c.shows i [6, 7, 8] then some (Fire.fault c 0x32)
  else match heads c true ns with
  | .wait => idle
  | .mismatch => some (Fire.fault c 0x31)
  | .delim k takes t =>
    if k = 5 then
      (if c.d.reps.isEmpty && c.rooms && !((c.s.cell c.ce).wRecs.any fun r => r.node == c.n) then (drainFire c ns takes false).map (drainRecord c) else idle)
    else if mayIssue c && (free || c.rooms) then memFire c ld (some ⟨takes, .null, some t, rep⟩)
    else idle
  | .data =>
    if !mayIssue c || !(free || c.rooms) then idle
    else
      let takes := ns.map fun i => (i, false)
      if anyPoison c ns then memFire c ld (some ⟨takes, .null, some poisonTok, rep⟩)
      else match f takes with
        | .ok i => memFire c ld (some i)
        | .error e => some e

/-- The address operand of input `i` (R255). -/
def addrOf (c : NCx) (i : Nat) : Word := if c.has i then (c.tok i).pay.extractLsb' 0 64 else 0

/-- Whether a node has an output to emit replies on. -/
def hasOut (c : NCx) : Bool := !isNone c.w.out0 || !isNone c.w.out1

/-! ### LD, ST, ATOM, DIRTY (R257 to R259, R262) -/

/-- LD (R257). -/
def planLd (c : NCx) : Option Fire :=
  let w := fmtWidth c.w.mode.toNat / 8
  let n := memLanes c.w * w
  memPlan c true true [0, 1] (hasOut c) fun takes =>
    accIssue c takes (addrOf c 0 + addrOf c 1) n w (.rd n) none (hasOut c)
def execLd (n : NodeW) (s : State) := fireNode planLd n s

/-- The bytes that the valid lanes below `lanes` of a token write, by their offset (R185, R258). -/
def laneBytes (w lanes : Nat) (t : Tok) : List (Nat × Byte) :=
  ((span 0 lanes).filter (laneOk w t)).flatMap fun k =>
    (span 0 (w / 8)).map fun b => (k * (w / 8) + b, t.pay.extractLsb' (w * k + 8 * b) 8)

/-- ST (R258). -/
def planSt (c : NCx) : Option Fire :=
  let w := fmtWidth c.w.mode.toNat
  memPlan c false false [0, 1, 2] (hasOut c) fun takes =>
    let bs := laneBytes w (memLanes c.w) (c.tok 1)
    if bs.isEmpty then .ok ⟨takes, .null, some (ctrlTok 1), hasOut c⟩
    else accIssue c takes (addrOf c 0 + addrOf c 2) (memLanes c.w * (w / 8)) (w / 8) (.wr bs) (some (ctrlTok 1)) (hasOut c)
def execSt (n : NodeW) (s : State) := fireNode planSt n s

/-- ATOM (R259). -/
def planAtom (c : NCx) : Option Fire :=
  let f := c.w.mode.toNat
  let w := fmtWidth f
  memPlan c false true [0, 1, 2] (hasOut c) fun takes =>
    if !laneOk w (c.tok 1) 0 || (c.has 2 && !laneOk w (c.tok 2) 0) then .ok ⟨takes, .null, some (bare 0), hasOut c⟩
    else accIssue c takes (addrOf c 0) (w / 8) (w / 8)
      (.rmw (bitsOf c.w.imm.toNat 8 4) f (BitVec.ofNat 64 (lane w (c.tok 1).pay 0))
        (if c.has 2 then BitVec.ofNat 64 (lane w (c.tok 2).pay 0) else 0)) none (hasOut c)
def execAtom (n : NodeW) (s : State) := fireNode planAtom n s

/-- DIRTY (R262). -/
def planDirty (c : NCx) : Option Fire :=
  memPlan c false true [0, 1] (hasOut c) fun takes =>
    if !laneOk 32 (c.tok 1) 0 then .ok ⟨takes, .null, some (ctrlTok 0), hasOut c⟩
    else accIssue c takes (addrOf c 0 + BitVec.ofNat 64 (2 * lane 32 (c.tok 1).pay 0)) 2 2
      (.dirty (bitsOf c.w.imm.toNat 8 4) (bitOf c.w.imm.toNat 12)) none (hasOut c)
def execDirty (n : NodeW) (s : State) := fireNode planDirty n s

/-- The token that a node's reply makes of what its access returned (R257, R259, R262, R363). -/
def replyTok (w : NodeW) (k : AccKind) (data : List Byte) (psn : Bool) : Tok :=
  if psn then poisonTok
  else match k with
    | .rd _ => bytesTok (fmtWidth w.mode.toNat) (memLanes w) data
    | .dirty b _ => ctrlTok (bitOf (leNat data) b).toNat
    | _ => mkTok 0 (BitVec.ofNat 128 (leNat data)) 1

/-! ### COPYFIRE and ORD (R261, R263) -/

/-- COPYFIRE (R261): with V each token waits until its wave record is accepted and the chain's earlier accesses are performed. -/
def planCopyfire (c : NCx) : Option Fire :=
  if badKind c [0] then some (Fire.fault c 0x30)
  else match c.hd 0 with
  | none => memFire c false none
  | some t =>
    if t.k = 5 then
      (if c.d.reps.isEmpty && c.rooms then
        (drainFire c [0] [(0, true)] false).bind fun f =>
          if c.w.v && f.err.isNone then
            (memFire c false (some ⟨[(0, true)], .pseudo, some t, true⟩)).map fun g => { g with d := f.d }
          else some f
       else memFire c false none)
    else if !c.w.v then (if c.rooms then some (Fire.of c [0] (some t) none) else none)
    else if !mayIssue c then memFire c false none
    else memFire c false (some ⟨[(0, false)], .pseudo, some t, true⟩)
def execCopyfire (n : NodeW) (s : State) := fireNode planCopyfire n s

/-- ORD (R263): a token passes once the accesses it stands for are performed. -/
def planOrd (c : NCx) : Option Fire :=
  if badKind c [0] then some (Fire.fault c 0x30)
  else match c.hd 0 with
  | none => none
  | some t =>
    let ids := c.d.marks.head?.getD []
    if !c.rooms || c.s.accs.any (fun a => ids.contains a.id) then none
    else if t.k = 5 then drainFire c [0] [(0, true)] false
    else some { Fire.both c [0] t with d := { c.d with marks := c.d.marks.drop 1 } }
def execOrd (n : NodeW) (s : State) := fireNode planOrd n s

/-! ### Read ports (R260) -/

/-- The port that a port node names. -/
def portOf (w : NodeW) : Nat := bitsOf w.imm.toNat 0 8 - 0x40

/-- The port once it has delivered token `t`, with `r` left: it counts for its binding, but for what is left of an earlier one (R173). -/
def Port.gave (p : Port) (r : List (Tok × List Nat)) (t : Tok) : Port :=
  if p.old then { p with buf := r, old := false } else { p with buf := r, dlv := p.dlv + 1, eos := p.eos || t.k == 4 }

/-- PIN and GATHER: the next token that the port delivers; an ORD behind them waits for the reads of the elements before it (R263, R297). -/
def readPlan (c : NCx) : Option Fire :=
  match injected c with
  | some r => r
  | none =>
    if c.d.drained || !c.rooms then none
    else match (c.s.port c.cv (portOf c.w)).buf with
      | [] => none
      | (t, ids) :: r => some { Fire.both c [] t with
          d := { c.d with eos := c.d.eos || t.k == 4 }
          post := fun s =>
            let p := s.port c.cv (portOf c.w)
            let s1 := s.setPort c.cv (portOf c.w) (p.gave r t)
            ordMark (detPass s1 c.rid (detUnit c.cv (portOf c.w)) c.ce) c.rid c.ce c.w ids }

/-- PIN (R260). -/
def planPin : NCx → Option Fire := readPlan
def execPin (n : NodeW) (s : State) := fireNode planPin n s
/-- GATHER (R260). -/
def planGather : NCx → Option Fire := readPlan
def execGather (n : NodeW) (s : State) := fireNode planGather n s

/-! ### Write ports (R185, R187, R260) -/

/-- The counters after an element: the next element's, and whether the pattern has ended (R185). -/
def nextIdx : List Nat → List Nat → List Nat × Bool
  | i :: is, d :: ds => if i + 1 < d then ((i + 1) :: is, false) else let r := nextIdx is ds; (0 :: r.1, r.2)
  | is, _ => (is, true)

/-- A pointer as the device reports it: a shore address resolved, with REL clear (R15). -/
def reported (va : Word) (segs : List (PA × Nat)) : Word :=
  match segs with
  | (⟨.shore, off⟩, _) :: _ => BitVec.ofNat 64 (2 ^ 62 + off)
  | _ => va

/-- The smaller and the greater of an optional pointer and another. -/
def minPtr (a : Option Word) (b : Word) : Option Word := match a with | some x => some (if b.toNat < x.toNat then b else x) | none => some b
def maxPtr (a : Option Word) (b : Word) : Option Word := match a with | some x => some (if x.toNat < b.toNat then b else x) | none => some b

/-- Whether a token of a write port has something to write: no POISON, and a valid lane below `lanes`. -/
def Tok.carries (t : Tok) (w lanes : Nat) : Bool := t.k == 0 && !(laneBytes w lanes t).isEmpty

/-- The access that a token makes at its element: a write, an atomic add of a scatter, or none. -/
def elemKind (b : Bind) (op : Nat) (t : Tok) : Option AccKind :=
  let w := fmtWidth b.fmt
  let bs := laneBytes w b.lanes t
  if !t.carries w b.lanes then none
  else if b.kind = 3 ∧ op = 1 then some (.fadd b.fmt b.lanes t.pay t.sb)
  else some (.wr bs)

/-- A waiting record with COUNT set, where it is agent `a`'s. -/
def waitCount (a : Agent) (n : Nat) (e : Rec × Option Agent × List (Nat × Nat)) : Rec × Option Agent × List (Nat × Nat) :=
  if e.2.1 = some a then ({ e.1 with count := n }, e.2) else e

/-- COUNT of a job's record follows the entries of its backwash queue (R351, R342, log entry 75). -/
def jobCount (s : State) (j : Nat) : State :=
  match Tab.find? s.jobs j with
  | none => s
  | some d =>
    match d.record with
    | none => s
    | some 4096 => { s with recs := { s.recs with wait := s.recs.wait.map (waitCount (.job j) d.bw.length) } }
    | some idx => setRecCount s idx d.bw.length

/-- A write port takes the token of its next element, whose address and translation it holds: the access, its wave record, its credit,
and the counters of the element after it. An element with no segment goes to the job's backwash; one whose index is poisoned has a segment
of no byte and writes nothing (log entry 41). D counts the elements alone (log entry 126), a scatter its DATA tokens, the
j-th of which goes to index j (R187). -/
def takeElem (s : State) (n rid : Nat) (w : NodeW) (cv p : Nat) (b : Bind) (va : Word) (segs : List (PA × Nat)) (t : Tok) : State :=
  let q := s.port cv p
  let size := b.lanes * (fmtWidth b.fmt / 8)
  let op := match b.job with | some j => (match Tab.find? s.jobs j with | some d => d.op | none => 0) | none => 0
  let ag : Agent := match b.job with | some j => .job j | none => .port cv p
  let k := if segs.any (fun e => e.2 == 0) then none else elemKind b op t
  let r : State × Option Nat := match k with
    | some k =>
      let tag := match b.job.bind (Tab.find? s.jobs) with | some d => d.pos | none => q.dlv
      let r := addAcc s ag rid va size k (routeSegs s segs) (!w.v && !segs.isEmpty) tag
      (if segs.isEmpty then r.1 else detUp r.1 rid (detKey r.1 ag) .ms, some r.2)
    | none => (s, none)
  let s1 := if w.v then pushWave r.1 n w r.2 else r.1
  let s2 := match b.bar with | some k => sendCredit s1 cv k size r.2.toList | none => s1
  let s3 := match segs.isEmpty, r.2, b.job with
    | true, some id, some j => jobCount { s2 with jobs := Tab.modify s2.jobs j fun d => { d with bw := d.bw ++ [id] } } j
    | _, _, _ => s2
  let s4 := match b.job with
    | some j => if t.k = 0 then { s3 with jobs := Tab.modify s3.jobs j fun d => { d with pos := d.pos + 1 } } else s3
    | none => s3
  let nx := nextIdx b.idx b.dims
  s4.setPort cv p { q with
    bind := some { b with idx := nx.1, fin := nx.2 }
    dlv := q.dlv + 1
    rdy := none }

/-- The accesses of a write port and its job that are in flight. -/
def portAccs (s : State) (cv p : Nat) : List Acc :=
  accsOf s (.port cv p) ++ (match (s.port cv p).bind with
    | some b => (match b.job with | some j => accsOf s (.job j) | none => [])
    | none => [])

/-- A firing that hands its token to the port, then emits it; `g` is what the port does. -/
def handFire (c : NCx) (t : Tok) (g : State → State) : Option Fire :=
  some { Fire.both c [0] t with
    post := fun s =>
      let s1 := g (detPass s c.rid c.ce (detUnit c.cv (portOf c.w)))
      ordMark s1 c.rid c.ce c.w ((portAccs s1 c.cv (portOf c.w)).map (·.id)) }

/-- POUT and SCATTER (R260): the token is handed to the port, which treats it under R185, R187 and R188, and emitted. -/
def writePlan (c : NCx) : Option Fire :=
  let p := portOf c.w
  let q := c.s.port c.cv p
  if badKind c [0] then some (Fire.fault c 0x30)
  else if c.shows 0 [6, 7, 8] then some (Fire.fault c 0x32)
  else match c.hd 0 with
  | none => none
  | some t =>
    if !c.rooms then none
    else match q.bind with
    | none =>
      if t.k = 5 then drainFire c [0] [(0, true)] false
      else if t.k = 0 ∨ t.k = 9 then none
      else handFire c t id
    | some b =>
      if q.frozen.isSome then none
      else if t.k = 5 then (if (portAccs c.s c.cv p).isEmpty then drainFire c [0] [(0, true)] false else none)
      else if t.k = 0 ∨ t.k = 9 then
        if b.fin then some (Fire.fault c 0x37)
        else if !t.carries (fmtWidth b.fmt) b.lanes then handFire c t fun s => takeElem s c.n c.rid c.w c.cv p b 0 [] t
        else match q.rdy with
          | some (va, segs) => handFire c t fun s => takeElem s c.n c.rid c.w c.cv p b va segs t
          | none => none
      else handFire c t fun s =>
        let u := s.port c.cv p
        s.setPort c.cv p { u with took := u.took || t.k == 4 }

/-- POUT (R260). -/
def planPout : NCx → Option Fire := writePlan
def execPout (n : NodeW) (s : State) := fireNode planPout n s
/-- SCATTER (R260). -/
def planScatter : NCx → Option Fire := writePlan
def execScatter (n : NodeW) (s : State) := fireNode planScatter n s

/-! ### Anti-tokens (R48, R50, R267, R347) -/

/-- The node of a cell that emits on endpoint `id`, with the index of its output. -/
def producerOf (s : State) (rid ce id : Nat) : Option (Nat × Nat) :=
  match activeOf s rid with
  | some ctx =>
    (span 0 16).findSome? fun k =>
      let ws := nodeWords s ce ctx k
      let a := nodeFields ws.1
      let b := nodeFields ws.2
      if ws.1 = 0 then none
      else if chanId a.out0 = id ∨ (a.t ∧ chanId b.out0 = id) then some (k, 0)
      else if chanId a.out1 = id ∨ (a.t ∧ chanId b.out1 = id) then some (k, 1)
      else none
  | none => none

/-- The outputs of a node that are endpoints, as a bit mask. -/
def endpMask (w : NodeW) : Nat :=
  (if 0x20 ≤ chanId w.out0 ∧ chanId w.out0 ≤ 0x3F then 1 else 0) + (if 0x20 ≤ chanId w.out1 ∧ chanId w.out1 ≤ 0x3F then 2 else 0)

/-- Release a node that is frozen at a load that is now owed: its record becomes informational (R347). -/
def releaseOwed (s : State) (n : Nat) : State :=
  let d := s.node n
  let s0 := s.setNode n { d with frozen := none }
  match d.frozen with
  | some idx =>
    if idx < 4096 then
      let s1 := setRecState s0 idx 3
      { s1 with recs := { s1.recs with owner := Tab.erase s1.recs.owner idx } }
    else { s0 with recs := { s0.recs with wait := s0.recs.wait.filter fun e => decide (e.2.1 ≠ some (.node n)) } }
  | none => s0

/-- A settle marker takes the place of the reply of access `id`, which is not made; a request that was counted counts as answered. -/
def settleRep (s : State) (n id : Nat) : State :=
  let s1 := match s.accs.find? fun a => a.id == id && !a.segs.isEmpty with
    | some a => detMem s a .mr
    | none => s
  (dropAcc s1 id).setNode n ((s1.node n).modRep id fun r => { r with acc := none, settle := true })

/-- Whether the wave record of the firing in reply place `k` of node `n` is not accepted yet: the node's records and replies stand in firing order. -/
def recordWaits (s : State) (n k : Nat) : Bool :=
  decide ((s.node n).reps.length - k ≤ ((s.cell (n / 16)).wRecs.filter fun r => r.node == n).length)

/-- An anti-token for load `k` in reply order of the LD at node `n`, from output `o` (R50): the load is owed; when every endpoint output owes
it (log entry 102), a record not yet accepted becomes null, or stays so for POISON, with a settle marker in the reply's place, and a load frozen on a
fault is given up (R347). -/
def oweLoad (s : State) (n : Nat) (w : NodeW) (o k : Nat) : State :=
  let d := s.node n
  match d.reps[k]? with
  | none => s
  | some r =>
    let m := r.owed ||| 2 ^ o
    let s1 := s.setNode n { d with reps := setNth d.reps k { r with owed := m } }
    if m &&& endpMask w ≠ endpMask w then s1
    else match r.acc with
      | none =>
        if w.v && r.tok == some poisonTok && recordWaits s n k then
          s1.setNode n { d with reps := setNth d.reps k { r with owed := m, settle := true } }
        else s1
      | some id =>
        let c := s1.cell (n / 16)
        let queued := c.wRecs.any fun e => e.acc == some id
        let stuck := d.frozen.isSome && s1.accs.any fun a => a.id == id && a.segs.isEmpty
        let s2 := if queued then
            s1.setCell (n / 16) { c with wRecs := c.wRecs.map fun e => if e.acc == some id then { e with acc := none } else e }
          else s1
        if stuck then releaseOwed (settleRep s2 n id) n else if queued then settleRep s2 n id else s1

/-- An anti-token with position `p` reaches the endpoint `e` of channel `ch` (R48). -/
def antiAt (s : State) (rid ch : Nat) (e : Endp) (p : BitVec 16) : State :=
  let ce := ch / 32
  match producerOf s rid ce (ch % 32 + 0x20), activeOf s rid with
  | some (k, o), some ctx =>
    let ws := nodeWords s ce ctx k
    let w := nodeFields ws.1
    let op := ws.1.toNat / 2 ^ 120
    let n := 16 * ce + k
    let ahead := decide ((p - e.sent).toNat < 2 ^ 15)
    if op = 0x80 && !w.x then
      if ahead then setEndp s ch { e with dout := e.dout + 1 }
      else
        let i := (p - BitVec.ofNat 16 (s.node n).emitted).toNat
        if i < (s.node n).reps.length then oweLoad s n w o i else s
    else if ahead && pureOp op w then setEndp s ch { e with dout := e.dout + 1 }
    else s
  | _, _ => s

/-- ANTI_TOKEN_ARRIVE (R48, R267): an anti-token reaches the producer endpoint of its channel. -/
def execAntiTokenArrive (ch : Nat) (s : State) : Host.Outcome State Fault Refusal :=
  match endpAt s ch, ridOfCh s ch, popAnti ch s.wire with
  | some e, some rid, some (p, w) => .next (detCell (antiAt { s with wire := w } rid ch e p) (ch / 32) .rr)
  | _, _, _ => .next s

/-! ### Cancellation of a load (R49, R50) -/

/-- One cancellation of an LD: Dout falls and Sent rises on each output, on which a settle marker is sent in the pass itself, Anti goes to the inputs,
and a V node sends a null record. The load keeps its place among the replies that E counts. -/
def cancelLoad (c : NCx) (l : List Nat) : State :=
  let s1 := countLoad (countLoad c.s c.ce c.w.out0) c.ce c.w.out1
  let s2 := l.foldl (fun t i => doAnti t c.ce (chanId (inF c.w i))) (sendSettle (sendSettle s1 c.ce c.w.out0) c.ce c.w.out1)
  let d := s2.node c.n
  let s3 := s2.setNode c.n (if d.reps.isEmpty then { d with emitted := d.emitted + 1 }
    else { d with reps := d.reps ++ [⟨none, none, 0, false, true⟩] })
  noteTurn (if c.w.v then pushWave s3 c.n c.w none else s3) c.n c.rid

end Sys2Proof.Machine
end

