-- ==== Sys2Proof/Machine/Matrix.lean ====
section
/-!
DEFINITION. The matrix node: commands (R273 to R275), operand buffers and their arithmetic (R88 to R94, R276, R277), emission (R278)
and turns (R279).
-/
namespace Sys2Proof.Machine

/-! ### The plane and its residency (R272) -/

/-- The residency whose cells plane `p` of cove `cv` serves. -/
def ridOfPlane (s : State) (cv p : Nat) : Option Nat :=
  let ce := 16 * cv + 8 * p
  if planeOf s ce = p then ridOfCell s ce else none

/-- The nodes of the plane in the active context: cell, slot and word. -/
def planeNodes (s : State) (cv p : Nat) : List (Nat × Nat × BitVec 128) :=
  match ridOfPlane s cv p with
  | none => []
  | some rid =>
    match activeOf s rid with
    | none => []
    | some ctx =>
      ((span (16 * cv) 16).filter fun ce => ridOfCell s ce == some rid).flatMap fun ce =>
        ((span 0 16).map fun k => (ce, k, (nodeWords s ce ctx k).1)).filter fun e => e.2.2 != 0

/-- The words of the plane's nodes, both of a two-entry node (R71), with their cell. -/
def planeWords (s : State) (cv p : Nat) : List (Nat × NodeW) :=
  match (ridOfPlane s cv p).bind (activeOf s) with
  | none => []
  | some ctx =>
    (planeNodes s cv p).flatMap fun e =>
      let a := nodeFields e.2.2
      (e.1, a) :: if a.t then [(e.1, nodeFields (nodeWords s e.1 ctx e.2.1).2)] else []

/-- The cell of the node of the plane that reads 0x91. -/
def mxReader (s : State) (cv p : Nat) : Option Nat :=
  ((planeWords s cv p).find? fun e => chanId e.2.inA == 0x91 || chanId e.2.inB == 0x91 || (chanId e.2.inC == 0x91)).map (·.1)

/-- Whether some node of the plane reads 0x91. -/
def readsMx (s : State) (cv p : Nat) : Bool := (mxReader s cv p).isSome

/-- Whether some node of the plane writes operand buffer `b`. -/
def feedsBuf (s : State) (cv p b : Nat) : Bool :=
  (planeWords s cv p).any fun e => chanId e.2.out0 == 0x92 + b || chanId e.2.out1 == 0x92 + b

/-! ### Turns (R279) -/

/-- The entry whose turn it is. -/
def mxEntry (c : Cove) : Option MEnt := Tab.find? c.mslot c.mpos

/-- Whether the turn of an entry that began at `start` has passed at clock `now`. -/
def mxOver (e : MEnt) (start now : Nat) : Bool := decide (start + e.len + 1 ≤ now)

/-- Whether entry `e` serves the plane it names: a residency holds it and runs the context that the entry grants. -/
def mxServes (s : State) (cv : Nat) (e : MEnt) : Bool :=
  match ridOfPlane s cv e.half.toNat with
  | some rid => activeOf s rid == some e.ctx
  | none => false

/-- Whether a command, a segment or a row of plane `p` is in progress. -/
def mxBusy (s : State) (cv p : Nat) : Bool :=
  (match (s.plane cv p).ctl with | .cmd _ _ b :: _ => b | _ => false)
    || (planeNodes s cv p).any fun e =>
      let d := s.node (16 * e.1 + e.2.1)
      match d.op with
      | .sort _ _ => true
      | .topk _ _ _ _ _ => true
      | _ => (e.2.2.toNat / 2 ^ 120 == 0x92 || e.2.2.toNat / 2 ^ 120 == 0x93) && !d.pend.isEmpty

/-- Whether plane `p` may begin work now (R203, R279): in its entry's turn; with no valid entry, when its work came first (log entry 110). The other
plane has none in progress: one plane is served at a time. -/
def mxTurn (s : State) (cv p : Nat) : Bool :=
  match mxEntry (s.cove cv) with
  | none => decide (((s.cove cv).mreq.head?).getD p = p) && !mxBusy s cv (1 - p)
  | some e => decide (e.half.toNat = p) && mxServes s cv e && !mxOver e (s.cove cv).mstart (cycleOf s cv) && !mxBusy s cv (1 - p)

/-- Whether plane `p` has something to perform: a command, or a token before its SORTCE or TOPK. -/
def mxWork (s : State) (cv p : Nat) : Bool :=
  (s.plane cv p).ctl.any (fun e => match e with | .cmd _ _ _ => true | .tok _ => false)
    || (planeNodes s cv p).any fun e =>
      (e.2.2.toNat / 2 ^ 120 == 0x92 || e.2.2.toNat / 2 ^ 120 == 0x93)
        && !(qAt s e.1 (chanId (nodeFields e.2.2).inA)).toks.isEmpty

/-- The oldest piece of work of plane `p` is done. -/
def mxDone (s : State) (cv p : Nat) : State :=
  let c := s.cove cv
  s.setCove cv { c with mreq := c.mreq.erase p }

/-- The planes of a cove that two residencies share whose SORTCE or TOPK has a token before it, or work in progress, and is not yet among
those that wait: their work has come (log entry 110). What has no work waits no more. -/
def noteWork (s : State) (cv : Nat) : State :=
  if (ridOfPlane s cv 1).isNone then s
  else
    let c := s.cove cv
    let has_ := fun p => mxWork s cv p || mxBusy s cv p
    s.setCove cv { c with mreq := c.mreq.filter has_ ++ ([0, 1].filter fun p => has_ p && !has c.mreq p) }

/-- The next valid entry after place `n`, in table order and around. -/
def mxNext (t : Tab MEnt) (n : Nat) : Nat :=
  match t.find? fun e => decide (n < e.1) with
  | some e => e.1
  | none => match t with | e :: _ => e.1 | [] => 0

/-- The cove with the next turn begun at clock `now`: of the new table from entry 0 on where one waits (R203). -/
def Cove.nextTurn (c : Cove) (now : Nat) : Cove :=
  match c.mnew with
  | some t => { c with mslot := t, mnew := none, mpos := (match t with | e :: _ => e.1 | [] => 0), mstart := now }
  | none => { c with mpos := mxNext c.mslot c.mpos, mstart := now }

/-- MATRIX_TURN_END (R279): the turn has passed, or passes at once, and nothing in progress is left to complete. -/
def execMatrixTurnEnd (cv : Nat) (s : State) : Host.Outcome State Fault Refusal :=
  let c := s.cove cv
  match mxEntry c with
  | none => .next s
  | some e =>
    let p := e.half.toNat
    if mxBusy s cv 0 || mxBusy s cv 1 then .next s
    else if mxOver e c.mstart (cycleOf s cv) || !mxServes s cv e || !mxWork s cv p then
      .next (s.setCove cv (c.nextTurn (cycleOf s cv)))
    else .next s

/-! ### MMA and MXSEQ (R274, R275) -/

/-- Whether a matrix command is valid (R273). -/
def mxValid (w : BitVec 64) : Bool :=
  let n := w.toNat
  decide (n < 128) && !(bitOf n 0 && bitOf n 1) && decide (n % 16 ≠ 0) && (bitOf n 3 || decide (n / 16 = 0))

/-- Put an entry into the control queue of the node's plane, a token from the cell to the matrix node (R55); a command is work that comes (R279). -/
def pushCtl (c : NCx) (x : MxIn) (s0 : State) : State :=
  let s := detPass s0 c.rid c.ce (detMatrix c.cv)
  let p := planeOf s c.ce
  let q := s.plane c.cv p
  let s1 := s.setPlane c.cv p { q with ctl := q.ctl ++ [x] }
  match x with
  | .cmd _ _ _ => let v := s1.cove c.cv; s1.setCove c.cv { v with mreq := v.mreq ++ [p] }
  | .tok _ => s1

/-- MMA (R274). -/
def planMma (c : NCx) : Option Fire :=
  if badKind c [0] then some (Fire.fault c 0x30)
  else if c.shows 0 [7, 8] then some (Fire.fault c 0x32)
  else match c.hd 0 with
  | none => none
  | some t =>
    let take : Fire := Fire.of c [0] none none
    if !c.rooms then none
    else if t.k = 5 then (drainFire c [0] [(0, true)] false).map fun f => { f with out0 := none, post := pushCtl c (.tok t) }
    else if t.k = 0 ∨ t.k = 6 then
      if t.k = 0 ∧ !laneOk 64 t 0 then some take
      else
        let w := t.pay.extractLsb' 0 64
        if mxValid w then some { take with post := pushCtl c (.cmd w c.w.q false) } else some (Fire.fault c 0x3B)
    else some { take with d := { c.d with eos := c.d.eos || t.k == 4 }, post := pushCtl c (.tok t) }
def execMma (n : NodeW) (s : State) := fireNode planMma n s

/-- The command of MXSEQ's table for the flags of an IDX token. -/
def mxseqCmd (imm : Nat) (t : Tok) : Nat :=
  let lvl := bitsOf imm 6 2
  let first := bitOf t.sb.toNat lvl
  let last := bitOf t.sb.toNat (4 + lvl)
  4 + (if first then bitsOf imm 0 2 else 0) + (if last && bitOf imm 2 then 8 + 16 * bitsOf imm 3 3 else 0)

/-- MXSEQ (R275). -/
def planMxseq (c : NCx) : Option Fire :=
  plainPlan c [0] (fun _ => [0, 6, 7]) fun c =>
    some (Fire.both c [0] (mkTok 0 (BitVec.ofNat 128 (mxseqCmd c.w.imm.toNat (c.tok 0))) 1))
def execMxseq (n : NodeW) (s : State) := fireNode planMxseq n s

/-! ### Arithmetic (R88 to R94) -/

/-- A row or column of one K block: a dual-exponent block, or BF16 values. -/
inductive MRow where
  | blk (w cls pair : Nat) (es : List Nat)
  | bf (vs : List FV)

/-- Mantissa and gap shift of an element code (R88). -/
def elemParts (w pair e : Nat) : Int × Nat := (sext (w - 1) (e % 2 ^ (w - 1)), if e / 2 ^ (w - 1) = 1 then bitsOf pair 4 4 else 0)

/-- BlockDot (R91). -/
def blockDot (w ca pa : Nat) (ea : List Nat) (cb pb : Nat) (eb : List Nat) : Nat × Nat :=
  if ca = 0 ∨ cb = 0 then (0x7FC00000, 16)
  else if ca = 1 ∨ cb = 1 then (0x7FC00000, 0)
  else if ca = 2 ∨ cb = 2 then (0, 0)
  else
    let s : Int := if w = 8 then 6 else 2
    let acc : Int := (ea.zip eb).foldl (fun a e =>
      let x := elemParts w pa e.1
      let y := elemParts w pb e.2
      a + x.1 * y.1 * (2 ^ (x.2 + y.2) : Nat)) 0
    if acc = 0 then (0, 0)
    else FF.f32.round 0 false (decide (acc < 0)) acc.natAbs false ((pa / 256 : Nat) + (pb / 256 : Nat) - 254 - 2 * s)

/-- The leading-bit exponent of a finite nonzero value. -/
def topExp (v : FV) : Option Int :=
  match v with
  | .fin _ m e => if m = 0 then none else some ((Nat.log2 m : Int) + e)
  | _ => none

/-- The greatest of some exponents. -/
def maxExp (l : List FV) : Option Int :=
  (l.filterMap topExp).foldl (fun a e => match a with | some x => some (if x < e then e else x) | none => some e) none

/-- A product truncated toward zero to a multiple of 2^q, in units of 2^q, and whether anything was cut off. -/
def truncTo (q : Int) (v : FV) : Int × Bool :=
  match v with
  | .fin n m e =>
    let a : Nat × Bool := if q ≤ e then (m * 2 ^ (e - q).toNat, false) else (m / 2 ^ (q - e).toNat, decide (m % 2 ^ (q - e).toNat ≠ 0))
    (if n then -(a.1 : Int) else (a.1 : Int), a.2)
  | _ => (0, false)

/-- Sum8 (R93). A product that is a quiet NaN beside infinite products of both signs gives NaN by step 2, without NV (log entry 104); a
truncated part raises NX and, however small the sum, no UF (log entry 105). -/
def sum8 (l : List (FV × FV)) : Nat × Nat :=
  let nv := sigFl (l.flatMap fun e => [e.1, e.2])
  let ps := l.map fun e => fvMul e.1 e.2
  if ps.any Option.isNone then (0x7FC00000, 16)
  else
    let vs := ps.filterMap id
    if vs.any FV.isNan then (0x7FC00000, nv)
    else if vs.any FV.special then
      let pos := vs.any fun v => decide (v = .inf false)
      let neg := vs.any fun v => decide (v = .inf true)
      if pos && neg then (0x7FC00000, 16) else (FF.f32.signed neg FF.f32.infC, 0)
    else match maxExp vs with
      | none => (if vs.all FV.sgn then 0x80000000 else 0, 0)
      | some e =>
        let ts := vs.map (truncTo (e - 75))
        let sum : Int := ts.foldl (fun a x => a + x.1) 0
        let st := ts.any (·.2)
        let v : Int := 2 * sum + (if st then (if sum < 0 then -1 else 1) else 0)
        if v = 0 then (0, 0)
        else
          let r := FF.f32.round 0 false (decide (v < 0)) v.natAbs false (e - 76)
          (r.1, r.2 ||| st.toNat)

/-- One accumulator after a step over one K block (R92, R93). -/
def mxStep (a b : MRow) (c : Nat) : Nat × Nat :=
  let F := FF.f32
  let addIn := fun (acc : Nat × Nat) (x : Nat × Nat) =>
    let r := F.add 0 0 (F.decI acc.1) (F.decI x.1)
    (r.1, acc.2 ||| x.2 ||| r.2)
  match a, b with
  | .blk w ca pa ea, .blk _ cb pb eb => addIn (c, 0) (blockDot w ca pa ea cb pb eb)
  | .bf u, .bf v => ((span 0 4).map fun g => sum8 (((u.drop (8 * g)).take 8).zip ((v.drop (8 * g)).take 8))).foldl addIn (c, 0)
  | _, _ => (c, 0)

/-- Row `r` of a tile of format `tf` (R276). -/
def tileRow (tf : Nat) (t : Tile) (r : Nat) : MRow :=
  if tf = 0 then
    .bf (((t.toks.drop (4 * r)).take 4).flatMap fun k =>
      (span 0 8).map fun j => if laneOk 16 k j then FF.bf16.decI (lane 16 k.pay j) else .fin false 0 0)
  else
    let w := if tf = 1 then 8 else 4
    let ts := if tf = 1 then (t.toks.drop (2 * r)).take 2 else (t.toks.drop r).take 1
    let es := blockElems w ts
    .blk w (blockClass w (blockPair ts) es) (blockPair ts) es

/-- The 64 rows, or columns, of four quarter tiles. -/
def tileRows (tf : Nat) (ts : List Tile) : List MRow := ts.flatMap fun t => (span 0 16).map (tileRow tf t)

/-! ### A command's parts (R277) -/

/-- The tile at the head of buffer `b`, once it is full. -/
def fullTile (p : Plane) (tf b : Nat) : Option Tile :=
  match (p.buf b).tiles with
  | t :: _ => if t.toks.length = tileLen tf b then some t else none
  | [] => none

/-- The full tiles at the heads of buffers `l`, when all have one. -/
def fullTiles (p : Plane) (tf : Nat) (l : List Nat) : Option (List Tile) :=
  let r := l.filterMap (fullTile p tf)
  if r.length = l.length then some r else none

/-- Empty the tile at the head of buffer `b`. -/
def Plane.emptyTile (p : Plane) (b : Nat) : Plane :=
  let m := p.buf b
  { p with bufs := Tab.insert p.bufs b { m with tiles := m.tiles.drop 1 } }

/-- Place (key, value) pairs into the accumulators. -/
def setAll (c : Tab (BitVec 32)) (l : List (Nat × Nat)) : Tab (BitVec 32) :=
  l.foldl (fun t e => Tab.put 0 t e.1 (BitVec.ofNat 32 e.2)) c

/-- The values that the C quarters give, by place. -/
def loadVals (ts : List Tile) : List (Nat × Nat) :=
  (ts.zipIdx).flatMap fun e : Tile × Nat =>
    (e.1.toks.zipIdx).flatMap fun k : Tok × Nat =>
      (span 0 4).map fun l => (64 * (16 * e.2 + k.2 / 16) + 4 * (k.2 % 16) + l, if laneOk 32 k.1 l then lane 32 k.1.pay l else 0)

/-- A plane with what is left of its head command, and the flags raised. -/
structure MxDo where
  p  : Plane
  w  : Nat
  fl : Nat

/-- ZERO or LOADC. -/
def mxLoad (tf : Nat) (m : MxDo) : MxDo :=
  if bitOf m.w 0 then { m with p := { m.p with c := [], pm := false }, w := m.w - 1 }
  else if bitOf m.w 1 then
    match fullTiles m.p tf [8, 9, 10, 11] with
    | some ts =>
      let p1 := [8, 9, 10, 11].foldl Plane.emptyTile m.p
      { m with p := { p1 with c := setAll [] (loadVals ts), pm := ts.any (·.psn) }, w := m.w - 2 }
    | none => m
  else m

/-- STEP, once ZERO or LOADC is done. -/
def mxMac (tf : Nat) (m : MxDo) : MxDo :=
  if m.w % 4 = 0 ∧ bitOf m.w 2 then
    match fullTiles m.p tf [0, 1, 2, 3], fullTiles m.p tf [4, 5, 6, 7] with
    | some ta, some tb =>
      let as := tileRows tf ta
      let bs := tileRows tf tb
      let rs := (as.zipIdx).flatMap fun x : MRow × Nat => (bs.zipIdx).map fun y : MRow × Nat =>
        (64 * x.2 + y.2, mxStep x.1 y.1 (Tab.get 0 m.p.c (64 * x.2 + y.2)).toNat)
      let p1 := (span 0 8).foldl Plane.emptyTile m.p
      { p := { p1 with c := setAll p1.c (rs.map fun r => (r.1, r.2.1)), pm := p1.pm || (ta ++ tb).any (·.psn) }
        w := m.w - 4
        fl := rs.foldl (fun f r => f ||| r.2.2) m.fl }
    | _, _ => m
  else m

/-- EMIT, once the rest is done and the emit buffer is free. -/
def mxEmit (q : Bool) (m : MxDo) : MxDo :=
  if m.w % 8 = 0 ∧ bitOf m.w 3 ∧ m.p.em.isNone then
    { m with p := { m.p with em := some ⟨m.p.c, m.p.pm, BitVec.ofNat 3 (m.w / 16), q, 0⟩ }, w := m.w - 8 }
  else m

/-- Raise flags in the matrix flag set, unless the command has Q (R94, R97, log entry 113). -/
def mxRaise (s : State) (cv : Nat) (q : Bool) (fl : Nat) : State :=
  if q || fl == 0 then s
  else
    let c := s.cove cv
    s.setCove cv { c with mflags := c.mflags ||| BitVec.ofNat 5 fl, mraised := noteRaised c.mraised (cycleOf s cv) (BitVec.ofNat 5 fl) }

/-- Count an action of the matrix node that takes `n` clocks at the residency's detector and meter (R55, R331). -/
def mxNote (s : State) (cv p n : Nat) : State :=
  match ridOfPlane s cv p with
  | some rid => touch (detAct (modRes s rid fun r => { r with act := { r.act with mac := r.act.mac + n } }) rid (detMatrix cv)) rid
  | none => s

/-- The clocks of the parts of a command, whose bits were `w`, that have been done where `left` is left of it (R277). -/
def mxClocks (tf w left : Nat) : Nat :=
  let done := fun k => bitOf w k && !bitOf left k
  (done 0 || done 1).toNat + (if done 2 then (match tf with | 0 => 128 | 1 => 32 | _ => 16) else 0) + (done 3).toNat

/-- Token `t` reaches the consumer of 0x91; with none it is discarded (R278). -/
def mxOut (s : State) (cv p : Nat) (t : Tok) : State :=
  if readsMx s cv p then
    let q := s.plane cv p
    let s1 := s.setPlane cv p { q with res := (q.res.arrive (some t) 0 (cycleOf s cv)).1 }
    detPass s1 ((ridOfPlane s cv p).getD 0) (detMatrix cv) ((mxReader s cv p).getD 0)
  else s

/-- Whether the consumer of 0x91 can receive now: its queue has room, and nothing has arrived there, nor been taken or annulled, in this clock
(R38). -/
def mxRoom (s : State) (cv p : Nat) : Bool :=
  let q := (s.plane cv p).res
  !readsMx s cv p || (decide (q.toks.length < 8) && q.lastArr != some (cycleOf s cv) && q.lastTake != some (cycleOf s cv))

/-- The plane without the head of its control queue. -/
def dropCtl (s : State) (cv p : Nat) : State :=
  let q := s.plane cv p
  s.setPlane cv p { q with ctl := q.ctl.drop 1 }

/-- A token at the head of the control queue: POISON marks PM; a delimiter or HDR leaves on 0x91 after earlier emissions; DRAIN once
every operand buffer has drained too. -/
def mxTok (s : State) (cv p : Nat) (t : Tok) : State :=
  let q := s.plane cv p
  let drained := (span 0 14).all fun b => !feedsBuf s cv p b || ((q.buf b).drain && (q.buf b).tiles.isEmpty)
  if t.k = 9 then s.setPlane cv p { q with ctl := q.ctl.drop 1, pm := true }
  else if q.em.isSome || !mxRoom s cv p || (t.k == 5 && !drained) then s
  else mxNote (mxOut (dropCtl s cv p) cv p t) cv p 1

/-- The parts of the head command that can be done now; what is left of it stays at the head. -/
def mxCmd (s : State) (cv p : Nat) (w : BitVec 64) (q : Bool) : State :=
  let pl := s.plane cv p
  let tf := tfmtOf s (16 * cv + 8 * p)
  let m := mxEmit q (mxMac tf (mxLoad tf ⟨pl, w.toNat, 0⟩))
  let rest := pl.ctl.drop 1
  let s1 := s.setPlane cv p { m.p with ctl := if m.w % 16 = 0 then rest else .cmd (BitVec.ofNat 64 m.w) q true :: rest }
  let s2 := if m.w % 16 = 0 then mxDone s1 cv p else s1
  mxRaise (if m.w = w.toNat then s2 else mxNote s2 cv p (mxClocks tf w.toNat m.w)) cv q m.fl

/-- Whether the residency of a plane runs. -/
def planeRuns (s : State) (cv p : Nat) : Bool := match ridOfPlane s cv p with | some rid => running s rid | none => false

/-- MATRIX_COMMAND_PERFORM (R277, R279): the plane's next command, in its turn or when it has been begun. -/
def execMatrixCommandPerform (cv plane : Nat) (s : State) : Host.Outcome State Fault Refusal :=
  if !planeRuns s cv plane then .next s
  else match (s.plane cv plane).ctl with
  | .tok t :: _ => .next (mxTok s cv plane t)
  | .cmd w q b :: _ => if b || mxTurn s cv plane then .next (mxCmd s cv plane w q) else .next s
  | [] => .next s

/-! ### Emission (R278) -/

/-- The HDR token of a tile (R33): format, 64 rows, 64 columns, scale 1.0. -/
def tileHdr (bf : Bool) : Tok :=
  mkTok 1 (BitVec.ofNat 128 ((if bf then 9 else 8) + 64 * 2 ^ 16 + 64 * 2 ^ 32 + 0x3F800000 * 2 ^ 64)) 0

/-- Accumulator token `n` of an emission and the flags of its roundings. -/
def tileTok (e : Emit) (bf : Bool) (n : Nat) : Tok × Nat :=
  if e.pm then (poisonTok, 0)
  else if bf then
    let r := (span (8 * n) 8).map fun k =>
      let v := FF.f32.decI (Tab.get 0 e.c k).toNat
      let x := FF.bf16.out 0 0 v 0
      (x.1, x.2 ||| sigFl [v])
    (dataTok 16 (r.map fun x => (x.1, true)), r.foldl (fun f x => f ||| x.2) 0)
  else (dataTok 32 ((span (4 * n) 4).map fun k => ((Tab.get 0 e.c k).toNat, true)), 0)

/-- Token `pos` of an emission with its flags; none past the end. EHDR is bit 1 of the options, ETOK bit 0, RFMT bit 2. -/
def emitTok (e : Emit) : Option (Tok × Nat) :=
  let bf := e.opts.getLsbD 2
  let h := (e.opts.getLsbD 1).toNat
  let n := if bf then 512 else 1024
  if e.pos < h then some (tileHdr bf, 0)
  else if e.pos < h + n then some (tileTok e bf (e.pos - h))
  else if e.pos = h + n ∧ e.opts.getLsbD 0 then some (eotTok, 0)
  else none

/-- Whether an emission has no token left. -/
def emitDone (e : Emit) : Bool := (emitTok e).isNone

/-- MATRIX_EMIT (R278): the next token of the emit buffer reaches the consumer; the buffer is free after its last. -/
def execMatrixEmit (cv plane : Nat) (s : State) : Host.Outcome State Fault Refusal :=
  let q := s.plane cv plane
  match (if planeRuns s cv plane then q.em else none) with
  | none => .next s
  | some e =>
    match emitTok e with
    | none => .next (s.setPlane cv plane { q with em := none })
    | some (t, fl) =>
      if !mxRoom s cv plane then .next s
      else
        let e1 := { e with pos := e.pos + 1 }
        let s1 := s.setPlane cv plane { q with em := if emitDone e1 then none else some e1 }
        .next (mxNote (mxRaise (mxOut s1 cv plane t) cv e.q fl) cv plane 1)

end Sys2Proof.Machine
end

