-- ==== Sys2Proof/Machine/Sampling.lean ====
section
/-!
DEFINITION. Sorting, top-k, sampling, speculation and unmasking nodes (R280 to R288), with the draws of R283.
-/
namespace Sys2Proof.Machine

/-! ### Pairs and rank order (R271, R280) -/

/-- Key and value field of a pair. -/
def pairKey (p : BitVec 64) : Nat := p.toNat / 2 ^ 32
def pairVal (p : BitVec 64) : Nat := p.toNat % 2 ^ 32

/-- A pair from its key and value field. -/
def mkPair (k v : Nat) : BitVec 64 := BitVec.ofNat 64 (k % 2 ^ 32 * 2 ^ 32 + v % 2 ^ 32)

/-- The valid pairs of a token, in lane order. -/
def tokPairs (t : Tok) : List (BitVec 64) :=
  ((span 0 2).filter (laneOk 64 t)).map fun k => BitVec.ofNat 64 (lane 64 t.pay k)

/-- Whether FP32 code `a` ranks above `b`: NaNs lowest and equal. -/
def fpAbove (a b : Nat) : Bool :=
  let x := FF.f32.decI a
  let y := FF.f32.decI b
  if x.isNan then false else if y.isNan then true else decide (0 < fvCmp x y)

/-- Whether key `a` ranks above key `b` (R280) for a MODE: 2 signed, 6 unsigned, otherwise FP32. -/
def rankAbove (mode a b : Nat) : Bool :=
  if mode = 2 then decide (sext 32 b < sext 32 a) else if mode = 6 then decide (b < a) else fpAbove a b

/-- Whether a key is finite. -/
def finKey (k : Nat) : Bool := !(FF.f32.decI k).special

/-- Insert into a list ordered by `le`, behind those that `x` does not precede. -/
def insBy {V : Type} (lt : V → V → Bool) (x : V) : List V → List V
  | [] => [x]
  | y :: t => if lt x y then x :: y :: t else y :: insBy lt x t

/-- Sort by `lt`, equals in their order. -/
def sortBy {V : Type} (lt : V → V → Bool) (l : List V) : List V := l.foldl (fun acc x => insBy lt x acc) []

/-- Tokens of pairs, two to a token (R281). -/
def pairToks : List (BitVec 64) → List Tok
  | a :: b :: t => mkTok 0 (b ++ a) 3 :: pairToks t
  | [a] => [mkTok 0 (a.zeroExtend 128) 1]
  | [] => []

/-- The tokens, all POISON when `p`. -/
def psnAll (p : Bool) (l : List Tok) : List Tok := if p then l.map fun _ => poisonTok else l

/-- Emit a list of pairs of tokens: the first in this firing, the others pending behind it (R218). -/
def burst (c : NCx) (takes : List (Nat × Bool)) (l : List (Option Tok × Option Tok)) (o : OpSt) : Fire :=
  match l with
  | [] => { Fire.of c [] none none with takes := takes }.op o
  | e :: t => ({ Fire.of c [] e.1 e.2 with takes := takes }.pending t).op o

/-- The plane of the node's cell, and whether its turn lets a segment or row begin (R279). -/
def mayBegin (c : NCx) : Bool := mxTurn c.s c.cv (planeOf c.s c.ce)

/-- The firing that ends a segment or a row: that work of the plane is done (R279). -/
def workDone (c : NCx) (f : Fire) : Fire := { f with post := fun s => mxDone (f.post s) c.cv (planeOf c.s c.ce) }

/-! ### SORTCE (R281) -/

/-- The pairs of the segment, and its poison; none where none is begun. -/
def sortSt (d : Node) : Option (List (BitVec 64) × Bool) := match d.op with | .sort l p => some (l, p) | _ => none

/-- The order of a SORTCE. -/
def sortLt (w : NodeW) (a b : BitVec 64) : Bool :=
  let i := w.imm.toNat
  let m := w.mode.toNat
  let hi := rankAbove m (pairKey a) (pairKey b)
  let lo := rankAbove m (pairKey b) (pairKey a)
  let first := if bitOf i 0 then hi else lo
  first || (!hi && !lo && bitOf i 1 && decide (pairVal a < pairVal b))

/-- SORTCE (R281). A segment of POISON without pairs emits its delimiter alone (log entry 37). -/
def planSortce (c : NCx) : Option Fire :=
  let st := sortSt c.d
  let got := (st.getD ([], false)).1
  let psn := (st.getD ([], false)).2
  let begun := st.isSome || mayBegin c
  statePlan c [0] [6, 7, 8] st.isSome
    (fun takes t =>
      if t.k = 1 then some (delimFire c takes t)
      else if got.isEmpty then some (workDone c ((delimFire c takes t).op .none))
      else some (workDone c (burst c takes (((psnAll psn (pairToks (sortBy (sortLt c.w) got))) ++ [t]).map fun x => (some x, some x)) .none)))
    (if begun then some ((Fire.of c [0] none none).op (.sort got true)) else none)
    (if begun then
      let l := got ++ tokPairs (c.tok 0)
      some (if 256 < l.length then Fire.fault c 0x3C else (Fire.of c [0] none none).op (.sort l psn))
    else none)
def execSortce (n : NodeW) (s : State) := fireNode planSortce n s

/-! ### TOPK (R282) -/

/-- The row of a TOPK: best pairs so far, valid lanes, all lanes, parameters, poison. -/
structure TopkSt where
  l    : List (BitVec 64)
  n    : Nat
  all  : Nat
  par  : Samp
  psn  : Bool

/-- The row in progress, or a fresh one under the cove's parameters. -/
def topkSt (c : NCx) : TopkSt :=
  match c.d.op with
  | .topk l n a (some p) y => ⟨l, n, a, p, y⟩
  | _ => ⟨[], 0, 0, (c.s.cove c.cv).samp, false⟩
def TopkSt.op (t : TopkSt) : OpSt := .topk t.l t.n t.all (some t.par) t.psn

/-- The order of a TOPK's list: higher key first, ties to the lower index. -/
def topkLt (a b : BitVec 64) : Bool :=
  fpAbove (pairKey a) (pairKey b) || (!fpAbove (pairKey b) (pairKey a) && decide (pairVal a < pairVal b))

/-- One valid lane's pair enters the row; the list keeps the K best finite keys. -/
def TopkSt.add (t : TopkSt) (p : BitVec 64) : TopkSt :=
  { t with n := t.n + 1, l := if finKey (pairKey p) then (insBy topkLt p t.l).take t.par.k else t.l }

/-- A lane of a row: its pair when it is valid. -/
def topkLane (mode : Nat) (tok : Tok) (t : TopkSt) (k : Nat) : TopkSt :=
  let w := fmtWidth mode
  let t1 := { t with all := t.all + 1 }
  if !laneOk w tok k then t1
  else if mode = 3 then t1.add (BitVec.ofNat 64 (lane 64 tok.pay k))
  else
    let v := lane w tok.pay k
    t1.add (mkPair (if mode = 9 then v * 65536 else v) (t.par.shard.toNat + t.all))

/-- The status of a row (R282). -/
def topkStatus (t : TopkSt) : Nat :=
  let k := min t.par.k t.n
  let len := min t.l.length k
  len + (if t.n < t.par.k then 512 else 0) + (if t.l.length < k then 1024 else 0)

/-- TOPK (R282): EOT goes to OUT_0 after the list, the status to OUT_1 in the firing of the EOT. -/
def planTopk (c : NCx) : Option Fire :=
  let t := topkSt c
  let open_ := match c.d.op with | .topk _ _ _ _ _ => true | _ => false
  let begun := open_ || mayBegin c
  statePlan c [0] [6, 7, 8] open_
    (fun takes u =>
      if u.k = 2 then
        (if begun then
          let st := if isNone c.w.out1 then none else some (psnIf t.psn (ctrlTok (topkStatus t)))
          let l := psnAll t.psn (pairToks (t.l.take (min t.par.k t.n))) ++ [u]
          some (workDone c (burst c takes (match l with | x :: r => (some x, st) :: r.map (fun y => (some y, none)) | [] => []) .none))
        else none)
      else some (delimFire c takes u))
    (if begun then some ((Fire.of c [0] none none).op { t with psn := true }.op) else none)
    (if begun then
      some ((Fire.of c [0] none none).op ((span 0 (fmtLanes c.w.mode.toNat)).foldl (topkLane c.w.mode.toNat (c.tok 0)) t).op)
    else none)
def execTopk (n : NodeW) (s : State) := fireNode planTopk n s

/-! ### Draws (R283) -/

/-- One round of Philox-4x32. -/
def philoxRound (k0 k1 : Nat) (x : Nat × Nat × Nat × Nat) : Nat × Nat × Nat × Nat :=
  let a := 0xD2511F53 * x.1
  let b := 0xCD9E8D57 * x.2.2.1
  ((b / 2 ^ 32) ^^^ x.2.1 ^^^ k0, b % 2 ^ 32, (a / 2 ^ 32) ^^^ x.2.2.2 ^^^ k1, a % 2 ^ 32)

/-- `f` rounds of Philox, the key stepping. -/
def philox : Nat → Nat → Nat → Nat × Nat × Nat × Nat → Nat × Nat × Nat × Nat
  | 0, _, _, x => x
  | f + 1, k0, k1, x => philox f ((k0 + 0x9E3779B9) % 2 ^ 32) ((k1 + 0xBB67AE85) % 2 ^ 32) (philoxRound k0 k1 x)

/-- Draw (R283). -/
def draw (p : Samp) (c : Word) (w : Nat) : Nat :=
  let x := philox 10 p.key0.toNat p.key1.toNat
    (c.toNat % 2 ^ 32, c.toNat / 2 ^ 32, p.ctr.toNat % 2 ^ 32, p.ctr.toNat / 2 ^ 32)
  match w with
  | 0 => x.1
  | 1 => x.2.1
  | 2 => x.2.2.1
  | _ => x.2.2.2

/-- U (R283): an exact value in [0, 1). -/
def drawU (p : Samp) (c : Word) (w : Nat) : FV := .fin false (draw p c w / 256) (-24)

/-- The counter of a counter token (R283). -/
def counterOf (t : Tok) : Word := if t.k = 0 ∧ laneOk 64 t 0 then t.pay.extractLsb' 0 64 else 0

/-- a ≥ b, a > b as ordered comparisons of FP32 codes. -/
def fpGe (a b : Nat) : Bool := let x := FF.f32.decI a; let y := FF.f32.decI b; !x.isNan && !y.isNan && decide (0 ≤ fvCmp x y)
def fpGt (a b : Nat) : Bool := let x := FF.f32.decI a; let y := FF.f32.decI b; !x.isNan && !y.isNan && decide (0 < fvCmp x y)

/-- FP32 arithmetic on codes, each rounded to nearest even. -/
def addF (a b : Nat) : Nat := (FF.f32.add 0 0 (FF.f32.decI a) (FF.f32.decI b)).1
def subF (a b : Nat) : Nat := (FF.f32.add 0 0 (FF.f32.decI a) (FF.f32.decI b).neg).1
def mulV (u : FV) (b : Nat) : Nat := (FF.f32.mul 0 0 u (FF.f32.decI b)).1
def divF (a b : Nat) : Nat := (FF.f32.div 0 0 (FF.f32.decI a) (FF.f32.decI b)).1

/-- Running sums, each rounded, the first value as it stands. -/
def runSums : List Nat → List Nat
  | [] => []
  | x :: t => x :: (t.foldl (fun acc y => acc ++ [addF (nth x acc (acc.length - 1)) y]) [x]).drop 1

/-- The least index at or after 0 whose value passes `f`. -/
def leastIdx (f : Nat → Bool) (l : List Nat) : Option Nat := (l.zipIdx.find? fun e => f e.1).map (·.2)

/-! ### CUMTHR (R284) -/

/-- The row of a CUMTHR: counter, pairs, parameters, poison. -/
def cumSt (d : Node) : Option (Word × List (BitVec 64) × Samp × Bool) :=
  match d.op with
  | .cum c l (some p) y => some (c, l, p, y)
  | _ => none

/-- 2^(z · log2 e), each step rounded once (R284). -/
def expF (z : Nat) : Nat :=
  let y := mulV (FF.f32.decI z) 0x3FB8AA3B
  (FF.f32.exp2 0 0 (FF.f32.decI y) (8 * y + 2)).1

/-- The token of a row (R284). -/
def cumTok (c : Word) (l : List (BitVec 64)) (p : Samp) : Tok :=
  let ps := l.filter fun x => finKey (pairKey x)
  match ps with
  | [] => bare 0
  | h :: _ =>
    let e := ps.map fun x => expF (divF (subF (pairKey x) (pairKey h)) p.temp.toNat)
    let s := runSums e
    let n := s.length
    let m := (leastIdx (fun x => fpGe x (mulV (FF.f32.decI p.topp.toNat) (nth 0 s (n - 1)))) s).getD (n - 1)
    let t := mulV (drawU p c 0) (nth 0 s m)
    let j := (leastIdx (fun x => fpGt x t) (s.take (m + 1))).getD m
    let hi : BitVec 64 := BitVec.ofNat 64 (j + (m + 1) * 65536 + divF (nth 0 e j) (nth 0 s m) * 2 ^ 32)
    mkTok 0 (hi ++ nth 0 ps j) 3

/-- The firing that begins a row or a round by its counter token, or takes a delimiter that heads every input in `ns`; `f` begins it. -/
def beginPlan (c : NCx) (ns : List Nat) (ctr : Nat) (f : Tok → Option Fire) : Option Fire :=
  match c.hd ctr with
  | none => none
  | some t =>
    if !c.rooms then none
    else if t.k = 0 ∨ t.k = 9 then f t
    else match joinAll c ns t with
      | .delim k takes u => if k = 5 then drainFire c ns takes false else some (delimFire c takes u)
      | .mismatch => some (Fire.fault c 0x31)
      | _ => none

/-- The firing that ends a row: its token, then EOT, on both outputs. -/
def rowEnd (c : NCx) (takes : List (Nat × Bool)) (psn : Bool) (t : Tok) : Fire :=
  burst c takes [pair2 (psnIf psn t), pair2 eotTok] .none

/-- CUMTHR (R284): the counter is taken in a firing of its own (log entry 38). -/
def planCumthr (c : NCx) : Option Fire :=
  match pendFire c with
  | some r => r
  | none =>
    if badKind c [0, 1] then some (Fire.fault c 0x30)
    else if c.shows 0 [6, 7, 8] || c.shows 1 [6, 7, 8] then some (Fire.fault c 0x32)
    else match cumSt c.d with
    | none => beginPlan c [0, 1] 1 fun t =>
        some ((Fire.of c [1] none none).op (.cum (counterOf t) [] (some (c.s.cove c.cv).samp) (t.k == 9)))
    | some (ctr, l, p, y) =>
      statePlan c [0] [] true
        (fun takes u => if u.k = 2 then some (rowEnd c takes y (cumTok ctr l p)) else some (delimFire c takes u))
        (some ((Fire.of c [0] none none).op (.cum ctr l (some p) true)))
        (let l1 := l ++ tokPairs (c.tok 0)
         some (if 256 < l1.length then Fire.fault c 0x3C else (Fire.of c [0] none none).op (.cum ctr l1 (some p) y)))
def execCumthr (n : NodeW) (s : State) := fireNode planCumthr n s

/-! ### ACCEPT (R285) -/

/-- The test of draft `j` (R285). -/
def draftOk (p : Samp) (c : Word) (j : Nat) (t : Tok) : Bool :=
  let x := FF.f32.decI (lane 32 t.pay 0)
  let y := FF.f32.decI (lane 32 t.pay 1)
  let zero : FV := .fin false 0 0
  laneOk 32 t 0 && laneOk 32 t 1 && !x.special && !y.special && decide (0 ≤ fvCmp x zero) && decide (0 ≤ fvCmp y zero)
    && (match fvMul (drawU p (c + BitVec.ofNat 64 (j / 4)) (j % 4)) y with
      | some v => decide (fvCmp v x < 0)
      | none => false)

/-- The accepted count. -/
def acceptCount : List Bool → Nat
  | true :: t => acceptCount t + 1
  | _ => 0

/-- The end of a round of `n` drafts. -/
def acceptEnd (c : NCx) (takes : List Nat) (ctr : Word) (n : Nat) (ds : List Tok) (p : Samp) (y : Bool) : Fire :=
  let oks := (ds.zipIdx).map fun e : Tok × Nat => draftOk p ctr e.2 e.1
  let a := acceptCount oks
  let bits := (oks.zipIdx).foldl (fun b e => if e.1 then b + 2 ^ e.2 else b) 0
  (Fire.of c takes (some (psnIf y (ctrlTok a)))
    (if isNone c.w.out1 then none
     else some (psnIf y (ctrlTok (a + (if a < n then 16 else 0) + 256 * bits))))).op .none

/-- ACCEPT (R285). A POISON count gives n = 0 (log entry 39). -/
def planAccept (c : NCx) : Option Fire :=
  let ns := c.needed [0, 1, 2]
  let dmax := bitsOf c.w.imm.toNat 0 3 + 1
  if badKind c ns then some (Fire.fault c 0x30)
  else if c.shows 0 [6, 7, 8] || c.shows 1 [6, 7, 8] || (c.has 2 && c.shows 2 [0, 7, 8]) then some (Fire.fault c 0x32)
  else match c.d.op with
  | .accept ctr n ds (some p) y =>
    (match c.hd 0 with
    | none => none
    | some t =>
      if !c.rooms then none
      else if t.k = 5 then drainFire c [0] [(0, true)] true
      else if t.isDelim ∨ t.k = 1 then some (Fire.fault c 0x31)
      else
        let l := ds ++ [t]
        let z := y || t.k == 9
        some (if l.length = n then acceptEnd c [0] ctr n l p z else (Fire.of c [0] none none).op (.accept ctr n l (some p) z)))
  | _ => beginPlan c ns 1 fun t =>
      let start := fun (takes : List Nat) (n : Nat) (y : Bool) =>
        let p := (c.s.cove c.cv).samp
        some (if n = 0 then acceptEnd c takes (counterOf t) 0 [] p y
          else (Fire.of c takes none none).op (.accept (counterOf t) n [] (some p) y))
      if !c.has 2 then start [1] dmax (t.k == 9)
      else match c.hd 2 with
        | none => none
        | some v =>
          if v.k = 6 then start [1, 2] (min v.ctl dmax) (t.k == 9)
          else if v.k = 9 then start [1, 2] 0 true
          else if v.k = 5 then none
          else some (Fire.fault c 0x31)
def execAccept (n : NodeW) (s : State) := fireNode planAccept n s

/-! ### RESID (R286) -/

/-- Pick (R286) from nonnegative FP32 codes. -/
def pick (u : FV) (x : List Nat) : Option Nat :=
  let s := runSums x
  let last := nth 0 s (s.length - 1)
  if x.isEmpty || (FF.f32.decI last).isZero then none
  else
    let t := mulV u last
    match leastIdx (fun v => fpGt v t) s with
    | some j => some j
    | none => ((x.zipIdx).reverse.find? fun e => fpGt e.1 0).map (·.2)

/-- A value of a row with a negative or NaN value replaced by 0. -/
def posOrZero (v : Nat) : Nat :=
  let x := FF.f32.decI v
  if x.isNan || decide (fvCmp x (.fin false 0 0) < 0) then 0 else v

/-- The token of a row (R286). -/
def residTok (c : Word) (p q : List (BitVec 32)) (par : Samp) : Tok :=
  let u := drawU par c 0
  let out := fun (j z : Nat) => mkTok 0 (BitVec.ofNat 128 ((par.shard.toNat + j) % 2 ^ 32 + z * 2 ^ 32)) 1
  match pick u ((p.zip q).map fun e => posOrZero (subF e.1.toNat e.2.toNat)) with
  | some j => out j 0
  | none =>
    match pick u (p.map fun v => posOrZero v.toNat) with
    | some j => out j 1
    | none => bare 0

/-- The lanes of both rows: a lane that is not valid in both counts as 0. -/
def residLanes (a b : Tok) (which : Bool) : List (BitVec 32) :=
  (span 0 4).map fun k => if laneOk 32 a k && laneOk 32 b k then BitVec.ofNat 32 (lane 32 (if which then a else b).pay k) else 0

/-- RESID (R286): the counter is taken in a firing of its own (log entry 38). -/
def planResid (c : NCx) : Option Fire :=
  match pendFire c with
  | some r => r
  | none =>
    if badKind c [0, 1, 2] then some (Fire.fault c 0x30)
    else if [0, 1, 2].any fun i => c.shows i [6, 7, 8] then some (Fire.fault c 0x32)
    else match c.d.op with
    | .resid ctr p q (some par) y =>
      let add := fun z : Bool =>
        let p1 := p ++ residLanes (c.tok 0) (c.tok 1) true
        let q1 := q ++ residLanes (c.tok 0) (c.tok 1) false
        some (if 256 < p1.length then Fire.fault c 0x3C else (Fire.of c [0, 1] none none).op (.resid ctr p1 q1 (some par) z))
      statePlan c [0, 1] [] true
        (fun takes u => if u.k = 2 then some (rowEnd c takes y (residTok ctr p q par)) else some (delimFire c takes u))
        (add true) (add y)
    | _ => beginPlan c [0, 1, 2] 2 fun t =>
        some ((Fire.of c [2] none none).op (.resid (counterOf t) [] [] (some (c.s.cove c.cv).samp) (t.k == 9)))
def execResid (n : NodeW) (s : State) := fireNode planResid n s

/-! ### HEADMASK (R287) -/

/-- One bits of a byte. -/
def ones (v : Nat) : Nat := (span 0 8).foldl (fun n k => if bitOf v k then n + 1 else n) 0

/-- HEADMASK (R287): HEADS is latched at the first firing on a token (log entry 40). -/
def planHeadmask (c : NCx) : Option Fire :=
  let st : Nat × Byte := match c.d.op with | .headmask h m => (h, m) | _ => (0, (c.s.cove c.cv).samp.heads)
  let h := st.1
  let pack := bitOf c.w.imm.toNat 0
  let takes := if pack || h == 7 then [0] else []
  let o1 := fun t : Tok => if isNone c.w.out1 || (!pack && h != 0) then none else some t
  let nxt : OpSt := if pack || h == 7 then .none else .headmask (h + 1) st.2
  statePlan c [0] [7, 8] (h != 0) (fun takes u => some (delimFire c takes u))
    (some ((Fire.of c takes (some poisonTok) (o1 poisonTok)).op nxt))
    (let t := c.tok 0
     let m := if t.k = 6 then t.pay.toNat % 256 else if laneOk 8 t 0 then lane 8 t.pay 0 else 0
     let e := m &&& st.2.toNat
     some ((Fire.of c takes (some (ctrlTok (if pack then e else (bitOf e h).toNat))) (o1 (ctrlTok (ones e)))).op nxt))
def execHeadmask (n : NodeW) (s : State) := fireNode planHeadmask n s

/-! ### UMRANK (R288) -/

/-- The engine of a UMRANK node, by key 64 · die + engine, and its round. -/
def umEng (cv : Nat) (w : NodeW) : Nat := 64 * dieOf cv + bitsOf w.imm.toNat 0 2
def umRound (w : NodeW) : Nat := bitsOf w.imm.toNat 2 6

/-- A closed round that nothing has closed. -/
def Round.closed : Round where
  isOpen := false
  maskp := 0
  dirtyp := 0
  stalep := 0
  npos := 0
  tau := 0
  share := 0
  cmin := 0
  cmax := 0
  radius := 0
  stale := 0
  lgroups := 0
  bar := none
  barcove := 0
  root := 0
  rid := 0
  closedAt := none

/-- An engine with no round open. -/
def Umx.empty : Umx := ⟨[], [], none⟩

/-- The engine of key `e`, and round `r` of it. -/
def State.umxAt (s : State) (e : Nat) : Umx := Tab.get Umx.empty s.umx e
def State.round (s : State) (e r : Nat) : Round := Tab.get Round.closed (s.umxAt e).rounds r

/-- A step with no candidate. -/
def UmxStep.new (rid r n : Nat) : UmxStep := ⟨rid, r, n, [], false, false, false, false, [], [], 0, [], 0⟩

/-- Change the step of node `n` of residency `rid` that is not yet full, making one at the end when there is none. -/
def onStep (rid r n : Nat) (f : UmxStep → UmxStep) (l : List UmxStep) : List UmxStep :=
  if l.any fun s => decide (s.rid = rid ∧ s.node = n) && !s.full then l.map fun s => if s.rid = rid ∧ s.node = n ∧ !s.full then f s else s
  else l ++ [f (UmxStep.new rid r n)]

/-- Hand something of the node's step to the engine. -/
def toStep (c : NCx) (f : UmxStep → UmxStep) (s : State) : State :=
  let e := umEng c.cv c.w
  let u := s.umxAt e
  { s with umx := Tab.insert s.umx e { u with steps := onStep c.rid (umRound c.w) c.n f u.steps } }

/-- Whether UMX.CLOSE of the node's round has been performed since its context became active. -/
def closedSince (c : NCx) : Bool :=
  match (c.s.round (umEng c.cv c.w) (umRound c.w)).closedAt, Tab.find? c.s.res c.rid with
  | some t, some r => decide (r.since ≤ t)
  | _, _ => false

/-- UMRANK (R288): in a closed round, not ready until a UMX.CLOSE of it has been performed. -/
def planUmrank (c : NCx) : Option Fire :=
  let st : Bool × Bool := match c.d.op with | .umrank a b => (a, b) | _ => (false, false)
  let isOpen := (c.s.round (umEng c.cv c.w) (umRound c.w)).isOpen
  match pendFire c with
  | some r => r
  | none =>
    if st.2 then none
    else if badKind c [0] then some (Fire.fault c 0x30)
    else if c.shows 0 [6, 7, 8] then some (Fire.fault c 0x32)
    else match c.hd 0 with
    | none => none
    | some t =>
      if !c.rooms || !(isOpen || closedSince c) then none
      else if t.k = 5 then drainFire c [0] [(0, true)] st.1
      else if t.k = 1 ∨ t.k = 3 ∨ t.k = 4 then some (delimFire c [(0, true)] t)
      else if isOpen then
        let give := fun (f : UmxStep → UmxStep) (o : OpSt) =>
          some { (Fire.of c [0] none none).op o with post := toStep c f }
        if t.k = 2 then give (fun u => { u with full := true }) (.umrank true true)
        else if t.k = 9 then give (fun u => { u with psn := true }) (.umrank true false)
        else give (fun u => { u with cands := u.cands ++ [t] }) (.umrank true false)
      else if t.k = 2 then some ((Fire.of c [0] (some t) (if isNone c.w.out1 then none else some (ctrlTok (2 ^ 33)))).op .none)
      else some ((Fire.of c [0] none none).op (.umrank true false))
def execUmrank (n : NodeW) (s : State) := fireNode planUmrank n s

end Sys2Proof.Machine
end

