-- ==== Sys2Proof/Machine/Nodes.lean ====
section
/-!
DEFINITION. The choice of a cell's next firing or cancellation: the conduct of each node operation, readiness (R40), cancellation (R49)
and the weighted arbitration of R325.
-/
namespace Sys2Proof.Machine

/-- The firing that a node instruction would make at its place; none when it is not ready. -/
def planOf : Instr → NCx → Option Fire
  | .nodeAdd _ => planNodeAdd
  | .nodeSub _ => planNodeSub
  | .nodeMul _ => planNodeMul
  | .nodeMulh _ => planNodeMulh
  | .nodeMad _ => planNodeMad
  | .nodeAbs _ => planNodeAbs
  | .nodeNeg _ => planNodeNeg
  | .nodeMin _ => planNodeMin
  | .nodeMax _ => planNodeMax
  | .nodeAnd _ => planNodeAnd
  | .nodeOr _ => planNodeOr
  | .nodeXor _ => planNodeXor
  | .nodeNot _ => planNodeNot
  | .nodeShl _ => planNodeShl
  | .nodeShr _ => planNodeShr
  | .nodeSar _ => planNodeSar
  | .nodeClamp _ => planNodeClamp
  | .nodeCmp _ => planNodeCmp
  | .nodeSel _ => planNodeSel
  | .nodeAdds _ => planNodeAdds
  | .nodeSubs _ => planNodeSubs
  | .nodeFadd _ => planNodeFadd
  | .nodeFsub _ => planNodeFsub
  | .nodeFmul _ => planNodeFmul
  | .nodeFma _ => planNodeFma
  | .nodeFmin _ => planNodeFmin
  | .nodeFmax _ => planNodeFmax
  | .frcp _ => planFrcp
  | .frsq _ => planFrsq
  | .fexp2 _ => planFexp2
  | .flog2 _ => planFlog2
  | .nodeFcmp _ => planNodeFcmp
  | .nodeFdiv _ => planNodeFdiv
  | .cvt _ => planCvt
  | .packb _ => planPackb
  | .unpackb _ => planUnpackb
  | .perm _ => planPerm
  | .reduce _ => planReduce
  | .acc _ => planAcc
  | .scan _ => planScan
  | .hdr _ => planHdr
  | .splat _ => planSplat
  | .fork _ => planFork
  | .steer _ => planSteer
  | .merge _ => planMerge
  | .mux _ => planMux
  | .join _ => planJoin
  | .gate _ => planGate
  | .drop _ => planDrop
  | .source _ => planSource
  | .sink _ => planSink
  | .cchain _ => planCchain
  | .carry _ => planCarry
  | .exit _ => planExit
  | .tile _ => planTile
  | .isect _ => planIsect
  | .union _ => planUnion
  | .ctxsel _ => planCtxsel
  | .ande _ => planAnde
  | .ore _ => planOre
  | .squash _ => planSquash
  | .sync _ => planSync
  | .ld _ => planLd
  | .st _ => planSt
  | .atom _ => planAtom
  | .pin _ => planPin
  | .pout _ => planPout
  | .gather _ => planGather
  | .scatter _ => planScatter
  | .copyfire _ => planCopyfire
  | .dirty _ => planDirty
  | .ord _ => planOrd
  | .mma _ => planMma
  | .mxseq _ => planMxseq
  | .sortce _ => planSortce
  | .topk _ => planTopk
  | .cumthr _ => planCumthr
  | .accept _ => planAccept
  | .resid _ => planResid
  | .umrank _ => planUmrank
  | .headmask _ => planHeadmask
  | _ => fun _ => none

/-- The node instruction of slot `k` in the active context, by its words; a two-entry node's control head selects the entry (R71). -/
def nodeInstrAt (s : State) (ce ctx k : Nat) : Option Instr :=
  let ws := nodeWords s ce ctx k
  if ws.1 = 0 then none
  else
    match decodeNode ws.1 with
    | .error _ => none
    | .ok i =>
      let a := nodeFields ws.1
      if a.t then
        match (qAt s ce (chanId a.inC)).head with
        | some h =>
          if h.tok.k = 6 ∧ h.tok.ctl = 0 then nodeInstr (nodeOpc ws.2) { nodeFields ws.2 with inC := a.inC, t := true }
          else some i
        | none => some i
      else some i

/-- The fields of a node instruction, by its encoding. -/
def fieldsOf (i : Instr) : NodeW :=
  match encode i with
  | .node w => nodeFields w
  | _ => nodeFields 0

/-- The operation code of a node instruction. -/
def opcOf (i : Instr) : Nat :=
  match encode i with
  | .node w => nodeOpc w
  | _ => 0

/-- The input fields of a node that are channels. -/
def insOf (c : NCx) : List Nat := c.needed [0, 1, 2]

/-- The inputs of a node that begins a row or a round with the inputs `l`, of which input `ctr` holds its counter: all of them where a delimiter, HDR or
DRAIN heads that one. -/
def beginNeeds (c : NCx) (ctr : Nat) (l : List Nat) : List Nat := if c.shows ctr [1, 2, 3, 4, 5] then insOf c else c.needed l

/-- The inputs that a node reads for the firing at hand (R40): those of its operation, of which some read only what their control or their state
selects. A firing that emits a pending token reads none. -/
def needsOf (i : Instr) (c : NCx) : List Nat :=
  if !c.d.pend.isEmpty then []
  else match i with
  | .merge _ =>
    (match c.hd 2 with
    | none => [2]
    | some t => if t.k = 6 ∨ t.k = 9 then [if t.k = 6 ∧ t.ctl ≠ 0 then 1 else 0, 2] else insOf c)
  | .mux _ =>
    (match c.hd 2 with
    | some t => if c.w.e && t.k == 6 && !joinDelim c [0, 1, 2] then [if t.ctl = 0 then 0 else 1, 2] else insOf c
    | none => insOf c)
  | .source _ => if (sourceSt c).1 then [] else c.needed [0]
  | .cchain _ =>
    let st := chainSt c.d
    if st.run || st.eot then (if st.eot || chainGate c { st with last := none } then [] else c.needed [1]) else c.needed [0]
  | .carry _ =>
    (match c.hd 2 with
    | none => [2]
    | some t => if t.isDelim || t.k == 1 then c.needed [0, 2] else if t.k = 5 then insOf c else c.needed [if carryInit c.w t then 0 else 1, 2])
  | .exit _ =>
    (match c.hd 2 with
    | some t => if exitFlush c.d && !(t.isDelim || t.k == 1 || t.k == 5) then [2] else insOf c
    | none => if exitFlush c.d then [2] else insOf c)
  | .ctxsel _ =>
    let st := ctxselSt c
    let n := c.w.imm.toNat
    if bitOf n 3 && decide (0 < st.2 ∧ st.2 < bitsOf n 4 8 + 1) && !(c.shows 0 [1, 2, 3, 4, 5]) then [] else [0]
  | .squash _ =>
    let st := squashSt c.d
    if 0 < st.1 then (if st.1 < st.2 then [1] else [])
    else match c.hd 0 with
      | none => [0]
      | some t => if t.k = 9 ∨ (t.k = 6 ∧ t.ctl = 0) then [0] else [0, 1]
  | .cvt _ => if cvtMx c.w && (c.w.mode == 11 || c.w.mode == 13) && (cvtSt c.d).2.1.isSome then [0] else insOf c
  | .unpackb _ =>
    let h := unpackSt c.d
    if h.1.length = (if bitOf c.w.imm.toNat 0 then 1 else 2) ∨ 0 < h.2 then [] else [0]
  | .hdr _ =>
    (match c.hd 0 with
    | some t => if t.isDelim || t.k == 5 || (hdrStart c.d && has [0, 7, 8, 9] t.k) then insOf c else [0]
    | none => if hdrStart c.d then insOf c else [0])
  | .cumthr _ => (match c.d.op with | .cum _ _ _ _ => c.needed [0] | _ => beginNeeds c 1 [1])
  | .accept _ => (match c.d.op with | .accept _ _ _ (some _) _ => [0] | _ => beginNeeds c 1 [1, 2])
  | .resid _ => (match c.d.op with | .resid _ _ _ _ _ => c.needed [0, 1] | _ => beginNeeds c 2 [2])
  | .umrank _ => (match c.d.op with | .umrank _ true => [] | _ => [0])
  | _ => insOf c

/-- Whether a node with operation code `op` can cancel its next firing or, an LD, its next load (R49, R50), however many replies it awaits. A
two-entry node must have its control token present (log entry 22). -/
def canCancelOp (op : Nat) (c : NCx) : Bool :=
  (pureOp op c.w || (op == 0x80 && !c.w.x)) && (!c.w.t || (c.hd 2).isSome) && canCancel c (insOf c)

/-- CANCEL_FIRING (R49): the node of the focus, whose operation its word gives, cancels its next firing. -/
def execCancelFiring (n : NodeW) (s : State) : Host.Outcome State Fault Refusal :=
  match s.focus with
  | .node k =>
    let c := ncx s k n
    match activeOf s c.rid with
    | none => .next s
    | some ctx =>
      match nodeInstrAt s c.ce ctx (k % 16) with
      | none => .next s
      | some i =>
        if canCancelOp (opcOf i) c then
          .next (if opcOf i = 0x80 then cancelLoad c (insOf c) else cancelPass c (insOf c))
        else .next s
  | _ => .next s

/-! ### Arbitration (R325) -/

/-- What slot `k` of a cell would do now: its cancellation before its firing. -/
def candidate (s : State) (rid ce ctx k : Nat) : Option Instr :=
  match nodeInstrAt s ce ctx k with
  | none => none
  | some i =>
    let n := 16 * ce + k
    let c : NCx := ⟨s, n, rid, fieldsOf i, s.node n⟩
    if canCancelOp (opcOf i) c then some (.cancelFiring c.w)
    else if (planOf i c).isSome then some i else none

/-- The candidates of a cell, slot by slot. -/
def candidates (s : State) (rid ce ctx : Nat) : List (Nat × Instr) :=
  (span 0 16).filterMap fun k => (candidate s rid ce ctx k).map fun i => (k, i)

/-- Every candidate gains its weight. -/
def gainCredits (s : State) (ce : Nat) (l : List (Nat × Instr)) : State :=
  l.foldl (fun t e => let d := t.node (16 * ce + e.1); t.setNode (16 * ce + e.1) { d with credit := sat16 (d.credit + d.weight) }) s

/-- The candidate with the greatest credit, the lowest slot among equals. -/
def bestOf (s : State) (ce : Nat) : List (Nat × Instr) → Option (Nat × Instr)
  | [] => none
  | e :: t =>
    match bestOf s ce t with
    | some f => if (s.node (16 * ce + e.1)).credit < (s.node (16 * ce + f.1)).credit then some f else some e
    | none => some e

/-- The arbitration of a cell in one clock: the state with the credits, and the node that fires or cancels. -/
def arbitrate (s : State) (ce : Nat) : State × Option (Nat × Instr) :=
  match ridOfCell s ce with
  | none => (s, none)
  | some rid =>
    match activeOf s rid with
    | none => (s, none)
    | some ctx =>
      if !running s rid || (s.cell ce).lastFire == some (dieClock s (dieOf (cvOfCe ce))) then (s, none)
      else
        let l := candidates s rid ce ctx
        let s1 := gainCredits s ce l
        match bestOf s1 ce l with
        | none => (s, none)
        | some e =>
          let sum := l.foldl (fun a f => a + (s.node (16 * ce + f.1)).weight) 0
          let d := s1.node (16 * ce + e.1)
          (s1.setNode (16 * ce + e.1) { d with credit := sat16 (d.credit - sum) }, some (16 * ce + e.1, e.2))

end Sys2Proof.Machine
end

