-- ==== Sys2Proof/Machine/Units.lean ====
section
/-!
DEFINITION. The units between fabric and memory: stream ports (R183 to R188, R345), undertow engines (R186, R187, R306, R351 to R353),
copy queues (R189 to R191, R303, R348, R349, R366), the wave chains' memory interface (R265, R266), memory replies (R256), tidemark
credits (R166, R302) and page-table walks (R337, R338).
-/
namespace Sys2Proof.Machine

/-! ### Owners and nodes of units -/

/-- The residency that owns unit `u` of a bank of `n` in cove `cv` (R180). -/
def ridOfUnit (s : State) (cv u n : Nat) : Option Nat := (s.res.find? fun e => e.2.region.ownsUnit cv u n).map (·.1)

/-- The port node of the active context that names port `p`: its key, fields and operation code. -/
def portNode (s : State) (rid cv p : Nat) : Option (Nat × NodeW × Nat) :=
  match activeOf s rid with
  | none => none
  | some ctx =>
    (span (16 * cv) 16).findSome? fun ce =>
      if ridOfCell s ce ≠ some rid then none
      else (span 0 16).findSome? fun k =>
        let w := (nodeWords s ce ctx k).1
        if 0x83 ≤ nodeOpc w ∧ nodeOpc w ≤ 0x86 ∧ portOf (nodeFields w) = p then some (16 * ce + k, nodeFields w, nodeOpc w) else none

/-! ### Elements (R185) -/

/-- The address of the element that the counters name. -/
def elemAddr (b : Bind) : Word :=
  b.base + BitVec.ofInt 64 (((b.idx.zip b.strs).map fun e : Nat × Int => (e.1 : Int) * e.2).foldl (· + ·) 0)

/-- Bytes of an element. -/
def Bind.size (b : Bind) : Nat := b.lanes * (fmtWidth b.fmt / 8)

/-- Whether an EOT follows the element that the counters name. -/
def eotAfter (b : Bind) : Bool :=
  match b.eotl with
  | some l => decide (l ≤ 3) && (span 0 (l + 1)).all fun k => decide (nth 0 b.idx k + 1 = nth 1 b.dims k)
  | none => false

/-- The record of a port (R341, R345): the counters of the element and D, to which everything before it adds. -/
def portRec (s : State) (cv p rid acc : Nat) (q : Port) (b : Bind) (va : Word) (e : XErr) : Rec :=
  let ahead := q.buf.length + (b.rob.map fun r => 1 + r.behind.toList.length).foldl (· + ·) 0
  { agentRec s 1 (.port cv p) rid acc va e with i := b.idx, dlv := q.dlv + ahead }

/-- A port meets a translation fault at its next element (R345). -/
def portFault (s : State) (cv p rid : Nat) (q : Port) (b : Bind) (va : Word) (e : XErr) : State :=
  let acc := if b.read then 0 else 1
  if e.cause < 0x40 then agentAddrFault s (.port cv p) rid acc va e.cause
  else openRec s (portRec s cv p rid acc q b va e) (some (.port cv p)) []

/-- A read port issues its next element, whose translation it has. -/
def portIssue (s : State) (cv p rid : Nat) (b : Bind) (va : Word) (segs : List (PA × Nat)) : State :=
  let w := portNode s rid cv p
  let wave := match w with | some (_, f, _) => f.v | none => false
  let r := addAcc s (.port cv p) rid va b.size (.rd b.size) segs (!wave) 0
  let s1 := match w with | some (n, f, _) => if wave then pushWave r.1 n f (some r.2) else r.1 | none => r.1
  let nx := nextIdx b.idx b.dims
  let e : RobE := ⟨some r.2, none, if eotAfter b then some eotTok else none⟩
  let s2 := s1.setPort cv p { s1.port cv p with bind := some { b with idx := nx.1, fin := nx.2, rob := b.rob ++ [e] } }
  detUp s2 rid (detKey s2 (.port cv p)) .ms

/-- Whether the token before a write port's node has something to write. -/
def portWants (s : State) (rid cv p : Nat) (b : Bind) : Bool :=
  match portNode s rid cv p with
  | some (n, w, _) =>
    (match (qAt s (n / 16) (chanId w.inA)).head with
    | some t => t.tok.carries (fmtWidth b.fmt) b.lanes
    | none => false)
  | none => false

/-- Whether the port has an element to translate now: a read port has room for its token, a write port a token for it. -/
def portReady (s : State) (rid cv p : Nat) (q : Port) (b : Bind) : Bool :=
  q.frozen.isNone && !b.fin && q.unb != some true && decide (b.kind ≤ 1)
    && (if b.read then decide (b.rob.length + q.buf.length < 32) else q.rdy.isNone && portWants s rid cv p b)

/-- Whether a port of a cove is a candidate of the arbitration (R325): it goes on, has an element to translate, whose deep or peer request the
gate lets (R332), and waits for no walk. -/
def portCand (s : State) (cv p : Nat) : Bool :=
  match (s.port cv p).bind, ridOfUnit s cv p 16 with
  | some b, some rid =>
    goesOn s rid && (gateLets s rid || shorePtr (elemAddr b)) && portReady s rid cv p (s.port cv p) b && !walking s (.port cv p)
  | _, _ => false

/-- The port that the cove lets issue in this clock (R325, log entry 103), with the arbitration after it. -/
def portTurn (s : State) (cv : Nat) : Arb × Option Nat :=
  (s.cove cv).parb.choose (cycleOf s cv) ((span 0 16).filter (portCand s cv))

/-- The next element of a port is translated; a read port issues it, a write port holds it for its node. -/
def portElement (s : State) (cv p rid : Nat) (q : Port) (b : Bind) : State :=
  let va := elemAddr b
  let rt := rtOf s rid false
  let u := 64 + 16 * cv + p
  match tryXl s rt u va b.size b.read (!b.read) with
  | (s1, .ok segs) => if b.read then portIssue s1 cv p rid b va segs else s1.setPort cv p { q with rdy := some (va, segs) }
  | (s1, .miss a) => beginWalk s1 u rt.root a b.read (!b.read) (.port cv p) none
  | (s1, .err e) => portFault s1 cv p rid q b va e

/-- PORT_ELEMENT_ISSUE (R185, R325, R345). -/
def execPortElementIssue (cv p : Nat) (s : State) : Host.Outcome State Fault Refusal :=
  let q := s.port cv p
  match q.bind, ridOfUnit s cv p 16, portTurn s cv with
  | some b, some rid, (a, some w) =>
    if w = p then .next (portElement (s.setCove cv { s.cove cv with parb := a }) cv p rid q b) else .next s
  | _, _, _ => .next s

/-! ### Delivery -/

/-- Deliver in order: the entries before the first whose data is not back. -/
def robInOrder : List RobE → List Tok × List RobE
  | [] => ([], [])
  | e :: t =>
    match e.tok with
    | some k => let r := robInOrder t; (k :: e.behind.toList ++ r.1, r.2)
    | none => ([], e :: t)

/-- Deliver in any order within a segment (COMM): an EOF waits for every entry before it. Each token carries the accesses of the entries
before it that are not back. -/
def robAny : List Nat → List RobE → List (Tok × List Nat) × List RobE
  | _, [] => ([], [])
  | held, e :: t =>
    match e.tok with
    | none => let r := robAny (held ++ e.acc.toList) t; (r.1, e :: r.2)
    | some k =>
      if k.k = 3 ∧ held ≠ [] then ([], e :: t)
      else let r := robAny held t; ((k, held) :: e.behind.toList.map (fun x => (x, held)) ++ r.1, r.2)

/-- Move what can be delivered into the port's buffer. -/
def deliver (s : State) (cv p : Nat) : State :=
  let q := s.port cv p
  match q.bind with
  | none => s
  | some b =>
    let comm := match b.job.bind (Tab.find? s.jobs) with | some j => j.comm | none => false
    let r := if comm then robAny [] b.rob else ((robInOrder b.rob).1.map fun t => (t, []), (robInOrder b.rob).2)
    let n := (r.1.filter fun t => decide (t.1.k = 0 ∨ t.1.k = 9)).length
    let s1 := s.setPort cv p { q with buf := q.buf ++ r.1, bind := some { b with rob := r.2 } }
    match b.job with
    | some j => { s1 with jobs := Tab.modify s1.jobs j fun d => { d with deliv := d.deliv + n } }
    | none => s1

/-- The token of access `id` is back at the port. -/
def robBack (s : State) (cv p id : Nat) (t : Tok) : State :=
  let q := s.port cv p
  match q.bind with
  | none => s
  | some b =>
    deliver (s.setPort cv p { q with
      bind := some { b with rob := b.rob.map fun e => if e.acc == some id then { e with acc := none, tok := some t } else e } }) cv p

/-! ### Undertow jobs -/

/-- A job in its table. -/
def State.job (s : State) (j : Nat) : Option Job := Tab.find? s.jobs j
def State.setJob (s : State) (j : Nat) (d : Job) : State := { s with jobs := Tab.insert s.jobs j d }

/-- The translation cache of the job's stack (R338). -/
def Job.unit (d : Job) : Nat := 8 + d.eng / 4

/-- The record of a job (R342, R351); its AUX is the cursor, so that it does not show the remote cause of a failure 0x44 (log entry 143). -/
def jobRec (s : State) (j : Nat) (d : Job) (acc : Nat) (va : Word) (e : XErr) (count : Nat) : Rec :=
  { agentRec s 6 (.job j) d.rid acc va e with count := count, aux := d.cursor, dlv := d.deliv }

/-- Open the job's record, or write it again when it is open. -/
def jobRecord (s : State) (j : Nat) (d : Job) (acc : Nat) (va : Word) (e : XErr) (count : Nat) : State :=
  match d.record with
  | none => openRec s (jobRec s j d acc va e count) (some (.job j)) []
  | some idx => rewriteRec s idx fun r => { r with va := va, acc := acc, cause := e.cause, aux := d.cursor, count := count, dlv := d.deliv }

/-- The 64 bytes of the progress cursor (R352). -/
def cursorBytes (s : State) (d : Job) (jstate : Nat) : List Byte :=
  let oldest := match d.bw with | id :: _ => s.accs.find? (fun a : Acc => a.id == id) | [] => none
  leBytes d.pos 4 ++ leBytes d.deliv 4 ++ leBytes d.bw.length 2 ++ leBytes 0 2 ++ leBytes d.seg 4
    ++ (match oldest with
      | some a => leBytes a.va.toNat 8 ++ leBytes a.tag 4
      | none => leBytes 0 12)
    ++ leBytes jstate 1 ++ List.replicate 35 0

/-- Write the cursor; one whose address does not translate is not written (log entry 42), and one that breaks R13 to R18 is an address fault
(R19). -/
def writeCursor (s : State) (j : Nat) (d : Job) (jstate : Nat) : State :=
  match resolve s (rtOf s d.rid false) d.unit d.cursor 64 false true with
  | (s1, .ok segs) => writeBytes (meterSegs s1 d.rid segs) ((segPAs segs).zip (cursorBytes s1 d jstate))
  | (s1, .error e) => if e.cause < 0x40 then agentAddrFault s1 (.job j) d.rid 1 d.cursor e.cause else s1

/-- A full backwash suspends the job (R352). -/
def suspendJob (s : State) (j : Nat) (d : Job) : State := (writeCursor s j d 1).setJob j { d with susp := true }

/-- The array word that the job reads next: its address and size. A segment begins with both its offsets. -/
def jobWord (d : Job) : Word × Nat :=
  match d.lim with
  | none => (d.offptr + BitVec.ofNat 64 (4 * d.seg), 8)
  | some _ => let n := if d.idx64 then 8 else 4; (d.idxptr + BitVec.ofNat 64 (n * d.pos), n)

/-- An array read stops the job at its word (R351). -/
def wordFault (s : State) (j : Nat) (d : Job) (va : Word) (e : XErr) : State :=
  if e.cause < 0x40 then agentAddrFault s (.job j) d.rid 0 va e.cause
  else (jobRecord (s.setJob j { d with wordVa := some va }) j { d with wordVa := some va } 0 va e d.bw.length)

/-- The access of one element of a job: ACC code, and the permissions it needs (R337). -/
def Job.acc (d : Job) : Nat := if !d.scat then 0 else if d.op = 1 then 2 else 1
def Job.needs (d : Job) : Bool × Bool := if !d.scat then (true, false) else if d.op = 1 then (true, true) else (false, true)

/-- Bytes of a job's element. -/
def Job.size (d : Job) : Nat := d.lanes * (fmtWidth d.fmt / 8)

/-- Put an entry at the end of the reorder buffer of the job's port. -/
def pushRob (s : State) (d : Job) (e : RobE) : State :=
  let q := s.port d.cv d.port
  match q.bind with
  | some b => s.setPort d.cv d.port { q with bind := some { b with rob := b.rob ++ [e] } }
  | none => s

/-- A gather's element with its translation, or none for one that goes to the backwash. -/
def gatherIssue (s : State) (j : Nat) (d : Job) (va : Word) (segs : Option (List (PA × Nat))) : State :=
  let w := portNode s d.rid d.cv d.port
  let wave := match w with | some (_, f, _) => f.v | none => false
  let r := addAcc s (.job j) d.rid va d.size (.rd d.size) (segs.getD []) (!wave && segs.isSome) d.pos
  let s1 := match w with | some (n, f, _) => if wave then pushWave r.1 n f (some r.2) else r.1 | none => r.1
  let d1 := { d with pos := d.pos + 1, bw := if segs.isNone then d.bw ++ [r.2] else d.bw }
  let s2 := pushRob (s1.setJob j d1) d ⟨some r.2, none, none⟩
  if segs.isNone then s2 else detUp s2 d.rid (detKey s1 (.job j)) .ms

/-- A faulting element of a job that diverts it (R351): into the backwash, with a record for the first; a full backwash suspends. -/
def divert (s : State) (j : Nat) (d : Job) (va : Word) (e : XErr) : State :=
  if 256 ≤ d.bw.length then suspendJob s j d
  else
    let s1 := if d.record.isNone then jobRecord s j d d.acc va e 1 else s
    match s1.job j with
    | none => s1
    | some d1 =>
      if d.scat then s1.setPort d.cv d.port { s1.port d.cv d.port with rdy := some (va, []) }
      else jobCount (gatherIssue s1 j d1 va none) j

/-- An element of a job meets a fault (R19, R351, R353). -/
def elemFault (s : State) (j : Nat) (d : Job) (va : Word) (e : XErr) : State :=
  if e.cause < 0x40 then agentAddrFault s (.job j) d.rid d.acc va e.cause
  else if d.scat && d.op != 1 then openRec s (jobRec s j d 1 va e 0) (some (.job j)) []
  else divert s j d va e

/-- A read of `n` array bytes at `a` by a job: its bytes with poison, or why it does not go on now. -/
inductive JobRd where
  | ok (v : Nat) (psn : Bool)
  | stop
  deriving DecidableEq, Repr

/-- Read array bytes through the base die's cache; a miss begins a walk, a fault stops the job. -/
def jobRead (s : State) (j : Nat) (d : Job) (a : Word) (n : Nat) : State × JobRd :=
  let rt := rtOf s d.rid false
  match tryXl s rt d.unit a n true false with
  | (s1, .ok segs) => let r := rdSegs (meterSegs s1 d.rid segs) segs; (r.1, .ok (leNat r.2.1) r.2.2)
  | (s1, .miss va) => (beginWalk s1 d.unit rt.root va true false (.job j) none, .stop)
  | (s1, .err e) => (wordFault s1 j d a e, .stop)

/-- The target of index `v`. -/
def jobTarget (d : Job) (v : Nat) : Word := d.base + BitVec.ofNat 64 (v * d.scale)

/-- Translate the element at `va` and issue it by `go`. -/
def jobElem (s : State) (j : Nat) (d : Job) (va : Word) (go : State → List (PA × Nat) → State) : State :=
  let rt := rtOf s d.rid false
  match tryXl s rt d.unit va d.size d.needs.1 d.needs.2 with
  | (s1, .ok segs) => go s1 segs
  | (s1, .miss a) => beginWalk s1 d.unit rt.root a d.needs.1 d.needs.2 (.job j) none
  | (s1, .err e) => elemFault s1 j d va e

/-- Whether a job goes on: it runs, is neither suspended nor ended, has not stopped at an array word, and its base die can hold its misses
(R338). -/
def jobRuns (s : State) (d : Job) : Bool := running s d.rid && !d.susp && !d.ended && d.wordVa.isNone && !walksFull s d.unit

/-- Entries of the reorder buffer that hold a place besides those of the backwash, and the tokens delivered (log entry 43). -/
def jobHeld (s : State) (d : Job) : Nat :=
  let q := s.port d.cv d.port
  let rob := match q.bind with | some b => b.rob | none => []
  (rob.filter fun e => match e.acc with | some id => !d.bw.contains id | none => true).length + q.buf.length

/-- The end of a segment, or of the job (R186). -/
def segEnd (s : State) (j : Nat) (d : Job) : State :=
  if d.nseg = 0 then s.setJob j { d with ended := true }
  else
    let s1 := pushRob s d ⟨none, some (eofTok (d.seg % 65536)), none⟩
    deliver (s1.setJob j { d with seg := d.seg + 1, lim := none, ended := decide (d.nseg ≤ d.seg + 1) }) d.cv d.port

/-- An active clock of a residency's undertow engines (R331). -/
def noteJob (s : State) (rid : Nat) : State := modRes s rid fun r => { r with act := { r.act with jobs := r.act.jobs + 1 } }

/-- One step of a gather within a segment: its end, or its next element. A poisoned index gives POISON (log entry 41), and of a V node a
null record: it has one for each element (R264). -/
def gatherStep (s : State) (j : Nat) (d : Job) (lim : Nat) : State :=
  if lim ≤ d.pos then segEnd s j d
  else
    let a := jobWord d
    match jobRead s j d a.1 a.2 with
    | (s1, .stop) => s1
    | (s1, .ok _ true) =>
      let s2 := match portNode s1 d.rid d.cv d.port with
        | some (n, f, _) => if f.v then pushWave s1 n f none else s1
        | none => s1
      deliver (pushRob (s2.setJob j { d with pos := d.pos + 1 }) d ⟨none, some poisonTok, none⟩) d.cv d.port
    | (s1, .ok v false) =>
      jobElem s1 j d (jobTarget d v) fun t segs => gatherIssue t j d (jobTarget d v) (some segs)

/-- Whether a job has something to issue now: a gather its segment's offsets, an element or its end, a scatter the element of the token
before its node. -/
def jobReady (s : State) (j : Nat) (d : Job) : Bool :=
  let q := s.port d.cv d.port
  jobRuns s d && !walking s (.job j) && q.unb != some true
    && (if d.scat then
        (match q.bind with
        | some b => (d.op == 1 || d.record.isNone) && q.rdy.isNone && !b.fin && portWants s d.rid d.cv d.port b
        | none => false)
      else decide (jobHeld s d < 32))

/-- The job that an engine lets issue in this clock (R325, log entry 103), with the arbitration after it; the oldest has the lowest number. -/
def jobTurn (s : State) (eng : Nat) : Arb × Option Nat :=
  (Tab.get Arb.empty s.earb eng).choose (dieClock s (eng / 8))
    ((s.jobs.filter fun e => decide (e.2.eng = eng) && jobReady s e.1 e.2).map (·.1))

/-- The step that job `j`'s engine lets it make, or none. -/
def onJobTurn (s : State) (j : Nat) (d : Job) (f : State → State) : State :=
  match jobTurn s d.eng with
  | (a, some w) => if w = j then f { s with earb := Tab.insert s.earb d.eng a } else s
  | _ => s

/-- One step of a gather: a segment's offsets, an element, or a segment's end. A poisoned offset gives one POISON before the segment's
EOF (log entry 41). -/
def gatherTurn (s : State) (j : Nat) (d : Job) : State :=
  noteJob (match d.lim with
    | some l => gatherStep s j d l
    | none =>
      let a := jobWord d
      match jobRead s j d a.1 a.2 with
      | (s1, .stop) => s1
      | (s1, .ok v psn) =>
        if psn then segEnd (pushRob s1 d ⟨none, some poisonTok, none⟩) j d
        else s1.setJob j { d with pos := v % 2 ^ 32, lim := some (min (v / 2 ^ 32) d.count) }) d.rid

/-- GATHER_ELEMENT (R186, R306, R325, R351). -/
def execGatherElement (job : Nat) (s : State) : Host.Outcome State Fault Refusal :=
  match s.job job with
  | none => .next s
  | some d => .next (if d.scat then s else onJobTurn s job d fun t => gatherTurn t job d)

/-- The index and the translation of the element of the next token, held for its node. -/
def scatterTurn (s : State) (j : Nat) (d : Job) : State :=
  let a := jobWord d
  noteJob (match jobRead s j d a.1 a.2 with
    | (s1, .stop) => s1
    | (s1, .ok _ true) => s1.setPort d.cv d.port { s1.port d.cv d.port with rdy := some (0, [(⟨.hbm, 0⟩, 0)]) }
    | (s1, .ok v false) =>
      jobElem s1 j d (jobTarget d v) fun t segs =>
        t.setPort d.cv d.port { t.port d.cv d.port with rdy := some (jobTarget d v, segs) }) d.rid

/-- SCATTER_ELEMENT (R187, R325, R353). -/
def execScatterElement (job : Nat) (s : State) : Host.Outcome State Fault Refusal :=
  match s.job job with
  | none => .next s
  | some d => .next (if d.scat then onJobTurn s job d fun t => scatterTurn t job d else s)

/-! ### Copy queues -/

/-- Source and destination of byte `off` of the standing firing, PATCH in place of the faulting side from its offset on (R190, R349). -/
def copyAddr (q : CopyQ) (t : Tmpl) (off : Nat) : Word × Word :=
  let src := t.src + BitVec.ofInt 64 ((q.f : Int) * t.sstep) + BitVec.ofNat 64 off
  let dst := t.dst + BitVec.ofInt 64 ((q.f : Int) * t.dstep) + BitVec.ofNat 64 off
  let patched := fun (p : Option (Word × Nat)) (a : Word) =>
    match p with
    | some (w, from_) => if from_ ≤ off then w + BitVec.ofNat 64 (off - from_) else a
    | none => a
  (patched q.spatch src, patched q.dpatch dst)

/-- The bytes of the piece at `off`: up to the destination's next aligned word, which one access writes (R292, R303, log entry 141), or the end. -/
def pieceLen (t : Tmpl) (dst : Word) (off : Nat) : Nat := min (8 - dst.toNat % 8) (t.bytes - off)

/-- Those of them that the source has before its next 64 KiB boundary. -/
def headLen (src : Word) (n : Nat) : Nat := min n (65536 - src.toNat % 65536)

/-- The bytes that one side of the piece at `off`, whose addresses are `a`, is translated for at once. -/
def sideLen (t : Tmpl) (a : Word × Word) (off : Nat) (wside : Bool) : Nat :=
  if wside then pieceLen t a.2 off else headLen a.1 (pieceLen t a.2 off)

/-- The record of a copy (R341, R348, R349); LAYOUT is reported as R15 gives. Its AUX is OFFSET, so that it does not show the remote cause of a
failure 0x44 (log entry 143). -/
def copyRec (s : State) (cv q : Nat) (t : Tmpl) (c : CopyQ) (off acc : Nat) (va : Word) (e : XErr) : Rec :=
  { agentRec s (if t.trapm then 3 else 2) (.copy cv q) t.rid acc va e with
    i := let a := (shownPtr (rtOf s t.rid false) t.layout).toNat; [a % 2 ^ 32, a / 2 ^ 32, 0, 0]
    dlv := c.f
    ctx := if t.trapm then t.ctx % 4 else 0xFF
    aux := BitVec.ofNat 64 off }

/-- A copy meets a fault on one side (R19, R348, R349). -/
def copyFault (s : State) (cv q : Nat) (t : Tmpl) (c : CopyQ) (off : Nat) (wside : Bool) (va : Word) (e : XErr) : State :=
  if e.cause < 0x40 then agentAddrFault s (.copy cv q) t.rid wside.toNat va e.cause
  else
    openRec (s.setCq cv q { c with wside := wside }) (copyRec s cv q t c off wside.toNat va e) (some (.copy cv q))
      (if t.trapm then [(t.rid, t.ctx)] else [])

/-- One side's translation for a copy: its segments, or the state in which the copy waits or is frozen. -/
def copySide (s : State) (cv q : Nat) (t : Tmpl) (c : CopyQ) (off n : Nat) (wside : Bool) (va : Word) :
    State × Option (List (PA × Nat)) :=
  let rt := rtOf s t.rid false
  match tryXl s rt (dieOf cv) va n (!wside) wside with
  | (s1, .ok segs) => (s1, some segs)
  | (s1, .miss a) =>
    (beginWalk s1 (dieOf cv) rt.root a (!wside) wside (.copy cv q) none, none)
  | (s1, .err e) => (copyFault s1 cv q t c off wside va e, none)

/-- Whether a copy queue has as many reads of shore memory outstanding as it may (R294). -/
def shoreFull (s : State) (cv q : Nat) : Bool :=
  decide (32 ≤ ((accsOf s (.copy cv q)).filter fun a => a.shoreRead || replyWaits s a).length)

/-- Issue `n` bytes at `off` from the segments `src`, once the destination is translated; a read of shore memory waits while 32 are outstanding
(R294). -/
def copyIssue (s : State) (cv q : Nat) (t : Tmpl) (c : CopyQ) (off n : Nat) (src : List (PA × Nat)) : State :=
  let a := (copyAddr c t off).2
  match copySide s cv q t c off n true a with
  | (s1, none) => s1
  | (s1, some dst) =>
    if src.any (fun e => decide (e.1.sp = .shore)) && shoreFull s1 cv q then s1
    else
      let r := addAcc s1 (.copy cv q) t.rid a n (.copy src n) dst true 0
      let s2 := r.1.setCq cv q { r.1.cq cv q with cur := some (off + n) }
      detUp s2 t.rid (detKey s2 (.copy cv q)) .ms

/-- Issue the first `m` of the `n` bytes of the piece at `off`, alone: the source faults behind them, and every byte below OFFSET is copied (R348). -/
def copyHead (s : State) (cv q : Nat) (t : Tmpl) (c : CopyQ) (off : Nat) : State :=
  let a := copyAddr c t off
  let m := headLen a.1 (pieceLen t a.2 off)
  match copySide s cv q t c off m false a.1 with
  | (s1, none) => s1
  | (s1, some src) => copyIssue s1 cv q t c off m src

/-- Issue the piece at `off` of the standing firing. A source that crosses a 64 KiB boundary is translated on both sides of it. -/
def copyPiece (s : State) (cv q : Nat) (t : Tmpl) (c : CopyQ) (off : Nat) : State :=
  let a := copyAddr c t off
  let n := pieceLen t a.2 off
  let m := headLen a.1 n
  let rt := rtOf s t.rid false
  match copySide s cv q t c off m false a.1 with
  | (s1, none) => s1
  | (s1, some src) =>
    if m = n then copyIssue s1 cv q t c off n src
    else match tryXl s1 rt (dieOf cv) (a.1 + BitVec.ofNat 64 m) (n - m) true false with
      | (s2, .ok rest) => copyIssue s2 cv q t c off n (src ++ rest)
      | (s2, .miss va) => beginWalk s2 (dieOf cv) rt.root va true false (.copy cv q) none
      | (s2, .err _) => copyIssue s2 cv q t c off m src

/-- End the standing firing once its bytes are all issued and performed. -/
def copyEnd (s : State) (cv q : Nat) : State :=
  let c := s.cq cv q
  match c.cur, c.tmpl with
  | some off, some t =>
    if t.bytes ≤ off ∧ (accsOf s (.copy cv q)).isEmpty then s.setCq cv q { c with cur := none, f := c.f + 1, spatch := none, dpatch := none } else s
  | _, _ => s

/-- Set COUNT of the poison record of a copy queue, while the record is still this queue's. -/
def psnCount (s : State) (cv q idx : Nat) : State :=
  match Tab.find? s.recs.live idx with
  | some r =>
    if r.kind = 17 ∧ r.loc = 16 * cv ∧ r.unit = 0x50 + q ∧ recState s idx = 3 then
      setRecCount s idx (r.count + 1)
    else s
  | none => s

/-- POISON at a copy queue (R366): the first since the arm writes a record, later ones count. -/
def copyPoison (s : State) (cv q : Nat) (t : Tmpl) (c : CopyQ) : State :=
  match c.psnRec with
  | some idx => psnCount s cv q idx
  | none =>
    let s0 := settleRecs s
    let idx := (freeRec s0).getD 4096
    let s1 := openRec s0 { agentRec s 17 (.copy cv q) t.rid 0 0 ⟨0x54, 0⟩ with aux := BitVec.ofNat 64 c.f } none []
    s1.setCq cv q { s1.cq cv q with psnRec := some idx }

/-- Whether an armed copy queue has a piece to issue, whose deep and peer requests the gate lets (R332), or a token to take. -/
def copyReady (s : State) (cv q : Nat) : Bool :=
  let c := s.cq cv q
  match c.tmpl with
  | none => false
  | some t =>
    goesOn s t.rid && c.frozen.isNone && !walking s (.copy cv q)
      && (match c.cur with
        | some off => decide (off < t.bytes) && (gateLets s t.rid || (shorePtr (copyAddr c t off).1 && shorePtr (copyAddr c t off).2))
        | none => !c.disarm && (accsOf s (.copy cv q)).isEmpty && !c.toks.isEmpty)

/-- The copy queue that the cove lets go on in this clock (R325, log entry 103), with the arbitration after it. -/
def copyTurn (s : State) (cv : Nat) : Arb × Option Nat :=
  (s.cove cv).qarb.choose (cycleOf s cv) ((span 0 64).filter (copyReady s cv))

/-- The next piece of the standing firing, or the next token of an armed queue (R190). -/
def copyStep (s : State) (cv q : Nat) : State :=
  let c := s.cq cv q
  match c.tmpl, c.cur, c.toks with
  | some t, some off, _ => copyPiece s cv q t c off
  | some t, none, k :: rest =>
    let start := k.k = (if t.trig then 0 else 2)
    let c1 := { c with toks := rest, dlv := c.dlv + 1 }
    let s1 := touch (s.setCq cv q { c1 with cur := if start then some 0 else none }) t.rid
    if k.k = 9 then copyPoison s1 cv q t c1 else s1
  | _, _, _ => s

/-- COPY_QUEUE_TOKEN (R190, R325). -/
def execCopyQueueToken (cv q : Nat) (s : State) : Host.Outcome State Fault Refusal :=
  match copyTurn s cv with
  | (a, some w) => .next (if w = q then copyStep (s.setCove cv { s.cove cv with qarb := a }) cv q else s)
  | _ => .next s

/-! ### The wave chain's memory interface (R265, R266) -/

/-- The SELFs of the V nodes of a cell's active context. -/
def chainSelfs (s : State) (ce : Nat) : List (Nat × Nat) :=
  match (ridOfCell s ce).bind (activeOf s) with
  | none => []
  | some ctx =>
    ((span 0 16).filter fun k => (nodeWords s ce ctx k).1 != 0 && (nodeFields (nodeWords s ce ctx k).1).v).map fun k =>
      (16 * ce + k, bitsOf (nodeFields (nodeWords s ce ctx k).1).imm.toNat 28 6)

/-- The first record of each node. -/
def waveHeads : List Nat → List WaveRec → List WaveRec
  | _, [] => []
  | seen, r :: t => if has seen r.node then waveHeads seen t else r :: waveHeads (r.node :: seen) t

/-- Whether a record's triplet is acceptable. -/
def tripletOk (c : Cell) (r : WaveRec) : Bool := decide (r.pred = c.wLast) || (decide (c.wNeed ≠ 63) && decide (r.self = c.wNeed))

/-- Whether the access of a record is there to be issued: none, or translated. -/
def recReady (s : State) (r : WaveRec) : Bool :=
  match r.acc with
  | none => true
  | some id => s.accs.any fun a => a.id == id && !a.segs.isEmpty

/-- The record with the lowest SELF. -/
def lowestSelf : List WaveRec → Option WaveRec
  | [] => none
  | r :: t => match lowestSelf t with | some q => if q.self < r.self then some q else some r | none => some r

/-- Whether the gate lets the access of a record be issued (R332): it is none, or of bytes of a bank. -/
def recLets (s : State) (rid : Nat) (r : WaveRec) : Bool :=
  gateLets s rid || (match r.acc with
    | none => true
    | some id => !(s.accs.any fun a => a.id == id && a.segs.any fun e => decide (e.1.sp ≠ .shore)))

/-- Accept a record: its access is issued, in its place of the chain's order; LAST and NEED move on. -/
def acceptRec (s : State) (ce : Nat) (r : WaveRec) : State :=
  let c := s.cell ce
  let top := ((chainSelfs s ce).map (·.2)).foldl max 0
  let s1 := s.setCell ce { c with
    wRecs := c.wRecs.filter fun x => decide (x.seq ≠ r.seq)
    wAt := some (dieClock s (dieOf (cvOfCe ce)))
    wLast := if r.self = top then 0 else r.self
    wNeed := if r.self = top then 63 else r.succ }
  match r.acc with
  | none => s1
  | some id =>
    let s2 := { modAcc s1 id (fun a => { a with issued := true, wave := some (ce, s1.nextWave), segs := routeSegs s1 a.segs }) with
      nextWave := s1.nextWave + 1 }
    match s2.accs.find? fun a => a.id == id with
    | some a =>
      (match a.ag, a.kind with
      | .node n, .wr _ => s2.setNode n ((s2.node n).modRep id fun p => { p with acc := none })
      | _, _ => s2)
    | none => s2

/-- The record of a serialised chain (R266). -/
def waveError (s : State) (ce rid : Nat) : State :=
  let c := s.cell ce
  openRec (s.setCell ce { c with wErr := true })
    { Rec.zero with
      kind := 8, cause := 0x55, rid := rid, loc := ce, cycle := cycleOf s (cvOfCe ce)
      ctx := (activeOf s rid).getD 0xFF } none []

/-- WAVE_ACCEPT (R265, R266): the acceptable record of the lowest SELF, one per clock, once its access is translated (R268); a chain that its
triplets block is serialised. -/
def execWaveAccept (ce : Nat) (s : State) : Host.Outcome State Fault Refusal :=
  match ridOfCell s ce with
  | none => .next s
  | some rid =>
    let c := s.cell ce
    let hs := waveHeads [] c.wRecs
    if !goesOn s rid || c.wAt == some (dieClock s (dieOf (cvOfCe ce))) then .next s
    else if c.wErr then
      match c.wRecs with
      | r :: _ =>
        if recReady s r && recLets s rid r && !(s.accs.any fun a => match a.wave with | some (k, _) => k == ce | none => false) then
          .next (acceptRec s ce r)
        else .next s
      | [] => .next s
    else
      match lowestSelf (hs.filter (tripletOk c)) with
      | some r => .next (if recReady s r && recLets s rid r then acceptRec s ce r else s)
      | none =>
        let ns := chainSelfs s ce
        if !ns.isEmpty && ns.all (fun e => hs.any fun r => decide (r.node = e.1)) then
          .next (waveError s ce rid)
        else .next s

/-! ### Memory replies (R256) -/

/-- What the reply of a performed access brings to its agent. -/
def replyTo (s : State) (a : Acc) (data : List Byte) (psn : Bool) : State :=
  match a.ag with
  | .node n => nodeReply s n a.id (some (replyTok (liveNode s a.rid n) a.kind data psn))
  | .port cv p =>
    (match a.kind, (s.port cv p).bind with
    | .rd _, some b => robBack s cv p a.id (if psn then poisonTok else bytesTok (fmtWidth b.fmt) b.lanes data)
    | _, _ => s)
  | .job j =>
    (match s.job j with
    | some d =>
      if d.scat then s.setJob j { d with deliv := d.deliv + 1 }
      else robBack s d.cv d.port a.id (if psn then poisonTok else bytesTok (fmtWidth d.fmt) d.lanes data)
    | none => s)
  | .copy cv q =>
    let s1 := match (s.cq cv q).tmpl with
      | some t => (match t.bar with | some b => creditBar s cv b a.len | none => s)
      | none => s
    copyEnd s1 cv q
  | .ctx _ => tryBars s
  | _ => s

/-- The bytes that a performed access has written, by their offset. -/
def writtenOffs (a : Acc) : List Nat :=
  match a.kind with
  | .wr bs => bs.map (·.1)
  | .fadd f lanes _ mask =>
    let n := fmtWidth f / 8
    ((span 0 lanes).filter fun k => mask.getLsbD k).flatMap fun k => span (n * k) n
  | .cput bs _ _ => span 0 bs.length
  | _ => []

/-- The range written by a write port or a copy queue takes in what an access has written (R185, R307). -/
def noteWritten (s : State) (a : Acc) : State :=
  let at_ := reported a.va a.segs
  let wide := fun (lo hi : Option Word) => (writtenOffs a).foldl (fun (r : Option Word × Option Word) o =>
    (minPtr r.1 (at_ + BitVec.ofNat 64 o), maxPtr r.2 (at_ + BitVec.ofNat 64 o))) (lo, hi)
  let port := fun cv p =>
    let q := s.port cv p
    s.setPort cv p { q with lo := (wide q.lo q.hi).1, hi := (wide q.lo q.hi).2 }
  match a.ag with
  | .port cv p => port cv p
  | .job j => (match s.job j with | some d => port d.cv d.port | none => s)
  | .copy cv q =>
    let c := s.cq cv q
    s.setCq cv q { c with lo := (wide c.lo c.hi).1, hi := (wide c.lo c.hi).2 }
  | _ => s

/-- An access performed: a fenced write, or an addition that meets poison, writes nothing (R355, R363). -/
def performed (s : State) (a : Acc) : Done :=
  let r := perform s a
  if (writtenOffs a).isEmpty || r.psn || (fencedBy s a.rid a.segs).isSome then r else { r with s := noteWritten r.s a }

/-- MEMORY_REPLY (R256, R291): an access in flight that may be performed is performed, and its agent gets the reply; the read of a copy's piece
is followed by its write (R190). -/
def execMemoryReply (id : Nat) (s : State) : Host.Outcome State Fault Refusal :=
  match s.accs.find? fun a => a.id == id with
  | none => .next s
  | some a =>
    if !canPerform s a then .next s
    else
      match a.kind with
      | .copy src _ =>
        let r := copyRead s a src
        let s1 := touch (meter (detMem r.1 a .mr) a) a.rid
        .next (if r.2 then replyTo s1 a [] false else s1)
      | _ =>
        let r := performed s a
        .next (replyTo (touch (meter (detMem (dropAcc r.s id) a .mr) a) a.rid) a r.data r.psn)

/-! ### Tidemark credits (R166, R302) -/

/-- TIDEMARK_CREDIT: credit `k` is applied once the accesses it counts are performed. -/
def execTidemarkCredit (k : Nat) (s : State) : Host.Outcome State Fault Refusal :=
  match s.credits[k]? with
  | none => .next s
  | some c =>
    if c.after.any fun i => s.accs.any fun a => a.id == i then .next s
    else .next (creditBar { s with credits := dropNth s.credits k } c.cv c.bar c.n)

/-! ### UNBIND takes effect (R188, R307, R308) -/

/-- Deposit an entry in a die's strandline log; a full log sets the residency's overflow mark, with one record. -/
def deposit (s : State) (die rid : Nat) (lo hi : Word) : State :=
  let l := Tab.get [] s.logs die
  if l.length < 256 then { s with logs := Tab.insert s.logs die (l ++ [⟨rid, lo, hi⟩]) }
  else match Tab.find? s.res rid with
    | some r =>
      if r.logOvf then s
      else openRec (modRes s rid fun r => { r with logOvf := true })
        { Rec.zero with kind := 15, cause := 0x53, rid := rid, loc := 16 * 256 * die, cycle := dieClock s die } none []
    | none => s

/-- Close the open record of a port or of its job, as a resumed record is (R188, log entry 44). -/
def closeOpen (s : State) (r : Option Nat) (ag : Agent) : State :=
  match r with
  | some i =>
    if i < 4096 then closeRec s i
    else freezeOn { s with recs := { s.recs with wait := s.recs.wait.filter fun e => decide (e.2.1 ≠ some ag) } } ag none
  | none => s

/-- Drop a job with its backwash. -/
def dropJob (s : State) (j : Nat) : State :=
  match s.job j with
  | some d =>
    let s1 := closeOpen s d.record (.job j)
    { s1 with
      jobs := Tab.erase s1.jobs j
      accs := s1.accs.filter fun a => !d.bw.contains a.id
      walks := s1.walks.filter fun w => decide (w.ag ≠ .job j) }
  | none => s

/-- The port unbound; what it still holds for its node stays. -/
def unbound (s : State) (cv p : Nat) (b : Bind) : State :=
  let s1 := closeOpen s (s.port cv p).frozen (.port cv p)
  let s2 := match b.job with | some j => dropJob s1 j | none => s1
  let q := s2.port cv p
  { s2.setPort cv p { q with bind := none, unb := none, rdy := none, lo := none, hi := none, frozen := none } with
    walks := s2.walks.filter fun w => decide (w.ag ≠ .port cv p) }

/-- The entries of a reorder buffer without those of a job's backwash, which ABORT drops. -/
def robKept (s : State) (b : Bind) (abort : Bool) : List RobE :=
  match b.job.bind s.job with
  | some d => if abort then b.rob.filter fun e => match e.acc with | some id => !d.bw.contains id | none => true else b.rob
  | none => b.rob

/-- Whether a gather's job, or a port's pattern, has no element left. -/
def bindOver (s : State) (b : Bind) : Bool :=
  match b.job.bind s.job with
  | some d => if d.scat then b.fin else d.ended
  | none => b.fin

/-- The port as its UNBIND leaves it on the read side: EOS behind what it still delivers. -/
def readUnbound (s : State) (cv p : Nat) (b : Bind) : State :=
  let s1 := unbound s cv p b
  s1.setPort cv p { s1.port cv p with buf := [(eosTok, [])] }

/-- UNBIND_TAKES_EFFECT (R188). In a region without an active context no node takes what a read port still holds, and ABORT takes effect at
once (R324, log entry 95). -/
def execUnbindTakesEffect (cv p : Nat) (s : State) : Host.Outcome State Fault Refusal :=
  let q := s.port cv p
  match q.bind, q.unb, ridOfUnit s cv p 16 with
  | some b, some abort, some rid =>
    if b.read && abort && (activeOf s rid).isNone then .next (readUnbound s cv p b)
    else if b.read then
      let rob := robKept s b abort
      let d := if rob.length < b.rob.length then deliver (s.setPort cv p { q with bind := some { b with rob := rob } }) cv p else s
      let q1 := d.port cv p
      let left := match q1.bind with | some c => c.rob | none => []
      .next (if (abort || bindOver d b) && left.isEmpty && q1.buf.isEmpty then readUnbound d cv p b else d)
    else if (abort || b.fin || q.took) && (portAccs s cv p).all (fun a => a.segs.isEmpty && abort) then
      let s1 := unbound s cv p b
      .next (match q.lo, q.hi with
        | some lo, some hi => deposit s1 (dieOf cv) rid lo hi
        | _, _ => s1)
    else .next s
  | _, _, _ => .next s

/-! ### Walks (R337, R338) -/

/-- The element whose translation missed at `va`: the target of the index as it stands. -/
def missedElem (s : State) (d : Job) (va : Word) : Word :=
  let a := jobWord d
  match (tryXl s (rtOf s d.rid false) d.unit a.1 a.2 true false).2 with
  | .ok segs =>
    let t := jobTarget d (leNat (rdSegs s segs).2.1)
    if t.toNat ≤ va.toNat ∧ va.toNat < t.toNat + d.size then t else va
  | _ => va

/-- A walk that fails freezes its agent. -/
def walkFailed (s : State) (w : Walk) (e : XErr) : State :=
  match w.ag with
  | .port cv p =>
    (match (s.port cv p).bind, ridOfUnit s cv p 16 with
    | some b, some rid => portFault s cv p rid (s.port cv p) b (elemAddr b) e
    | _, _ => s)
  | .copy cv q =>
    (match (s.cq cv q).tmpl, (s.cq cv q).cur with
    | some t, some off =>
      let a := copyAddr (s.cq cv q) t off
      if !w.needW && bitsOf a.1.toNat 16 36 != bitsOf w.va.toNat 16 36 then copyHead s cv q t (s.cq cv q) off
      else copyFault s cv q t (s.cq cv q) off w.needW (if w.needW then a.2 else a.1) e
    | _, _ => s)
  | .job j =>
    (match s.job j with
    | some d =>
      let a := jobWord d
      if a.1.toNat ≤ w.va.toNat ∧ w.va.toNat < a.1.toNat + a.2 then wordFault s j d a.1 e else elemFault s j d (missedElem s d w.va) e
    | none => s)
  | _ => s

end Sys2Proof.Machine
end

