-- ==== Sys2Proof/Machine/Unmask.lean ====
section
/-!
DEFINITION. The unmasking engines' steps (R288, R375 to R379): the one read of the mask, the ranking, and the accesses in their order.
-/
namespace Sys2Proof.Machine

/-! ### Ranking (R288) -/

/-- Position and confidence of a candidate. -/
def candPos (t : Tok) : Nat := lane 32 t.pay 0
def candConf (t : Tok) : Nat := lane 32 t.pay 2

/-- Whether lanes 0 to 2 are valid. -/
def candValid (t : Tok) : Bool := laneOk 32 t 0 && laneOk 32 t 1 && laneOk 32 t 2

/-- Mask bit `p` of the bytes read. -/
def maskBit (m : List Byte) (p : Nat) : Bool := bitOf (nth 0 m (p / 8)).toNat (p % 8)

/-- The candidates kept, in order of arrival. -/
def kept (m : List Byte) : List Nat → List Tok → List Tok
  | _, [] => []
  | seen, t :: r =>
    if candValid t && maskBit m (candPos t) && !has seen (candPos t) then t :: kept m (candPos t :: seen) r else kept m seen r

/-- Rank order of candidates: higher confidence first, ties to the lower position. -/
def candLt (a b : Tok) : Bool :=
  fpAbove (candConf a) (candConf b) || (!fpAbove (candConf b) (candConf a) && decide (candPos a < candPos b))

/-- The number of commits. -/
def commitCount (r : Round) (m hi c : Nat) : Nat :=
  min (min (max (max ((r.share * m + 255) / 256) hi) r.cmin) r.cmax) c

/-- The commits of a step with M = `m`, in rank order. -/
def commitsOf (r : Round) (mask : List Byte) (m : Nat) (l : List Tok) : List Tok :=
  let k := kept mask [] l
  let hi := (k.filter fun t => fpGe (candConf t) r.tau.toNat).length
  (sortBy candLt k).take (commitCount r m hi k.length)

/-- Whether a candidate names a position at or beyond NPOS; one whose lane 0 is not valid names none (log entry 114). -/
def posOver (r : Round) (l : List Tok) : Bool := l.any fun t => laneOk 32 t 0 && decide (r.npos ≤ candPos t)

/-! ### The accesses (R376 to R378) -/

/-- Whether position `p` lies within RADIUS of a committed one. -/
def hitBy (r : Round) (comm : List Nat) (p : Nat) : Bool := comm.any fun q => decide (p - q ≤ r.radius ∧ q - p ≤ r.radius)

/-- The mask word clears: one for each aligned word that holds a committed bit. -/
def maskAccs (r : Round) (comm : List Nat) : List UmxAcc :=
  (span 0 ((r.npos + 63) / 64)).filterMap fun w =>
    let bits := (comm.eraseDups.filter fun p => p / 64 == w).foldl (fun a p => a + 2 ^ (p % 64)) 0
    if bits = 0 then none else some (.mask (r.maskp + BitVec.ofNat 64 (8 * w)) (~~~(BitVec.ofNat 64 bits)))

/-- The staleness updates, one for each aligned word. -/
def staleAccs (r : Round) (comm : List Nat) : List UmxAcc :=
  (span 0 ((r.npos + 7) / 8)).map fun w =>
    .stale (r.stalep + BitVec.ofNat 64 (8 * w))
      (((span (8 * w) 8).filter fun p => decide (p < r.npos)).map fun p => (p % 8, hitBy r comm p))

/-- All layer-group bits of the round. -/
def allGroups (r : Round) : BitVec 16 := BitVec.ofNat 16 (2 ^ r.lgroups - 1)

/-- The dirty-map writes, ascending; a position hit gets every bit. -/
def dirtyAccs (r : Round) (comm : List Nat) : List UmxAcc :=
  (span 0 r.npos).map fun p => .dirty (r.dirtyp + BitVec.ofNat 64 (2 * p)) (if hitBy r comm p then allGroups r else 0)

/-- What a poisoned step still performs of its accesses (R379). -/
def poisoned (l : List UmxAcc) : List UmxAcc :=
  l.filterMap fun a => match a with | .dirty va _ => some (.dirty va 0) | _ => none

/-- Give the dirty write of position `p` every bit. -/
def markDirty (r : Round) (p : Nat) (l : List UmxAcc) : List UmxAcc :=
  l.map fun a => match a with
    | .dirty va w => if va = r.dirtyp + BitVec.ofNat 64 (2 * p) then .dirty va (allGroups r) else .dirty va w
    | x => x

/-- A staleness counter after a step, and whether the position is marked (R377). -/
def staleNext (r : Round) (old : Nat) (hit : Bool) : Nat × Bool :=
  if hit then (0, true)
  else
    let v := min (old + 1) 255
    if r.stale ≠ 0 ∧ r.stale ≤ v then (0, true) else (v, false)

/-- The address and length of an access. -/
def UmxAcc.va : UmxAcc → Word
  | .mask a _ => a
  | .stale a _ => a
  | .dirty a _ => a
def UmxAcc.len : UmxAcc → Nat
  | .dirty _ _ => 2
  | _ => 8

/-- The bytes that an access writes over the old ones, by offset, and the positions it marks. -/
def UmxAcc.apply (r : Round) (old : List Byte) : UmxAcc → List (Nat × Byte) × List Nat
  | .mask _ w => (((leBytes (BitVec.ofNat 64 (leNat old) &&& w).toNat 8).zipIdx).map fun e : Byte × Nat => (e.2, e.1), [])
  | .dirty _ w => (((leBytes (BitVec.ofNat 16 (leNat old) ||| w).toNat 2).zipIdx).map fun e : Byte × Nat => (e.2, e.1), [])
  | .stale va ls =>
    let rs := ls.map fun e : Nat × Bool => (e.1, staleNext r (nth 0 old e.1).toNat e.2)
    (rs.map (fun e => (e.1, BitVec.ofNat 8 e.2.1)),
      (rs.filter fun e => e.2.2).map fun e => (va - r.stalep).toNat + e.1)

/-! ### A step -/

/-- Replace the step at the head of an engine. -/
def setStep (s : State) (e : Nat) (f : UmxStep → UmxStep) : State :=
  let u := s.umxAt e
  { s with umx := Tab.insert s.umx e { u with steps := match u.steps with | h :: t => f h :: t | [] => [] } }

/-- A translation fault of an engine's access (R379): the record names the UMRANK node. -/
def umxFault (s : State) (e : Nat) (st : UmxStep) (rid acc : Nat) (va : Word) (x : XErr) : State :=
  let r := { agentRec s 4 (.node st.node) rid acc va x with dlv := st.done }
  if x.cause < 0x40 then raiseFatal s { r with kind := 9 } else openRec s r (some (.umx e)) []

/-- Translate an engine's access: its segments, or the state in which it waits or is frozen. -/
def umxXl (s : State) (e : Nat) (st : UmxStep) (r : Round) (acc : Nat) (va : Word) (n : Nat) (needW : Bool) :
    State × Option (List (PA × Nat)) :=
  let rt := { rtOf s r.rid false with root := r.root }
  match tryXl s rt (e / 64) va n true needW with
  | (s1, .ok segs) => (s1, some segs)
  | (s1, .miss a) => (beginWalk s1 (e / 64) r.root a true needW (.umx e) none, none)
  | (s1, .err x) => (umxFault s1 e st r.rid acc va x, none)

/-- The access a step makes next: ACC code, address, length, whether it writes. -/
def stepNext (st : UmxStep) (r : Round) : Nat × Word × Nat × Bool :=
  if !st.begun then (0, r.maskp, 8 * ((r.npos + 63) / 64), false)
  else match st.todo with
    | a :: _ => (2, a.va, a.len, true)
    | [] => (0, r.maskp, 0, false)

/-- Begin a step: the mask is read once (R375). -/
def beginStep (s : State) (e : Nat) (st : UmxStep) (r : Round) : State :=
  let a := stepNext st r
  match umxXl s e st r a.1 a.2.1 a.2.2.1 false with
  | (s1, none) => s1
  | (s1, some segs) =>
    let d := rdSegs (meterSegs s1 st.rid segs) segs
    let m := ((span 0 r.npos).filter (maskBit d.2.1)).length
    setStep d.1 e fun u => { u with begun := true, mask := d.2.1, m := m, psn := u.psn || d.2.2 }

/-- Rank a full step and list its accesses. -/
def rankStep (s : State) (e : Nat) (st : UmxStep) (r : Round) : State :=
  if posOver r st.cands then resFault s st.rid 0x3D (st.node / 16) (st.node % 16)
  else
    let comm := if st.psn then [] else commitsOf r st.mask st.m st.cands
    let ps := comm.map candPos
    let l := maskAccs r ps ++ staleAccs r ps ++ dirtyAccs r ps
    setStep s e fun u => { u with ranked := true, comm := comm, todo := if st.psn then poisoned l else l }

/-- Perform the step's next access as one indivisible access (R304, R378, R379). -/
def doUmxAcc (s : State) (e : Nat) (st : UmxStep) (r : Round) (a : UmxAcc) (rest : List UmxAcc) : State :=
  match umxXl s e st r 2 a.va a.len true with
  | (s1, none) => s1
  | (s1, some segs) =>
    let d := rdSegs (meterSegs s1 st.rid segs) segs
    let w := a.apply r d.2.1
    let ps := segPAs segs
    let credit := fun t : State => match a, r.bar with
      | .dirty _ _, some b => creditBar t (256 * (e / 64) + r.barcove) b 2
      | _, _ => t
    if d.2.2 then
      credit (setStep d.1 e fun u => { u with psn := true, comm := [], todo := poisoned rest, done := u.done + 1 })
    else
      let s2 := writeBytes d.1 (w.1.map fun x : Nat × Byte => (nth ⟨.hbm, 0⟩ ps x.1, x.2))
      credit (setStep s2 e fun u => { u with todo := w.2.foldl (fun l p => markDirty r p l) rest, done := u.done + 1 })

/-- The tokens that UMRANK emits for a step (R288). -/
def stepToks (st : UmxStep) (out1 : Bool) : List (Option Tok × Option Tok) :=
  let n := st.comm.length
  let rows := (st.comm.zipIdx).map fun e : Tok × Nat =>
    mkTok 0 (BitVec.ofNat 128 (e.1.pay.toNat % 2 ^ 96 + e.2 * 2 ^ 96)) 0xF
  let c := if st.psn then poisonTok else ctrlTok (n + (st.m - n) * 65536 + (if st.m = n then 2 ^ 32 else 0))
  rows.map (fun t => (some t, none)) ++ [(some eotTok, if out1 then some c else none)]

/-- End a step: its node emits the result; the engine turns to the next step. -/
def endStep (s : State) (e : Nat) (st : UmxStep) (rid : Nat) : State :=
  let u := s.umxAt e
  let d := s.node st.node
  let out1 := !isNone (liveNode s rid st.node).out1
  { s with umx := Tab.insert s.umx e { u with steps := u.steps.drop 1 } }.setNode st.node
    { d with op := .none, pend := d.pend ++ stepToks st out1 }

/-- UMX_STEP (R375): the engine's next action on the step at its head; none while it waits for a walk. -/
def execUmxStep (eng : Nat) (s : State) : Host.Outcome State Fault Refusal :=
  let u := s.umxAt eng
  match u.steps with
  | [] => .next s
  | st :: _ =>
    let r := s.round eng st.round
    if u.frozen.isSome || walking s (.umx eng) || !running s st.rid then .next s
    else if !st.begun then .next (beginStep s eng st r)
    else if !st.full then .next s
    else if !st.ranked then .next (rankStep s eng st r)
    else match st.todo with
      | a :: rest => .next (touch (doUmxAcc s eng st r a rest) st.rid)
      | [] => .next (touch (endStep s eng st st.rid) st.rid)

end Sys2Proof.Machine
end

