-- ==== Sys2Proof/Machine/Checks.lean ====
section
/-!
DEFINITION. The checks of a stream command before it is issued (R117 to R119, R178, R180), for a block's commands and for those of the
host mailbox (R387): each gives the causes that apply, of which the lowest is reported.
-/
namespace Sys2Proof.Machine

/-! ### Where a command goes (R177) -/

/-- The entry of the scoreboard that takes a command. -/
def sbIndex (w : BitVec 128) : Nat :=
  let sop := cmdSop w
  let tgt := (cmdFields w).tgt.toNat
  if sop ≤ 0x05 then tgt - 0x40
  else if sop ≤ 0x07 then 16 + (tgt - 0x50)
  else if sop = 0x0D ∨ sop = 0x0E then 81
  else if sop ≤ 0x12 then 80
  else if sop ≤ 0x14 then 82
  else 83

/-- The commands that a scoreboard holds, head first. -/
def sbCmds (s : State) (sb : Nat) : List Cmd := Tab.get [] s.sbs sb

/-! ### The check's surroundings -/

/-- What a check sees: the issuer, how a byte of memory reads for a command of a context, the commands before it in its scoreboard, and of those its
own residency's: another half-cove's act on permits, context slots and channels of its own. -/
structure Chk where
  s     : State
  cv    : Nat
  rid   : Nat
  prv   : Priv
  host  : Bool
  rd    : Nat → PA → Byte
  ahead : List (BitVec 128)
  own   : List Cmd

/-- A cause where a condition holds. -/
def ckIf (b : Bool) (c : Nat) : List Nat := if b then [c] else []

/-- Bits of PARAM. -/
def fPar (f : CmdW) (lo n : Nat) : Nat := bitsOf f.param.toNat lo n

/-- The pointer in PARAM[63:0]. -/
def fPtr (f : CmdW) : Word := f.param.extractLsb' 0 64

/-- Whether a tidemark barrier that a field names is not to be had: out of range, not owned by a residency at U, or named by the host. -/
def Chk.barBad (c : Chk) (none_ : Bool) (b : Nat) : Bool :=
  if b = 0xFF then !none_
  else decide (64 ≤ b) || c.host || (c.prv == .u && !ownsUnit c.s c.rid c.cv b 64)

/-- The parameter block pointer and the bits above it (R117, R119). -/
def blockForm (f : CmdW) : List Nat :=
  ckIf (fPar f 64 32 != 0 || fPar f 0 6 != 0 || fPar f 62 2 == 3) 0x1A

/-- FLG and SUB zero. -/
def plainForm (f : CmdW) : List Nat := ckIf (f.flg != 0 || f.sub != 0) 0x1A

/-- TGT zero. -/
def tgtZero (f : CmdW) : List Nat := ckIf (f.tgt != 0) 0x1A

/-! ### Ports and copy queues -/

/-- Whether port `p` will be bound once the commands ahead are performed. -/
def Chk.bound (c : Chk) (p : Nat) : Bool :=
  c.ahead.foldl (fun b w => if 1 ≤ cmdSop w ∧ cmdSop w ≤ 4 then true else if cmdSop w = 5 then false else b)
    ((c.s.port c.cv p).bind.isSome && (c.s.port c.cv p).unb.isNone)

/-- PORTUSE of port `p` in the active context (R193). -/
def portUse (s : State) (rid cv p : Nat) : Nat :=
  match activeOf s rid with
  | none => 0
  | some ctx => match Tab.find? (s.cell (16 * cv + p)).imgs ctx with | some i => i.puse.toNat | none => 0

/-- Port `p`'s target range, owner and state, for a BIND. -/
def Chk.port (c : Chk) (f : CmdW) (bind : Bool) : List Nat :=
  let p := f.tgt.toNat - 0x40
  if f.tgt.toNat < 0x40 ∨ 0x50 ≤ f.tgt.toNat then [0x1A]
  else ckIf (c.bound p == bind) 0x1B ++ ckIf (c.prv == .u && !ownsUnit c.s c.rid c.cv p 16) 0x1C

/-- Whether port `p` counts as a read port (R184): it is bound for reading, or the active context of the residency that owns it uses it for reading.
One that earlier commands will leave bound fails the check of its state. -/
def Chk.readPort (c : Chk) (p : Nat) : Bool :=
  match (c.s.port c.cv p).bind with
  | some b => b.read
  | none => portUse c.s ((ridOfUnit c.s c.cv p 16).getD c.rid) c.cv p == 1

/-- BIND.AFF and BIND.SHORE (R184). -/
def Chk.bindAff (c : Chk) (f : CmdW) : List Nat :=
  let credit := f.flg.getLsbD 0
  c.port f true ++ blockForm f ++ ckIf (f.flg.toNat / 2 != 0) 0x1A
    ++ ckIf (credit && (c.barBad false f.sub.toNat || c.readPort (f.tgt.toNat - 0x40))) 0x1C
    ++ ckIf (!credit && f.sub != 0) 0x1C

/-- BIND.IND and BIND.SCAT (R186, R187). -/
def Chk.bindInd (c : Chk) (f : CmdW) : List Nat := c.port f true ++ blockForm f ++ plainForm f

/-- UNBIND (R188). -/
def Chk.unbind (c : Chk) (f : CmdW) : List Nat :=
  c.port f false ++ ckIf (f.flg.toNat / 2 != 0 || f.sub != 0 || f.param != 0) 0x1A

/-- Whether copy queue `q` will be armed. -/
def Chk.armed (c : Chk) (q : Nat) : Bool :=
  c.ahead.foldl (fun b w => if cmdSop w = 6 then true else if cmdSop w = 7 then false else b) (c.s.cq c.cv q).tmpl.isSome

/-- A copy queue's target range, state and owner. -/
def Chk.queue (c : Chk) (f : CmdW) (arm : Bool) : List Nat :=
  let q := f.tgt.toNat - 0x50
  if f.tgt.toNat < 0x50 ∨ 0x90 ≤ f.tgt.toNat then [0x1A]
  else ckIf (c.armed q == arm) 0x1B ++ ckIf (c.prv == .u && !ownsUnit c.s c.rid c.cv q 64) 0x1C

/-- ARM.COPY (R189) and DISARM.COPY (R191). -/
def Chk.armCopy (c : Chk) (f : CmdW) : List Nat := c.queue f true ++ blockForm f ++ plainForm f
def Chk.disarmCopy (c : Chk) (f : CmdW) : List Nat := c.queue f false ++ plainForm f ++ ckIf (f.param != 0) 0x1A

/-! ### Configuration -/

/-- Whether DIEMASK, BAYMASK and COVEMASK select a cove (R192). -/
def maskSelects (die bay col cv : Nat) : Bool := bitOf die (dieOf cv) && bitOf bay (bayOf cv) && bitOf col (coveNo cv % 16)

/-- The parameter block of an earlier command of the residency: as its target has read it, or as it would read it, with the rights of its issuer and
behind the issuer's stores (R179, R182). -/
def Chk.blockOf (c : Chk) (k : Cmd) : Option (List Byte) :=
  match k.block with
  | some b => some b
  | none =>
    match (resolve c.s (rtOf c.s c.rid (k.prv != .u)) (dieOf c.cv) (fPtr (cmdFields k.w)) 64 true false).2 with
    | .ok segs => some ((segPAs segs).map (c.rd k.x))
    | .error _ => none

/-- Whether an earlier CFG.LOAD selects the issuing cove, by the masks of its block; one whose block does not translate counts as not selecting it,
the model's choice (log entry 136). -/
def Chk.loadsHere (c : Chk) (k : Cmd) : Bool :=
  match c.blockOf k with
  | some b => maskSelects (nth 0 b 20).toNat (leNat ((b.drop 22).take 2)) (leNat ((b.drop 24).take 2)) c.cv
  | none => false

/-- Whether context slot `k` holds an image in the cove, for the residency. -/
def holdsImage (s : State) (rid cv k : Nat) : Bool :=
  (span (16 * cv) 16).any fun ce => ridOfCell s ce == some rid && (Tab.find? (s.cell ce).imgs k).isSome

/-- CFG.LOAD (R192). -/
def Chk.cfgLoad (c : Chk) (f : CmdW) : List Nat :=
  if 4 ≤ f.tgt.toNat then [0x1A]
  else ckIf (activeOf c.s c.rid == some f.tgt.toNat) 0x1B ++ blockForm f ++ plainForm f

/-- CFG.SWAP (R195). -/
def Chk.cfgSwap (c : Chk) (f : CmdW) : List Nat :=
  if 4 ≤ f.tgt.toNat then [0x1A]
  else plainForm f ++ ckIf (f.param != 0) 0x1A
    ++ ckIf (!(holdsImage c.s c.rid c.cv f.tgt.toNat
        || c.own.any fun k => cmdSop k.w == 8 && (cmdFields k.w).tgt == f.tgt && c.loadsHere k)) 0x1B

/-- CFG.PRED (R196). -/
def Chk.cfgPred (_ : Chk) (f : CmdW) : List Nat :=
  tgtZero f ++ plainForm f ++ ckIf (fPar f 64 32 != 0) 0x1A
    ++ ckIf ((span 0 16).any fun v => bitOf (fPar f 48 16) v && decide (5 ≤ fPar f (3 * v) 3)) 0x1C

/-- DRAIN (R197). -/
def Chk.drain (_ : Chk) (f : CmdW) : List Nat := tgtZero f ++ plainForm f ++ ckIf (f.param != 0) 0x1A

/-- PHASE (R198). -/
def Chk.phase (c : Chk) (f : CmdW) : List Nat :=
  ckIf (f.tgt.toNat < 2 || 7 < f.tgt.toNat) 0x1A ++ ckIf (f.flg != 0 || fPar f 32 64 != 0) 0x1A
    ++ ckIf (c.barBad true f.sub.toNat) 0x1C

/-! ### Tasks -/

/-- The device physical address of a task-type entry (R313). -/
def typeAddr (s : State) (idx : Nat) : Nat := s.host.ttbase.toNat + 128 * idx

/-- Whether level `l` and the coordinates suit a launch (R22). -/
def levelOk (l : Launch) (lv : Nat) (x y z : Nat) : Bool :=
  bitOf l.levmask.toNat lv && decide (x < nth 1 l.ext (3 * lv) ∧ y < nth 1 l.ext (3 * lv + 1) ∧ z < nth 1 l.ext (3 * lv + 2))

/-- The level of a residency's task (R199). -/
def recLevel (r : Residency) : Nat := bitsOf r.trec.toNat 37 3

/-- TASK.LAUNCH (R199, R22). -/
def Chk.taskLaunch (c : Chk) (f : CmdW) : List Nat :=
  let lv := bitsOf f.sub.toNat 0 3
  let bad := match Tab.find? c.s.res c.rid with
    | some r => decide (recLevel r ≤ lv) || !levelOk r.lch lv (fPar f 64 16) (fPar f 48 16) (fPar f 32 16)
    | none => true
  ckIf (f.flg.toNat / 2 != 0 || f.sub.toNat / 8 != 0) 0x1A ++ ckIf (4096 ≤ fPar f 80 16) 0x1C
    ++ ckIf (bad || !bitOf (hbmByte c.s (typeAddr c.s (fPar f 80 16) + 49)).toNat 0 || (fPar f 20 12 != 0 && !f.flg.getLsbD 0)) 0x1D

/-- TASK.DEP (R200). -/
def Chk.taskDep (_ : Chk) (f : CmdW) : List Nat :=
  tgtZero f ++ ckIf (f.flg != 0 || fPar f 12 20 != 0 || fPar f 64 32 != 0) 0x1A ++ ckIf (1 < f.sub.toNat) 0x1C

/-! ### Coupling and permits -/

/-- The parameters in PARAM[95:0] of COUPLE, or bytes 0–11 of a coupling entry (R201). -/
def coupPar (v : Nat) : CoupPar where
  s := bitsOf v 24 6 + 1
  p := bitsOf v 30 3
  i := if bitsOf v 33 5 = 31 then none else some (bitsOf v 33 5)
  q := bitsOf v 38 4 + 4
  wmin := bitsOf v 42 8
  wmax := bitsOf v 50 8
  mode := bitsOf v 58 2

/-- The limits of R201, but for those on p and i and S against the depth. -/
def CoupPar.ok (p : CoupPar) : Bool := decide (p.q ≤ 12 ∧ 1 ≤ p.wmin ∧ p.wmin ≤ p.wmax ∧ p.mode ≤ 2)

/-- The limits of R201 on p and i. -/
def CoupPar.stable (p : CoupPar) : Bool :=
  decide (1 ≤ p.p) && (match p.i with | some i => decide (p.p + 3 ≤ i ∧ i ≤ 15) | none => true)

/-- Merge the parts of a graph that an edge joins; none where they are one part already. -/
def joinParts (parts : List (List Nat)) (a b : Nat) : Option (List (List Nat)) :=
  let pa := (parts.find? fun l => has l a).getD [a]
  let pb := (parts.find? fun l => has l b).getD [b]
  if has pa b then none else some ((pa ++ pb) :: parts.filter fun l => !has l a && !has l b)

/-- Whether edges, taken without direction, close a cycle (R329). -/
def hasCycle : List (List Nat) → List (Nat × Nat) → Bool
  | _, [] => false
  | parts, (a, b) :: t => match joinParts parts a b with | some q => hasCycle q t | none => true

/-- The endpoint key that a coupling names in the region (R201, R15). -/
def coupEp (r : Region) (v : Nat) : Option Nat :=
  match r.die (bitsOf v 20 3) with
  | none => none
  | some d =>
    let cv := 256 * d + r.org + bitsOf v 12 8
    let ce := 16 * cv + bitsOf v 8 4 + (if r.kind = 1 ∧ r.half = 1 then 8 else 0)
    if bitsOf v 12 8 + r.org < 192 ∧ r.hasCell ce ∧ 0x20 ≤ bitsOf v 0 8 ∧ bitsOf v 0 8 ≤ 0x3F then
      some (32 * ce + (bitsOf v 0 8 - 0x20)) else none

/-- The mode that a coupled channel will be in. -/
def Chk.modeOf (c : Chk) (r : Residency) (p : Coup) : Nat :=
  c.own.foldl (fun m k => if cmdSop k.w = 0x0F ∧ coupEp r.region (cmdFields k.w).param.toNat = some p.ep then
    (coupPar (cmdFields k.w).param.toNat).mode else m) (p.nxt.getD p.par).mode

/-- COUPLE (R201). -/
def Chk.couple (c : Chk) (f : CmdW) : List Nat :=
  let v := f.param.toNat
  let p := coupPar v
  let bad := match Tab.find? c.s.res c.rid with
    | none => true
    | some r =>
      match coupEp r.region v with
      | none => true
      | some ep =>
        let depth := match endpAt c.s ep with | some e => e.depth | none => 0
        !(r.coups.any fun k => k.ep == ep) || !p.ok || !p.stable || decide (depth < p.s)
          || hasCycle [] ((r.coups.filter fun k => (if k.ep = ep then p.mode else c.modeOf r k) == 0).map fun k => (k.prod, k.cons))
  tgtZero f ++ plainForm f ++ ckIf (fPar f 60 36 != 0 || fPar f 23 1 != 0) 0x1A ++ ckIf bad 0x1C

/-- PERMIT.ADJ (R202): the permits held once the commands ahead are performed bound the new value. -/
def Chk.permitAdj (c : Chk) (f : CmdW) : List Nat :=
  let held := c.own.foldl (fun n k => if cmdSop k.w = 0x10 then bitsOf (cmdFields k.w).param.toNat 0 16 else n)
    (match Tab.find? c.s.res c.rid with | some r => r.permits | none => 0)
  tgtZero f ++ plainForm f ++ ckIf (fPar f 16 80 != 0) 0x1A ++ ckIf (fPar f 0 16 == 0) 0x1C ++ ckIf (held < fPar f 0 16) 0x1E

/-- MSLOT (R203) and CKPT (R212), above U, and SAMPLE.CFG (R204). -/
def Chk.blockCmd (c : Chk) (need : Priv) (f : CmdW) : List Nat :=
  ckIf (!c.prv.admits need) 0x19 ++ tgtZero f ++ plainForm f ++ blockForm f

/-! ### Unmasking -/

/-- Whether round `k` of engine `e` of the die will be open. -/
def Chk.roundOpen (c : Chk) (f : CmdW) : Bool :=
  c.ahead.foldl (fun b w =>
    if (cmdFields w).tgt = f.tgt ∧ (cmdFields w).sub = f.sub then cmdSop w == 0x13 else b)
    (c.s.round (64 * dieOf c.cv + f.tgt.toNat) f.sub.toNat).isOpen

/-- UMX.OPEN (R205) and UMX.CLOSE (R206). -/
def Chk.umxOpen (c : Chk) (f : CmdW) : List Nat :=
  ckIf (3 < f.tgt.toNat || f.flg != 0) 0x1A ++ blockForm f ++ ckIf (c.roundOpen f) 0x1B ++ ckIf (63 < f.sub.toNat) 0x1C
def Chk.umxClose (c : Chk) (f : CmdW) : List Nat :=
  ckIf (3 < f.tgt.toNat || f.flg != 0 || f.param != 0) 0x1A ++ ckIf (!c.roundOpen f) 0x1B ++ ckIf (63 < f.sub.toNat) 0x1C

/-! ### Service -/

/-- XINV (R207, R387). -/
def Chk.xinv (c : Chk) (f : CmdW) : List Nat :=
  ckIf (!c.prv.admits .s) 0x19 ++ tgtZero f ++ plainForm f ++ ckIf (fPar f 64 32 != 0) 0x1A
    ++ ckIf (2 < fPar f 52 4 || (c.host && fPar f 52 4 == 1) || c.barBad true (fPar f 56 8)) 0x1C

/-- What will have become of an open record of residency `rid`: whether it is open, whether its task is parked, whether a resume of it is held. -/
structure RecFate where
  isOpen : Bool
  parked : Bool
  held   : Bool
  deriving DecidableEq, Repr

/-- The fate of record `idx` of residency `rid` once one more command has been performed: a FRESUME closes it, or is held while its task is parked
(R208, R361); an UNPARK applies what is held, or, with SUB 1, frees the record (R360). -/
def RecFate.next (idx rid : Nat) (t : RecFate) (w : BitVec 128) : RecFate :=
  let f := cmdFields w
  if cmdSop w = 0x16 ∧ bitsOf f.param.toNat 0 12 = idx then (if t.parked then { t with held := true } else { t with isOpen := false })
  else if bitsOf f.param.toNat 64 13 ≠ rid then t
  else if cmdSop w = 0x17 then { t with parked := true }
  else if cmdSop w = 0x18 then { isOpen := t.isOpen && f.sub == 0 && !t.held, parked := false, held := false }
  else t

/-- Whether record `idx` will be open once the commands ahead have been performed. -/
def Chk.recOpen (c : Chk) (idx : Nat) : Bool :=
  match Tab.find? c.s.recs.owner idx, Tab.find? c.s.recs.live idx with
  | some _, some r => (c.ahead.foldl (RecFate.next idx r.rid) ⟨true, (Tab.find? c.s.parked r.rid).isSome, r.st == 2⟩).isOpen
  | _, _ => false

/-- FRESUME (R208). -/
def Chk.fresume (c : Chk) (f : CmdW) : List Nat :=
  let idx := fPar f 0 12
  let kind := match Tab.find? c.s.recs.live idx with | some r => r.kind | none => 0
  ckIf (!c.prv.admits .s) 0x19 ++ tgtZero f ++ ckIf (f.flg != 0 || fPar f 12 84 != 0) 0x1A
    ++ ckIf (!c.recOpen idx) 0x1B ++ ckIf (1 < f.sub.toNat || (f.sub == 1 && kind != 3)) 0x1C

/-- Whether a residency is frozen on a fault, `isOpen` saying which open records count: it faulted fatally, has an open record, or waits for one
(R209, R354, R358). -/
def frozenBut (s : State) (isOpen : Nat → Bool) (rid : Nat) (r : Residency) : Bool :=
  decide (r.st ≠ .placed)
    || s.recs.owner.any (fun e => isOpen e.1 && match Tab.find? s.recs.live e.1 with | some q => q.rid == rid | none => false)
    || s.recs.wait.any (fun e => e.1.rid == rid && e.2.1.isSome)

/-- Whether a residency is frozen on a fault now. -/
def frozenRes (s : State) (rid : Nat) (r : Residency) : Bool := frozenBut s (fun _ => true) rid r

/-- Where residency `rid` will be: 0 placed, 1 parked, 2 discarded. -/
def Chk.whereRes (c : Chk) (rid : Nat) : Nat :=
  c.ahead.foldl (fun n w =>
    if bitsOf (cmdFields w).param.toNat 64 13 ≠ rid then n
    else if cmdSop w = 0x17 then 1
    else if cmdSop w = 0x18 then (if (cmdFields w).sub = 0 then 0 else 2)
    else n) (if (Tab.find? c.s.parked rid).isSome then 1 else if (Tab.find? c.s.res rid).isSome then 0 else 2)

/-- The residency `rid`, placed or parked. -/
def anyRes (s : State) (rid : Nat) : Option Residency :=
  match Tab.find? s.res rid with
  | some r => some r
  | none => (Tab.find? s.parked rid).map (·.res)

/-- The save area's address: deep class, 64 KiB aligned (R209). -/
def saveForm (f : CmdW) : List Nat := ckIf (fPar f 0 16 != 0 || fPar f 62 2 != 0) 0x1C

/-- PARK (R209): a FRESUME ahead may leave the residency without an open record (R178). -/
def Chk.park (c : Chk) (f : CmdW) : List Nat :=
  let rid := fPar f 64 13
  let ok := c.whereRes rid == 0 && (match anyRes c.s rid with | some r => r.wdFired || frozenBut c.s c.recOpen rid r | none => false)
  ckIf (!c.prv.admits .s) 0x19 ++ tgtZero f ++ ckIf (f.flg != 0 || fPar f 77 19 != 0) 0x1A
    ++ ckIf (!ok) 0x1B ++ ckIf (f.sub != 0) 0x1C ++ saveForm f

/-- UNPARK (R209). -/
def Chk.unpark (c : Chk) (f : CmdW) : List Nat :=
  let rid := fPar f 64 13
  let fatal := match anyRes c.s rid with | some r => decide (r.st ≠ .placed) | none => false
  ckIf (!c.prv.admits .s) 0x19 ++ tgtZero f ++ ckIf (f.flg != 0 || fPar f 77 19 != 0) 0x1A
    ++ ckIf (c.whereRes rid != 1 || (f.sub == 0 && fatal)) 0x1B ++ ckIf (1 < f.sub.toNat) 0x1C ++ saveForm f

/-- LOG.DRAIN (R210). -/
def Chk.logDrain (c : Chk) (f : CmdW) : List Nat :=
  tgtZero f ++ ckIf (f.flg != 0 || fPar f 80 16 != 0) 0x1A
    ++ ckIf (fPar f 0 4 != 0 || fPar f 62 2 != 0 || fPar f 64 16 == 0 || 256 < fPar f 64 16 || c.barBad true f.sub.toNat) 0x1C

/-- QUIESCE (R211). -/
def Chk.quiesce (c : Chk) (f : CmdW) : List Nat :=
  tgtZero f ++ ckIf (f.flg != 0 || fPar f 64 32 != 0) 0x1A
    ++ ckIf (fPar f 0 3 != 0 || fPar f 62 2 != 0 || c.barBad true f.sub.toNat) 0x1C

/-- SHORE.WIN (R213). -/
def Chk.shoreWin (c : Chk) (f : CmdW) : List Nat :=
  ckIf (!c.prv.admits .s) 0x19
    ++ ckIf (7 < f.tgt.toNat || fPar f 13 19 != 0 || fPar f 51 1 != 0 || fPar f 54 42 != 0) 0x1A ++ plainForm f
    ++ ckIf (15 < fPar f 32 4 + fPar f 40 4 || 11 < fPar f 36 4 + fPar f 44 4) 0x1C

/-! ### The check -/

/-- The causes that apply to a command (R119, R178). -/
def Chk.causes (c : Chk) (w : BitVec 128) : List Nat :=
  match decodeCmd w with
  | .ok (.bindAff f) => c.bindAff f
  | .ok (.bindInd f) => c.bindInd f
  | .ok (.bindScat f) => c.bindInd f
  | .ok (.bindShore f) => c.bindAff f
  | .ok (.unbind f) => c.unbind f
  | .ok (.armCopy f) => c.armCopy f
  | .ok (.disarmCopy f) => c.disarmCopy f
  | .ok (.cfgLoad f) => c.cfgLoad f
  | .ok (.cfgSwap f) => c.cfgSwap f
  | .ok (.cfgPred f) => c.cfgPred f
  | .ok (.drain f) => c.drain f
  | .ok (.phase f) => c.phase f
  | .ok (.taskLaunch f) => c.taskLaunch f
  | .ok (.taskDep f) => c.taskDep f
  | .ok (.couple f) => c.couple f
  | .ok (.permitAdj f) => c.permitAdj f
  | .ok (.mslot f) => c.blockCmd .s f
  | .ok (.sampleCfg f) => c.blockCmd .u f
  | .ok (.umxOpen f) => c.umxOpen f
  | .ok (.umxClose f) => c.umxClose f
  | .ok (.xinv f) => c.xinv f
  | .ok (.fresume f) => c.fresume f
  | .ok (.park f) => c.park f
  | .ok (.unpark f) => c.unpark f
  | .ok (.logDrain f) => c.logDrain f
  | .ok (.quiesce f) => c.quiesce f
  | .ok (.ckpt f) => c.blockCmd .m f
  | .ok (.shoreWin f) => c.shoreWin f
  | _ => [0x18]

/-- The lowest of some causes. -/
def lowest : List Nat → Option Nat
  | [] => none
  | a :: t => match lowest t with | some b => some (min a b) | none => some a

/-- The cause with which a command fails, if it does. -/
def Chk.fails (c : Chk) (w : BitVec 128) : Option Nat := lowest (c.causes w)

end Sys2Proof.Machine
end

