-- ==== Sys2Proof/Machine/CtlInt.lean ====
section
/-!
DEFINITION. The integer, compare, constant and special instructions of the control core (R148 to R154).
-/
namespace Sys2Proof.Machine

/-- 1 when a condition holds, 0 otherwise (R151). -/
def flagWord (b : Bool) : Word := if b then 1 else 0

/-- The signed quotient of R148. -/
def divS (a b : Word) : Word :=
  if b = 0 then -1
  else if sw a = -(2 ^ 63 : Nat) ∧ sw b = -1 then a
  else BitVec.ofInt 64 (Int.tdiv (sw a) (sw b))

/-- The signed remainder of R148, with the sign of a. -/
def remS (a b : Word) : Word :=
  if b = 0 then a
  else if sw a = -(2 ^ 63 : Nat) ∧ sw b = -1 then 0
  else BitVec.ofInt 64 (Int.tmod (sw a) (sw b))

/-- Leading zero bits among the low `n` bits. -/
def clzFrom (v : Nat) : Nat → Nat
  | 0 => 0
  | n + 1 => if v / 2 ^ n % 2 = 1 then 0 else 1 + clzFrom v n

/-- One bits among the low `n` bits. -/
def popFrom (v : Nat) : Nat → Nat
  | 0 => 0
  | n + 1 => v % 2 + popFrom (v / 2) n

/-- The shift amount of R148: bits [5:0]. -/
def shAmt (b : Word) : Nat := b.toNat % 64

/-- ADD (R148). -/
def execAdd (a b p : Byte) (s : State) := slot2 a b p (fun u v => u + v) s
/-- SUB (R148). -/
def execSub (a b p : Byte) (s : State) := slot2 a b p (fun u v => u - v) s
/-- MUL (R148). -/
def execMul (a b p : Byte) (s : State) := slot2 a b p (fun u v => u * v) s
/-- MULH (R148): the high half of the signed product. -/
def execMulh (a b p : Byte) (s : State) :=
  slot2 a b p (fun u v => BitVec.ofInt 64 (sw u * sw v / (2 ^ 64 : Nat))) s
/-- MULHN (R148): the high half of the unsigned product. -/
def execMulhn (a b p : Byte) (s : State) :=
  slot2 a b p (fun u v => BitVec.ofNat 64 (u.toNat * v.toNat / 2 ^ 64)) s
/-- DIV (R148). -/
def execDiv (a b p : Byte) (s : State) := slot2 a b p divS s
/-- DIVN (R148): 2^64 - 1 when b = 0. -/
def execDivn (a b p : Byte) (s : State) := slot2 a b p (fun u v => if v = 0 then -1 else u / v) s
/-- REM (R148). -/
def execRem (a b p : Byte) (s : State) := slot2 a b p remS s
/-- REMN (R148): a when b = 0. -/
def execRemn (a b p : Byte) (s : State) := slot2 a b p (fun u v => if v = 0 then u else u % v) s
/-- AND (R148). -/
def execAnd (a b p : Byte) (s : State) := slot2 a b p (fun u v => u &&& v) s
/-- OR (R148). -/
def execOr (a b p : Byte) (s : State) := slot2 a b p (fun u v => u ||| v) s
/-- XOR (R148). -/
def execXor (a b p : Byte) (s : State) := slot2 a b p (fun u v => u ^^^ v) s
/-- ANDN (R148): a and not b. -/
def execAndn (a b p : Byte) (s : State) := slot2 a b p (fun u v => u &&& ~~~v) s
/-- SHL (R148). -/
def execShl (a b p : Byte) (s : State) := slot2 a b p (fun u v => u <<< shAmt v) s
/-- SHR (R148). -/
def execShr (a b p : Byte) (s : State) := slot2 a b p (fun u v => u >>> shAmt v) s
/-- SAR (R148). -/
def execSar (a b p : Byte) (s : State) := slot2 a b p (fun u v => u.sshiftRight (shAmt v)) s
/-- ROL (R148). -/
def execRol (a b p : Byte) (s : State) := slot2 a b p (fun u v => u.rotateLeft (shAmt v)) s
/-- MIN (R148): signed. -/
def execMin (a b p : Byte) (s : State) := slot2 a b p (fun u v => if sw u ≤ sw v then u else v) s
/-- MAX (R148): signed. -/
def execMax (a b p : Byte) (s : State) := slot2 a b p (fun u v => if sw u ≤ sw v then v else u) s
/-- MINN (R148): unsigned. -/
def execMinn (a b p : Byte) (s : State) := slot2 a b p (fun u v => if u.toNat ≤ v.toNat then u else v) s
/-- MAXN (R148): unsigned. -/
def execMaxn (a b p : Byte) (s : State) := slot2 a b p (fun u v => if u.toNat ≤ v.toNat then v else u) s

/-- CLZ (R149). -/
def execClz (a p : Byte) (s : State) := slot1 a p (fun u => BitVec.ofNat 64 (clzFrom u.toNat 64)) s
/-- POPC (R149). -/
def execPopc (a p : Byte) (s : State) := slot1 a p (fun u => BitVec.ofNat 64 (popFrom u.toNat 64)) s

/-- SEXT (R149): a width outside 1 to 64 traps with OPND_RANGE. -/
def execSext (a b p : Byte) (s : State) :=
  slot2T a b p (fun _ _ u v =>
    if 1 ≤ v.toNat ∧ v.toNat ≤ 64 then .done (BitVec.ofInt 64 (sext v.toNat (u.toNat % 2 ^ v.toNat))) .nothing 0
    else .trap 0x13 0) s

/-- ZEXT (R149). -/
def execZext (a b p : Byte) (s : State) :=
  slot2T a b p (fun _ _ u v =>
    if 1 ≤ v.toNat ∧ v.toNat ≤ 64 then .done (BitVec.ofNat 64 (u.toNat % 2 ^ v.toNat)) .nothing 0
    else .trap 0x13 0) s

/-- Whether a field descriptor is within R150: no other bits, lo + width at most 64. -/
def fieldOk (c : Word) : Bool :=
  let n := c.toNat
  n / 2 ^ 14 == 0 && bitsOf n 6 2 == 0 && decide (bitsOf n 0 6 + bitsOf n 8 6 + 1 ≤ 64)

/-- lo and width of a field descriptor (R150). -/
def fieldLo (c : Word) : Nat := bitsOf c.toNat 0 6
def fieldWidth (c : Word) : Nat := bitsOf c.toNat 8 6 + 1

/-- BEXT (R150). -/
def execBext (a b p c : Byte) (s : State) :=
  slot3T a b p c (fun _ _ u v w =>
    if fieldOk w then
      let f := bitsOf u.toNat (fieldLo w) (fieldWidth w)
      .done (if v = 0 then BitVec.ofNat 64 f else BitVec.ofInt 64 (sext (fieldWidth w) f)) .nothing 0
    else .trap 0x13 0) s

/-- BINS (R150). -/
def execBins (a b p c : Byte) (s : State) :=
  slot3T a b p c (fun _ _ u v w =>
    if fieldOk w then
      let m : Word := BitVec.ofNat 64 ((2 ^ fieldWidth w - 1) * 2 ^ fieldLo w)
      .done ((u &&& ~~~m) ||| ((v <<< fieldLo w) &&& m)) .nothing 0
    else .trap 0x13 0) s

/-- SEL (R150): the chooser in A, the values in B and C. -/
def execSel (a b p c : Byte) (s : State) :=
  slot3T a b p c (fun _ _ u v w => .done (if u ≠ 0 then v else w) .nothing 0) s

/-- CMP.eq (R151). -/
def execCmpEq (a b p : Byte) (s : State) := slot2 a b p (fun u v => flagWord (decide (u = v))) s
/-- CMP.ne (R151). -/
def execCmpNe (a b p : Byte) (s : State) := slot2 a b p (fun u v => flagWord (decide (u ≠ v))) s
/-- CMP.lt (R151): signed. -/
def execCmpLt (a b p : Byte) (s : State) := slot2 a b p (fun u v => flagWord (decide (sw u < sw v))) s
/-- CMP.le (R151): signed. -/
def execCmpLe (a b p : Byte) (s : State) := slot2 a b p (fun u v => flagWord (decide (sw u ≤ sw v))) s
/-- CMP.ltn (R151): unsigned. -/
def execCmpLtn (a b p : Byte) (s : State) := slot2 a b p (fun u v => flagWord (decide (u.toNat < v.toNat))) s
/-- CMP.len (R151): unsigned. -/
def execCmpLen (a b p : Byte) (s : State) := slot2 a b p (fun u v => flagWord (decide (u.toNat ≤ v.toNat))) s
/-- TEST (R151). -/
def execTest (a b p : Byte) (s : State) := slot2 a b p (fun u v => flagWord (decide (u &&& v ≠ 0))) s

/-- IMM (R110, R152). -/
def execImm (i : BitVec 24) (s : State) :=
  slotStep 0xFF (fun _ t => (t, .done (i.signExtend 64) .nothing 0)) s

/-- IMMH (R110, R152). -/
def execImmh (a : Byte) (i : BitVec 16) (s : State) :=
  slot1 a 0xFF (fun u => u <<< 16 ||| i.zeroExtend 64) s

/-- Whether a context at U does not own unit `u` of a bank of `n` (R132). -/
def notOwned (s : State) (q : SlotCx) (u n : Nat) : Bool :=
  q.c.prv == .u && !ownsUnit s q.c.rid q.cv u n

/-- RDS (R153): the state named by `r` at the moment the slot executes. -/
def execRds (r p : Byte) (s : State) :=
  slotStep p (fun q t =>
    let n := r.toNat
    (t, if n < 0x40 then
          (if notOwned t q n 64 then .trap 0x13 0 else .done ((t.bar q.cv n).zeroExtend 64) .nothing 0)
        else if n < 0x48 then
          (if notOwned t q (n - 0x40) 8 then .trap 0x13 0
           else .done (BitVec.ofNat 64 (Tab.get [] (t.cove q.cv).tq (n - 0x40)).length) .nothing 0)
        else if n < 0x50 then
          (if notOwned t q (n - 0x48) 8 then .trap 0x13 0
           else .done (BitVec.ofNat 64 (16 - fqCount t q.cv (n - 0x48))) .nothing 0)
        else .done t.host.compl .nothing 0)) s

/-- Whether a cell belongs to another residency's half-cove (R154). -/
def othersHalf (s : State) (rid ce : Nat) : Bool :=
  s.res.any fun e => decide (e.1 ≠ rid) && e.2.region.kind == 1 && e.2.region.hasCell ce

/-- The flag set of byte lane `k` of a cell, or of all lanes together for k = 16 (R154). -/
def cellFlags (s : State) (ce k : Nat) : BitVec 5 :=
  let t := (s.cell ce).flags
  if k < 16 then Tab.get 0 t k else t.foldl (fun f e => f ||| e.2) 0

/-- RDX (R154). -/
def execRdx (a b p : Byte) (s : State) :=
  slot2T a b p (fun q t u v =>
    let n := u.toNat
    let ce := 16 * q.cv + n
    if n = 16 then .done ((t.cove q.cv).mflags.zeroExtend 64) .nothing 0
    else if n > 16 ∨ v.toNat > 16 ∨ othersHalf t q.c.rid ce then .trap 0x13 0
    else .done ((cellFlags t ce v.toNat).zeroExtend 64) .nothing 0) s

end Sys2Proof.Machine
end

