-- ==== Sys2Proof/Machine/CtlSync.lean ====
section
/-!
DEFINITION. Synchronisation and the token FIFOs at the control core (R164 to R168, R170, R171), with the end of a WAIT's time.
-/
namespace Sys2Proof.Machine

/-- Whether a store or atomic that the context has committed is not yet performed. -/
def storesLeft (s : State) (x : Nat) : Bool := s.accs.any fun a => decide (a.ag = .ctx x)

/-- The line of the block cache with key `k` (twice its number, one more in host memory) as memory holds it. -/
def cacheLine (k : Nat) : List PA :=
  (span (k / 2 * 64) 64).map fun a => ⟨if k % 2 = 0 then .hbm else .host, a⟩

/-- What a context's fetches see once it has executed FENCE (R105): each line that it saw as memory holds it now, none where it is poisoned. -/
def freshSeen (s : State) (l : Tab (Option (List Byte))) : Tab (Option (List Byte)) :=
  l.map fun e => (e.1, if (cacheLine e.1).any (psnAt s) then none else some ((cacheLine e.1).map (rdPA s)))

/-- A context has executed FENCE: the read buffer is emptied (R159, R300), the block cache gives its lines up, and the context's fetches see memory as
it is now (R105, log entry 45). -/
def fenced (s : State) (x : Nat) : State :=
  let s1 := acquire (s.setCtx x { s.ctx x with seen := freshSeen s (s.ctx x).seen }) (cvOfX x)
  s1.setCove (cvOfX x) { s1.cove (cvOfX x) with bcache := [] }

/-- FENCE (R164): completes when the stores of earlier blocks are performed. The stores in flight are performed at every scope at once (log entry 14), so the scope changes nothing here. -/
def execFence (_r p : Byte) (s : State) :=
  slotStep p (fun q t =>
    if storesLeft t q.x then (t, .wait)
    else (fenced t q.x, .done 0 .nothing 0)) s

/-- WAIT (R165): completes here when the counter reads 0, an acquire (R300); `execWaitTimeout` is its other end. -/
def execWait (a p : Byte) (s : State) :=
  slotStep p (fun q t =>
    match q.op t a with
    | none => (t, .later)
    | some u =>
      if u.toNat ≥ 64 ∨ notOwned t q u.toNat 64 then (t, .trap 0x13 0)
      else if t.bar q.cv u.toNat = 0 then (acquire t q.cv, .done 0 .nothing 0)
      else (t, .wait)) s

/-- WAIT_TIMEOUT (R165): 4,096 clocks after the slot began to wait it yields the counter as read. -/
def execWaitTimeout (x k : Nat) (s : State) : Host.Outcome State Fault Refusal :=
  let c := s.ctx x
  match c.st, c.blk with
  | .run, some b =>
    match b.slot k, opnd s x c b ((b.word k).extractLsb' 16 8) with
    | some (.wait t0), some u =>
      if slotOp (b.word k) = 0x61 ∧ t0 + 4096 ≤ dieClock s (dieOf (cvOfX x)) then
        let v := s.bar (cvOfX x) u.toNat
        .next (setSlot (if v = 0 then acquire s (cvOfX x) else s) x k (.done (v.zeroExtend 64) .nothing 0))
      else .next s
    | _, _ => .next s
  | _, _ => .next s

/-- Whether a barrier number and a byte count are within R166 and R167. -/
def barArgsOk (u v : Word) : Bool := decide (u.toNat < 64 ∧ v.toNat < 2 ^ 32)

/-- BBARM (R166): the arm takes place at commit step 1. -/
def execBbarm (a b p : Byte) (s : State) :=
  slot2T a b p (fun q t u v =>
    if !barArgsOk u v || notOwned t q u.toNat 64 then .trap 0x13 0 else .done 0 (.bbarm u.toNat v.toNat) 0) s

/-- SIGNAL (R167): the credit is given at commit step 4. -/
def execSignal (a b p : Byte) (s : State) :=
  slot2T a b p (fun q t u v =>
    if !barArgsOk u v || notOwned t q u.toNat 64 then .trap 0x13 0 else .done 0 (.signal u.toNat v.toNat) 0) s

/-- BAR (R168): the context arrives at commit step 4. -/
def execBar (a p : Byte) (s : State) :=
  slot1T a p (fun _ _ u => if 2 ≤ u.toNat ∧ u.toNat ≤ 7 then .done 0 (.bar u.toNat) 0 else .trap 0x13 0) s

/-- Whether the number of tokens that QPOPs below take from FIFO `f` is settled for a QPOP above slot `j` (R170). -/
def popSettled (s : State) (q : SlotCx) (f j : Nat) : Bool :=
  slotOp (q.b.word j) != 0x64 || q.b.resolved j ||
    (match opnd s q.x q.c q.b ((q.b.word j).extractLsb' 16 8) with
     | some v => decide (v.toNat % 8 ≠ f ∨ v.toNat / 8 % 4 ≠ 0)
     | none => false)

/-- The part of a token that a QPOP yields (R170). -/
def popPart (t : Tok) (part : Nat) : Word :=
  match part with
  | 0 => t.pay.extractLsb' 0 64
  | 1 => t.pay.extractLsb' 64 64
  | _ => BitVec.ofNat 64 (t.kind.toNat + 65536 * t.sb.toNat)

/-- QPOP (R170): waits until its token is present; its completion is an acquire (R300). Where the FIFO holds no token for it whatever the QPOPs
below take, it waits on an empty FIFO already (R140). -/
def execQpop (a p : Byte) (s : State) :=
  slotStep p (fun q t =>
    match q.op t a with
    | none => (t, .later)
    | some u =>
      let f := u.toNat % 8
      let part := u.toNat / 8 % 4
      if u.toNat ≥ 32 ∨ part = 3 ∨ notOwned t q f 8 then (t, .trap 0x13 0)
      else match qpopTok t q.cv q.b q.k f with
        | none => (t, .wait)
        | some tok =>
          if (span 0 q.k).all (popSettled t q f) then (acquire t q.cv, .done (popPart tok part) (if part = 0 then .pop f else .nothing) 0)
          else (t, .later)) s

/-- The token kind that c[5:3] of QPUSH codes (R171). -/
def pushKind (c : Nat) : Nat :=
  match c with
  | 0 => 0
  | 1 => 6
  | 2 => 2
  | 3 => 3
  | 4 => 4
  | 5 => 7
  | _ => 8

/-- The token that QPUSH forms (R171): its fields as they are given, those that R33 has zero for its kind too (log entry 109). -/
def pushTok (lo hi c : Word) : Tok :=
  let k := bitsOf c.toNat 3 3
  let sb := bitsOf c.toNat 16 16
  ⟨BitVec.ofNat 4 (pushKind k), hi ++ lo, BitVec.ofNat 16 (if k = 0 ∧ sb = 0 then 0xFFFF else sb)⟩

/-- QPUSH (R171): the push takes place at commit step 4. -/
def execQpush (a b p c : Byte) (s : State) :=
  slot3T a b p c (fun q t u v w =>
    let n := w.toNat
    if bitsOf n 3 3 = 7 ∨ bitsOf n 6 10 ≠ 0 ∨ n / 2 ^ 32 ≠ 0 ∨ notOwned t q (n % 8) 8 then .trap 0x13 0
    else .done 0 (.push (n % 8) (pushTok u v w)) 0) s

end Sys2Proof.Machine
end

