-- ==== Sys2Proof/Machine/CtlSys.lean ====
section
/-!
DEFINITION. Stream and system instructions of the control core (R172 to R176) and the control and status registers (R133 to
R136, R154).
-/
namespace Sys2Proof.Machine

/-- SCMD (R172): the command from A, high, and B, low (R116). -/
def execScmd (a b p : Byte) (s : State) := slot2T a b p (fun _ _ u v => .done 0 (.scmd (u ++ v)) 0) s

/-- SCMDK (R172): the 16 bytes of a pool entry (R116). -/
def execScmdk (x : BitVec 16) (p : Byte) (s : State) :=
  slotStep p (fun q t =>
    (t, .done 0 (.scmd (BitVec.ofNat 128 (leNat ((q.b.pool.drop (16 * x.toNat)).take 16)))) 0)) s

/-- Whether an agent is frozen on a record that is open. -/
def recordOpen (r : Option Nat) : Bool := match r with | some i => decide (i < 4096) | none => false

/-- The commands queued in a scoreboard. -/
def sbLen (s : State) (sb : Nat) : Nat := (Tab.get [] s.sbs sb).length

/-- Whether the target of a scoreboard is frozen on an open record (R182). -/
def targetOpen (s : State) (sb : Nat) : Bool := recordOpen (Tab.find? s.sbFz sb)

/-- The snapshot of SQRY (R173). The record of a target that is frozen at a command is a fault of the port or queue too (R182). -/
def sqryWord (s : State) (cv t : Nat) : Word :=
  if t < 0x50 then
    let p := s.port cv (t - 0x40)
    let job := (p.bind.bind (·.job)).bind (Tab.find? s.jobs)
    let open_ := recordOpen p.frozen || recordOpen (job.bind (·.record)) || targetOpen s (sbKey cv (t - 0x40))
    BitVec.ofNat 64 (p.bind.isSome.toNat + 2 * open_.toNat + 4 * p.eos.toNat
      + 8 * sbLen s (sbKey cv (t - 0x40)) + 65536 * (p.dlv % 2 ^ 32))
  else
    let q := s.cq cv (t - 0x50)
    BitVec.ofNat 64 (q.tmpl.isSome.toNat + 2 * (recordOpen q.frozen || targetOpen s (sbKey cv (16 + (t - 0x50)))).toNat
      + 8 * sbLen s (sbKey cv (16 + (t - 0x50))) + 65536 * (q.dlv % 2 ^ 32))

/-- SQRY (R173). -/
def execSqry (a p : Byte) (s : State) :=
  slot1T a p (fun q t u =>
    if 0x40 ≤ u.toNat ∧ u.toNat ≤ 0x8F then .done (sqryWord t q.cv u.toNat) .nothing 0 else .trap 0x13 0) s

/-- TRAP (R174): the block traps at execution. -/
def execTrap (c : BitVec 16) (p : Byte) (s : State) :=
  slotStep p (fun _ t => (t, .trap 0x15 (c.zeroExtend 64))) s

/-- Whether slot `j` has executed SYS. -/
def isSys (b : Blk) (j : Nat) : Bool :=
  match b.slot j with
  | some (.done _ (.sys _) _) => true
  | _ => false

/-- SYS (R174): it takes effect at commit; of two that execute, the higher slot traps with OPND_RANGE. -/
def execSys (c : BitVec 16) (p : Byte) (s : State) :=
  slotStep p (fun q t =>
    if (span 0 q.k).any (isSys q.b) then (t, .trap 0x13 0)
    else match (span (q.k + 1) (q.b.body.length - q.k - 1)).find? (isSys q.b) with
      | some j => (settle (setSlot t q.x j (.trapped 0x13 0)) q.x, .done 0 (.sys c.toNat) 0)
      | none => (t, .done 0 (.sys c.toNat) 0)) s

/-! ### Control and status registers (R133) -/

/-- The least privilege that reads register `r`. -/
def csrRead (r : Nat) : Priv :=
  if r ≤ 4 ∨ r = 7 then .s else if r = 0x0B then .m else .u

/-- The least privilege that writes register `r`; none where no privilege does. -/
def csrWrite (r : Nat) : Option Priv :=
  if r ≤ 5 ∨ r = 7 then some .s
  else if r = 0x0B then some .m
  else if r = 6 ∨ r = 0x0C then some .u
  else none

/-- XFFLAGS (R135). -/
def Ctx.xfflags (c : Ctx) : Word := BitVec.ofNat 64 (c.ff.toNat + 256 * c.frm.toNat)

/-- XSTATUS as it stood when the block began (R175). -/
def Blk.xstatus (b : Blk) (c : Ctx) : Word :=
  BitVec.ofNat 64 (c.xstatus.toNat % 64 + 64 * b.apend.toNat)

/-- PERMITS (R133). -/
def permitsWord (s : State) (rid : Nat) : Word :=
  let held := match Tab.find? s.res rid with | some r => r.permits | none => 0
  BitVec.ofNat 64 (held % 65536 + 65536 * (freePermits s % 65536))

/-- CTXINFO (R136). -/
def ctxInfo (s : State) (x rid : Nat) : Word :=
  let cv := cvOfX x
  match Tab.find? s.res rid with
  | some r =>
    BitVec.ofNat 64 (x % 4 + 256 * coveNo cv + 65536 * dieOf cv + 2 ^ 20 * (r.region.kind == 1).toNat
      + 2 ^ 21 * bitsOf r.trec.toNat 37 3 + 2 ^ 32 * (r.tidx % 4096))
  | none => BitVec.ofNat 64 (x % 4 + 256 * coveNo cv + 65536 * dieOf cv)

/-- The value of a register (R133). -/
def csrVal (s : State) (q : SlotCx) (r : Nat) : Word :=
  match r with
  | 0 => q.c.xcause
  | 1 => q.c.xblock
  | 2 => q.c.xslot
  | 3 => q.c.xaddr
  | 4 => q.c.xvec
  | 5 => q.b.xstatus q.c
  | 6 => q.c.xfflags
  | 7 => q.c.xscratch
  | 8 => BitVec.ofNat 64 (cycleOf s q.cv)
  | 9 => permitsWord s q.c.rid
  | 10 => ctxInfo s q.x q.c.rid
  | 11 => q.c.xvecm
  | _ => 0

/-- RDCSR (R175): privilege is checked under R131 and R133. -/
def execRdcsr (r p : Byte) (s : State) :=
  slotStep p (fun q t =>
    (t, if q.c.prv.admits (csrRead r.toNat) then .done (csrVal t q r.toNat) .nothing 0 else .trap 0x14 0)) s

/-- Whether a value sets a reserved bit of register `r` (R133 to R135, R154, R175). The bits of XCAUSE and XSLOT that R133 calls zero count as
reserved, the model's choice (log entry 134). -/
def csrReserved (s : State) (q : SlotCx) (r : Nat) (v : Word) : Bool :=
  let n := v.toNat
  match r with
  | 0 => decide (n / 2 ^ 10 ≠ 0)
  | 2 => decide (n / 2 ^ 8 ≠ 0)
  | 5 => decide (n / 2 ^ 7 ≠ 0)
  | 6 => decide (n / 2 ^ 10 ≠ 0 ∨ bitsOf n 5 3 ≠ 0)
  | 12 =>
    let u := bitsOf n 8 5
    decide (u > 16 ∨ bitsOf n 5 3 ≠ 0 ∨ bitsOf n 13 3 ≠ 0 ∨ n / 2 ^ 32 ≠ 0)
      || (decide (u < 16) && othersHalf s q.c.rid (16 * q.cv + u))
  | _ => false

/-- WRCSR (R175): checked at execution, the privilege before the reserved bits (log entry 127), written at commit step 1. -/
def execWrcsr (a r p : Byte) (s : State) :=
  slot1T a p (fun q t u =>
    match csrWrite r.toNat with
    | none => .trap 0x14 0
    | some w =>
      if !q.c.prv.admits w then .trap 0x14 0
      else if csrReserved t q r.toNat u then .trap 0x13 0
      else .done 0 (.wrcsr r.toNat u) 0) s

/-- The privilege that PPRV codes (R134); a write of 2 leaves the field unchanged. -/
def pprvOf (n : Nat) (old : Priv) : Priv :=
  match n with
  | 0 => .u
  | 1 => .s
  | 3 => .m
  | _ => old

/-- A write of a context's own register at commit step 1. -/
def Ctx.wrCsr (c : Ctx) (r : Nat) (v : Word) : Ctx :=
  match r with
  | 0 => { c with xcause := v }
  | 1 => { c with xblock := v }
  | 2 => { c with xslot := v }
  | 3 => { c with xaddr := v }
  | 4 => { c with xvec := v }
  | 5 => { c with aie := bitOf v.toNat 5, intrap := bitOf v.toNat 4, pprv := pprvOf (bitsOf v.toNat 2 2) c.pprv }
  | 6 => { c with ff := c.ff &&& ~~~(v.extractLsb' 0 5), frm := v.extractLsb' 8 2 }
  | 7 => { c with xscratch := v }
  | 11 => { c with xvecm := v }
  | _ => c

/-- Clear the flags `m` in the byte lanes of a cell that `lanes` selects (R97, R154). -/
def clearFlags (s : State) (ce : Nat) (m : BitVec 5) (lanes : Nat) : State :=
  let c := s.cell ce
  s.setCell ce { c with
    flags := c.flags.map fun e =>
      if bitOf lanes e.1 then (e.1, clearSet e.2 m (Tab.get (0, 0) c.raised e.1) (cycleOf s (cvOfCe ce))) else e }

/-- The write of a register at commit step 1 (R175); a write to XFCLR clears flags of the cove (R154). -/
def wrCsr (s : State) (x r : Nat) (v : Word) : State :=
  if r = 12 then
    let u := bitsOf v.toNat 8 5
    let m : BitVec 5 := v.extractLsb' 0 5
    if u = 16 then
      let c := s.cove (cvOfX x)
      s.setCove (cvOfX x) { c with mflags := clearSet c.mflags m c.mraised (cycleOf s (cvOfX x)) }
    else clearFlags s (16 * cvOfX x + u) m (bitsOf v.toNat 16 16)
  else s.setCtx x ((s.ctx x).wrCsr r v)

/-- XLATE (R176): the translation that an access of the context would use, as the result lays it out, of a larger page the frame
that holds the address (log entry 125); 0 where none exists. -/
def execXlate (a b p : Byte) (s : State) :=
  slotStep p (fun q t =>
    match q.op t a, q.op t b with
    | some u, some v =>
      if !isDeep u || bitsOf u.toNat 52 12 != 0 || decide (v.toNat > 1) then (t, .trap 0x13 0)
      else
        let d := dieOf q.cv
        let rt := ctxRt t q.c
        match xlateDeep t d rt.root u.toNat (v.toNat == 0) (v.toNat == 1) with
        | (t1, .error _) => (t1, .done 0 .nothing 0)
        | (t1, .ok pa) =>
          let z := match tlbFind (Tab.get [] t1.tlb d) rt.root u.toNat with | some e => e.size | none => 0
          (t1, .done (BitVec.ofNat 64 (1 + 2 * z + 8 * (pa.sp == .host).toNat + pa.adr / 65536 * 65536)) .nothing 0)
    | _, _ => (t, .later)) s

end Sys2Proof.Machine
end

