-- ==== Sys2Proof/Machine/Block.lean ====
section
/-!
DEFINITION. The life of a block at the control core: fetch with its checks (R102 to R105, R115, R137), exits, the checks of commit and
the commit steps (R139 to R142), asynchronous events (R146) and the end of YIELDWAIT (R162).
-/
namespace Sys2Proof.Machine

/-! ### The format checks (R104, R115) -/

/-- Whether a header word breaks R102. -/
def headerBad (h : Nat) : Bool :=
  bitsOf h 28 4 != 0xB || bitsOf h 0 12 != 0 || (bitOf h 20 == (bitsOf h 12 8 == 0))

/-- The number of body slots, the pool's offset and its length in 16-byte units (R102, R103). -/
def bodyLen (h : Nat) : Nat := bitsOf h 21 7 + 1
def poolOff (h : Nat) : Nat := 16 * ((8 + 4 * bitsOf h 21 7 + 15) / 16)
def poolLen (h : Nat) : Nat := bitsOf h 12 8

/-- Slots of the stream class (R112). -/
def streamClass (o : Nat) : Bool := o == 0x68 || o == 0x69

/-- Whether a body breaks the limits of R112. -/
def limitBad (body : List (BitVec 32)) : Bool :=
  decide (16 < (body.filter fun w => storeClass (slotOp w)).length ∨ 8 < (body.filter fun w => streamClass (slotOp w)).length)

/-- Word `k` of a body. -/
def wordAt (body : List (BitVec 32)) (k : Nat) : BitVec 32 := nth 0 body k

/-- Whether a reference of slot `k` to slot `r` is allowed (R107, R109). -/
def refOk (body : List (BitVec 32)) (k r : Nat) : Bool := decide (r < k) && slotOp (wordAt body r) != 0x78

/-- The causes of an operand byte of slot `k`. -/
def opndCauses (body : List (BitVec 32)) (k : Nat) (o : Byte) : List Nat :=
  ckIf (!opOk o) 0x06 ++ ckIf (decide (o.toNat < 0x80) && !refOk body k o.toNat) 0x07

/-- What the word before slot `k` uses of an EXT word in slot `k`. -/
def ownerUse (body : List (BitVec 32)) (k : Nat) : Option ExtUse :=
  if k = 0 then none else (slotRow (slotOp (wordAt body (k - 1)))).bind (·.ext)

/-- The causes that apply to an EXT word in slot `k`. -/
def extCauses (body : List (BitVec 32)) (k : Nat) : List Nat :=
  match ownerUse body k with
  | none => [0x0A]
  | some u =>
    let f := slotFields (wordAt body (k - 1)) (wordAt body k)
    (if u.c then opndCauses body (k - 1) f.c else []) ++ ckIf (!u.fieldsOk f) 0x0B

/-- Whether a pool index is beyond the pool (R110). -/
def poolBad (op cplen idx : Nat) : Bool := if op = 0x69 then decide (cplen ≤ idx) else decide (2 * cplen ≤ idx)

/-- The causes that apply to slot `k` (R104, R115). -/
def slotCauses (body : List (BitVec 32)) (cplen k : Nat) : List Nat :=
  let w := wordAt body k
  if slotOp w = 0x78 then extCauses body k
  else if slotOp w = 0 then [0x04]
  else match slotRow (slotOp w) with
  | none => [0x05]
  | some r =>
    let f := slotFields w (wordAt body (k + 1))
    (r.operands f).flatMap (opndCauses body k)
      ++ ckIf (r.fmt.hasPred && f.p != 0xFF && (!predOk f.p || !refOk body k (f.p.toNat % 128))) 0x08
      ++ ckIf (r.ext.isSome && slotOp (wordAt body (k + 1)) != 0x78) 0x09
      ++ ckIf (!r.fieldsOk f) 0x0B
      ++ ckIf (r.fmt == .pool && poolBad (slotOp w) cplen f.o.toNat) 0x0C

/-- The lowest failing slot of a body with its lowest cause. -/
def firstBad (body : List (BitVec 32)) (cplen : Nat) : List Nat → Option (Nat × Nat)
  | [] => none
  | k :: t => match lowest (slotCauses body cplen k) with | some c => some (k, c) | none => firstBad body cplen t

/-- The format fault of a block: XSLOT and the cause. -/
def formatFault (body : List (BitVec 32)) (cplen : Nat) : Option (Nat × Nat) :=
  if limitBad body then some (0x80, 0x03) else firstBad body cplen (span 0 body.length)

/-! ### Fetch (R105, R137) -/

/-- What a fetch reads: the bytes of its lines, or a cause with the address of the trap. -/
inductive Got where
  | ok (bs : List Byte)
  | trap (cause : Nat) (addr : Word)

/-- The key of a resolved line in the block cache. -/
def cacheKey (p : PA) : Nat := 2 * (p.adr / 64) + (if p.sp = .host then 1 else 0)

/-- What reading a line finds: its bytes, none where it is poisoned. -/
def readLine (s : State) (p : PA) : Option (List Byte) :=
  if psnAt s p then none else some ((span p.adr 64).map fun a => rdPA s ⟨p.sp, a⟩)

/-- What a context sees of a line once a fetch of its core has read it: an older content that it sees, but for poison that the read met. -/
def seenAs (own : Bool) (k : Nat) (r : Option (List Byte)) (c : Ctx) : Ctx :=
  if (Tab.find? c.seen k).isNone || (own && r.isNone) then { c with seen := Tab.insert c.seen k r } else c

/-- A line read into the block cache of a core for context `x` (R130): every context that does not see an older content of it sees this one (R105).
A full cache of 512 lines, 32 KiB (R10), gives one up (log entry 7). -/
def seeLine (s : State) (x k : Nat) (r : Option (List Byte)) : State :=
  let v := s.cove (cvOfX x)
  let old := if v.bcache.length < 512 then v.bcache else dropNth v.bcache (Config.freeVictim s.free % v.bcache.length)
  let s1 := s.setCtx x (seenAs true k r (s.ctx x))
  let v1 := s1.cove (cvOfX x)
  { s1.setCove (cvOfX x) { v1 with bcache := old ++ [k], ctxs := v1.ctxs.map fun e => (e.1, seenAs false k r e.2) } with free := s.free + 1 }

/-- Read the lines `ls` for a fetch at `b`, line by line (log entry 123): a line that the block cache does not hold is read from memory, at the
permit meter of the residency (R331); a line is seen as the context's last FENCE found it, or as it was fetched first (R105). -/
def fetchLines (x root : Nat) (b : Word) : List Nat → State → List Byte → State × Got
  | [], s, acc => (s, .ok acc)
  | l :: t, s, acc =>
    match xlateDeep s (dieOf (cvOfX x)) root (64 * l) true false with
    | (s1, .error c) => (s1, .trap c b)
    | (s1, .ok pa) =>
      let k := cacheKey pa
      let hit := has (s1.cove (cvOfX x)).bcache k && (Tab.find? (s1.ctx x).seen k).isSome
      let s2 := if hit then s1 else meterSegs (seeLine s1 x k (readLine s1 pa)) (s1.ctx x).rid [(pa, 64)]
      match Tab.get none (s2.ctx x).seen k with
      | some bs => fetchLines x root b t s2 (acc ++ bs)
      | none => (s2, .trap 0x4C (BitVec.ofNat 64 (64 * l)))

/-- Read `n` bytes at `b` for a fetch. -/
def fetchBytes (s : State) (x root : Nat) (b : Word) (n : Nat) : State × Got :=
  let first := b.toNat / 64
  match fetchLines x root b (span first ((b.toNat + n - 1) / 64 - first + 1)) s [] with
  | (s1, .ok bs) => (s1, .ok ((bs.drop (b.toNat % 64)).take n))
  | r => r

/-- The 32-bit words of bytes. -/
def wordsOf (n : Nat) (bs : List Byte) : List (BitVec 32) := (chunks 4 n bs).map fun l => BitVec.ofNat 32 (leNat l)

/-- The block whose bytes have been read takes its place, or traps with its format fault. -/
def enterBlock (s : State) (x : Nat) (b : Word) (h : Nat) (bs : List Byte) : State :=
  let body := wordsOf (bodyLen h) (bs.drop 4)
  match formatFault body (poolLen h) with
  | some (k, c) => takeTrap s x c k b 0
  | none =>
    let c := s.ctx x
    s.setCtx x { c with blk := some ⟨b, body, bs.drop (poolOff h), !c.evts.isEmpty, []⟩ }

/-- Read the block behind its header: the rights and the translation of all its bytes come before the checks (R137, R142). -/
def fetchBody (s : State) (x : Nat) (rt : Rt) (b : Word) (h : Nat) : State :=
  if headerBad h then takeTrap s x 0x01 0x80 b 0
  else
    let n := poolOff h + 16 * poolLen h
    match classify s rt b n false with
    | .error c => takeTrap s x c 0x80 b (shownPtr rt b)
    | .ok _ =>
      match fetchBytes s x rt.root b n with
      | (s1, .trap c a) => takeTrap s1 x c 0x80 b a
      | (s1, .ok bs) => enterBlock s1 x b h bs

/-- Fetch the block at `b` (R137). -/
def fetchAt (s : State) (x : Nat) (b : Word) : State :=
  let rt := ctxRt s (s.ctx x)
  match classify s rt b 4 false with
  | .error c => takeTrap s x c 0x80 b (shownPtr rt b)
  | .ok _ =>
    if !isDeep b then takeTrap s x 0x25 0x80 b (shownPtr rt b)
    else match xlateDeep s (dieOf (cvOfX x)) rt.root b.toNat true false with
      | (s1, .error c) => takeTrap s1 x c 0x80 b b
      | (s1, .ok _) =>
        if b.toNat % 16 ≠ 0 then takeTrap s1 x 0x02 0x80 b 0
        else match fetchBytes s1 x rt.root b 4 with
          | (s2, .trap c a) => takeTrap s2 x c 0x80 b a
          | (s2, .ok bs) => fetchBody s2 x rt b (leNat bs)

/-- BLOCK_FETCH (R137): a running context with no block in flight fetches the block at its next address; a fetch that reads a line waits for the
gate (R332). -/
def execBlockFetch (x : Nat) (s : State) : Host.Outcome State Fault Refusal :=
  let c := s.ctx x
  match c.st, c.blk with
  | .run, none =>
    let t := fetchAt s x c.next
    .next (if !gateLets s c.rid && asked s t c.rid then s else t)
  | _, _ => .next s

/-! ### What a block has done -/

/-- An executed slot: its number, its effect and its flags. -/
structure DoneSlot where
  k  : Nat
  e  : Eff
  fl : BitVec 5
  deriving DecidableEq, Repr

/-- The executed slots of a block, in order. -/
def Blk.doneSlots (b : Blk) : List DoneSlot :=
  (span 0 b.body.length).filterMap fun k => match b.slot k with | some (.done _ e fl) => some ⟨k, e, fl⟩ | _ => none

/-- Whether every slot has executed or been predicated off. -/
def Blk.finished (b : Blk) : Bool := (span 0 b.body.length).all fun k => b.isExt k || b.resolved k

/-- What an exit does. -/
structure Exit where
  kind : ExitKind
  next : Word
  deriving DecidableEq, Repr

/-- The exits among the executed slots. -/
def exitsOf (l : List DoneSlot) : List Exit :=
  l.filterMap fun d => match d.e with
    | .exit k n => some ⟨k, n⟩
    | .call n _ _ => some ⟨.branch, n⟩
    | _ => none

/-- The SYS slot with its code, if one has executed. -/
def sysOf (l : List DoneSlot) : Option (Nat × Nat) :=
  l.findSome? fun d => match d.e with | .sys c => some (d.k, c) | _ => none

/-- The stream commands with their slots. -/
def cmdsOf (l : List DoneSlot) : List (Nat × BitVec 128) :=
  l.filterMap fun d => match d.e with | .scmd w => some (d.k, w) | _ => none

/-! ### Checks of commit (R119, R178) -/

/-- A byte as a command that context `z` has issued, or issues with block `b` of context `x`, will see it: the block's own stores for `x`, then the
issuer's in flight, then memory (R179). -/
def cmdByte (s : State) (x : Nat) (b : Blk) (z : Nat) (p : PA) : Byte :=
  match (if z = x then forwarded b p (span 0 b.body.length).reverse else none) with
  | some v => v
  | none => (inFlight (fun y => y == z) p s.accs).getD (rdPA s p)

/-- The commands of residency `rid` that stand in a scoreboard. -/
def ownAhead (s : State) (sb rid : Nat) : List Cmd := (sbCmds s sb).filter fun c => !c.host && c.gone.isNone && c.rid == rid

/-- The first command that fails, with its slot and cause; `done` holds the block's earlier commands. -/
def cmdFault (s : State) (x : Nat) (c : Ctx) (b : Blk) : List (BitVec 128) → List (Nat × BitVec 128) → Option (Nat × Nat)
  | _, [] => none
  | done, (k, w) :: t =>
    let cv := cvOfX x
    let sb := sbKey cv (sbIndex w)
    let mine := done.filter fun v => sbIndex v == sbIndex w
    let own := mine.map fun v => Cmd.mk v x c.rid c.prv false [] none none
    match (Chk.mk s cv c.rid c.prv false (cmdByte s x b) ((sbCmds s sb).map (·.w) ++ mine) (ownAhead s sb c.rid ++ own)).fails w with
    | some cause => some (k, cause)
    | none => cmdFault s x c b (done ++ [w]) t

/-- The trap of a finished block before commit, if any: slot, cause (R139, R142, R174, R119). -/
def commitTrap (s : State) (x : Nat) (c : Ctx) (b : Blk) (l : List DoneSlot) : Option (Nat × Nat) :=
  match exitsOf l with
  | [] => some (0x80, 0x10)
  | [e] =>
    (match sysOf l with
    | some (k, _) => if e.kind = .halt ∨ e.kind = .eret then some (k, 0x13) else cmdFault s x c b [] (cmdsOf l)
    | none => cmdFault s x c b [] (cmdsOf l))
  | _ => some (0x80, 0x11)

/-- Whether the FIFOs and scoreboards that the block names have room for all of it (R141); a token on its way to a FIFO has its place there. -/
def commitRoom (s : State) (cv : Nat) (l : List DoneSlot) : Bool :=
  let pushes := l.filterMap fun d => match d.e with | .push f _ => some f | _ => none
  let boards := (cmdsOf l).map fun e => sbIndex e.2
  (pushes.all fun f => decide (fqCount s cv f + (pushes.filter (· == f)).length ≤ 16))
    && boards.all fun i => decide (sbLen s (sbKey cv i) + (boards.filter (· == i)).length ≤ 16)

/-- Whether the gate lets the block's stores and atomics to deep or peer memory be issued (R332). -/
def commitGate (s : State) (rid : Nat) (l : List DoneSlot) : Bool :=
  gateLets s rid || !(l.any fun d => match d.e with
    | .store p _ _ _ => decide (p.sp ≠ .shore)
    | .atomic _ p _ _ _ _ => decide (p.sp ≠ .shore)
    | _ => false)

/-! ### The commit steps (R141) -/

/-- Step 1 of one slot. -/
def commit1 (x : Nat) (s : State) (d : DoneSlot) : State :=
  match d.e with
  | .put r v => s.setCtx x ((s.ctx x).setReg r v)
  | .call _ r v => s.setCtx x ((s.ctx x).setReg r v)
  | .bbarm bar n => armBar s (cvOfX x) bar n
  | .wrcsr r v => wrCsr s x r v
  | _ => s

/-- The FP32 flags of a block ORed into XFFLAGS. -/
def orFlags (x : Nat) (s : State) (l : List DoneSlot) : State :=
  let c := s.ctx x
  s.setCtx x { c with ff := l.foldl (fun f d => f ||| d.fl) c.ff }

/-- Perform the stores of a core that are in flight to the bytes of a segment, which its loads have shown before the atomic (R138, R292). -/
def flushCore (x : Nat) (e : PA × Nat) : List Acc → State → State
  | [], s => s
  | a :: t, s =>
    if sameCore a.ag (.ctx x) && a.segs.any (meets e) then flushCore x e t (meter (dropAcc (perform s a).s a.id) a)
    else flushCore x e t s

/-- The record of an atomic that met poison (R161). -/
def atomPoisoned (s : State) (x : Nat) (va : Word) : State :=
  let c := s.ctx x
  let cv := cvOfX x
  openRec s
    { Rec.zero with
      kind := 14, cause := 0x4C, rid := c.rid, acc := 2, loc := 16 * cv, ctx := x % 4
      va := shownPtr (ctxRt s c) va, cycle := cycleOf s cv } none [(c.rid, x)]

/-- An atomic of R161: old value into register `d`; a fenced one is discarded with old value 0 (R355), a poisoned one writes nothing. -/
def commitAtomic (x : Nat) (s : State) (op : Nat) (pa : PA) (va v c : Word) (d : Nat) : State :=
  let s1 := dropLine (flushCore x (pa, 8) s.accs s) (cvOfX x) pa
  let old := fun (t : State) (w : Word) => t.setCtx x ((t.ctx x).setReg d w)
  match fencedBy s1 (s1.ctx x).rid [(pa, 8)] with
  | some fr => old (tellFenced s1 (s1.ctx x).rid fr (pa.adr / 65536)) 0
  | none =>
    let segs := routeSegs s1 [(pa, 8)]
    let r := rdSegs (meterSegs s1 (s1.ctx x).rid segs) segs
    if r.2.2 then old (atomPoisoned r.1 x va) 0
    else
      let w := BitVec.ofNat 64 (leNat r.2.1)
      old (writeBytes r.1 ((segPAs [(pa, 8)]).zip (leBytes (atomicNew op w v c).toNat 8))) w

/-- Step 2 of one slot: a store goes on its way, an atomic is performed. -/
def commit2 (x : Nat) (s : State) (d : DoneSlot) : State :=
  match d.e with
  | .store pa va n v =>
    updLine (addAcc s (.ctx x) (s.ctx x).rid va n (.wr (((leBytes v.toNat n).zipIdx).map fun e : Byte × Nat => (e.2, e.1)))
      (routeSegs s [(pa, n)]) true 0).1 (cvOfX x) pa n v
  | .atomic op pa va v c r => commitAtomic x s op pa va v c r
  | _ => s

/-- The accesses of a context that are in flight. -/
def ownAccs (s : State) (x : Nat) : List Nat := (accsOf s (.ctx x)).map (·.id)

/-- Step 3 of one slot: the command enters its scoreboard, released after the context's stores (R179). -/
def commit3 (x : Nat) (s : State) (d : DoneSlot) : State :=
  match d.e with
  | .scmd w =>
    let sb := sbKey (cvOfX x) (sbIndex w)
    let c := s.ctx x
    { s with sbs := Tab.insert s.sbs sb (sbCmds s sb ++ [Cmd.mk w x c.rid c.prv false (ownAccs s x) none none]) }
  | _ => s

/-- A token pushed on FIFO `f` arrives at once where the FIFO can receive it in this clock (R38) and no token is on its way before it; else it arrives
in a later clock, one in each (log entry 128). -/
def pushFifo (s : State) (rid cv f : Nat) (t : Tok) : State :=
  if (Tab.get [] (s.cove cv).fqIn f).isEmpty && canArrive s (16 * cv) (0xA8 + f) 0 then
    touch (arriveAt s rid (16 * cv) (0xA8 + f) 0 (some t)) rid
  else
    let c := s.cove cv
    s.setCove cv { c with fqIn := Tab.insert c.fqIn f (Tab.get [] c.fqIn f ++ [(rid, t)]) }

/-- Step 4 of one slot: QPOP removals, QPUSH pushes, SIGNAL credits, BAR arrival. -/
def commit4 (x : Nat) (s : State) (d : DoneSlot) : State :=
  let cv := cvOfX x
  let rid := (s.ctx x).rid
  match d.e with
  | .pop f =>
    let c := s.cove cv
    touch (s.setCove cv { c with tq := Tab.insert c.tq f ((Tab.get [] c.tq f).drop 1) }) rid
  | .push f t => pushFifo s rid cv f t
  | .signal b n => sendCredit s cv b n (ownAccs s x)
  | .bar l =>
    let s1 := { s with arrs := s.arrs ++ [Arrival.mk false l rid cv x none (ownAccs s x)] }
    s1.setCtx x { s1.ctx x with st := .barwait l }
  | _ => s

/-- The contexts that a YIELD awaits: the others of the core in RUN, with the blocks they have committed (R162). -/
def yieldAwait (s : State) (x : Nat) : List (Nat × Nat) :=
  (((span (4 * cvOfX x) 4).filter fun y => y != x && decide ((s.ctx y).st = .run))).map fun y => (y, (s.ctx y).commits)

/-- Step 5: the exit, or SYS in its place. A YIELD of a block that has arrived at a barrier waits there alone (log entry 46). -/
def commit5 (x : Nat) (s : State) (e : Exit) (sys : Option (Nat × Nat)) : State :=
  let c0 := s.ctx x
  let s1 := s.setCtx x { c0 with commits := c0.commits + 1, blk := none, next := e.next }
  let c := s1.ctx x
  match sys with
  | some (k, code) =>
    let s2 := match c.st with | .barwait l => s1.setCtx x { c with back := some (.barwait l) } | _ => s1
    takeTrap s2 x 0x16 k e.next (BitVec.ofNat 64 code)
  | none =>
    match e.kind with
    | .branch => s1
    | .yield =>
      (match c.st with
      | .barwait _ => s1
      | _ => s1.setCtx x { c with st := .yieldwait (dieClock s1 (dieOf (cvOfX x))) (yieldAwait s1 x) })
    | .halt => haltCtx s1 x
    | .eret => eretCtx s1 x

/-- The place of an effect among the actions of its commit step (R141): step 1 BBARM, PUT, CALL, WRCSR; step 4 QPOP, QPUSH, SIGNAL, BAR. -/
def actionOf (e : Eff) : Nat :=
  match e with
  | .bbarm _ _ | .pop _ => 0
  | .put _ _ | .push _ _ => 1
  | .call _ _ _ | .signal _ _ => 2
  | .wrcsr _ _ | .bar _ => 3
  | _ => 4

/-- The executed slots by their actions, those of one action in slot order (R141, log entry 93). -/
def byAction (l : List DoneSlot) : List DoneSlot := (span 0 5).flatMap fun n => l.filter fun d => actionOf d.e == n

/-- All the commit steps. -/
def commitBlock (s : State) (x : Nat) (l : List DoneSlot) (e : Exit) : State :=
  let s1 := orFlags x ((byAction l).foldl (commit1 x) s) l
  let s2 := l.foldl (commit2 x) s1
  let s3 := l.foldl (commit3 x) s2
  let s4 := (byAction l).foldl (commit4 x) s3
  tryBars (commit5 x s4 e (sysOf l))

/-- BLOCK_COMMIT (R139 to R141): a block with a trapped slot takes its trap once the slots below allow it; a finished block traps, waits for room, or
commits. -/
def execBlockCommit (x : Nat) (s : State) : Host.Outcome State Fault Refusal :=
  let c := s.ctx x
  match c.st, c.blk with
  | .run, some b =>
    if !b.finished then .next (settle s x)
    else
      let l := b.doneSlots
      match commitTrap s x c b l with
      | some (k, cause) => .next (takeTrap s x cause k b.base 0)
      | none =>
        match exitsOf l with
        | e :: _ => if commitRoom s (cvOfX x) l && commitGate s c.rid l then .next (commitBlock s x l e) else .next s
        | [] => .next s
  | _, _ => .next s

/-! ### Asynchronous events and YIELDWAIT -/

/-- Take the event of record `idx` at block address `b`, with the wait to return to. An event taken within a handler that has cleared INTRAP
replaces that wait, and the first ERET uses it up (log entry 99). -/
def takeEvent (s : State) (x idx : Nat) (rest : List Nat) (b : Word) (back : Option CtxSt) : State :=
  takeTrap (s.setCtx x { s.ctx x with evts := rest, back := back }) x 0x17 0x80 b (BitVec.ofNat 64 idx)

/-- Whether some slot of the block waits in QPOP, WAIT or FENCE. -/
def waitsSomewhere (b : Blk) : Bool := b.slots.any fun e => match e.2 with | .wait _ => true | _ => false

/-- ASYNC_EVENT_TAKE (R146); of several events the one that arrived first (log entry 124). -/
def execAsyncEventTake (x : Nat) (s : State) : Host.Outcome State Fault Refusal :=
  let c := s.ctx x
  if !c.aie || c.intrap then .next s
  else match c.evts, c.st with
  | [], _ => .next s
  | idx :: rest, .run =>
    (match c.blk with
    | none => .next (takeEvent s x idx rest c.next none)
    | some b => if waitsSomewhere b then .next (takeEvent s x idx rest b.base none) else .next s)
  | idx :: rest, .barwait l => .next (takeEvent s x idx rest c.next (some (.barwait l)))
  | idx :: rest, .yieldwait t w => .next (takeEvent s x idx rest c.next (some (.yieldwait t w)))
  | _, .halted => .next s

/-- YIELDWAIT_END (R162): 64 clocks have passed, or every context awaited has committed a block. -/
def execYieldwaitEnd (x : Nat) (s : State) : Host.Outcome State Fault Refusal :=
  let c := s.ctx x
  match c.st with
  | .yieldwait t w =>
    if yieldMet s (cvOfX x) t w then .next (s.setCtx x { c with st := afterWait s x }) else .next s
  | _ => .next s

end Sys2Proof.Machine
end

