-- ==== Sys2Proof/Machine/Faults.lean ====
section
/-!
DEFINITION. Faults and their ends: page-table walks (R337, R338), the release of records (R340), the resume of a frozen agent (R208, R346
to R352, R361), and fatal faults (R354 to R356).
-/
namespace Sys2Proof.Machine

/-! ### Walks (R337, R338) -/

/-- Add a translation to the cache of a unit. -/
def cacheAdd (s : State) (u : Nat) (e : TEnt) : State :=
  { s with tlb := Tab.insert s.tlb u (tlbAdd (tlbCap u) s.free (Tab.get [] s.tlb u) e), free := s.free + 1 }

/-- The residency that an agent works for. -/
def ridOfAgent (s : State) : Agent → Option Nat
  | .ctx x => some (s.ctx x).rid
  | .node n => ridOfCell s (n / 16)
  | .port cv p => ridOfUnit s cv p 16
  | .copy cv q => ((s.cq cv q).tmpl).map (·.rid)
  | .job j => (s.job j).map (·.rid)
  | .umx e => (s.umxAt e).steps.head?.map (·.rid)
  | _ => none

/-- Whether a residency is placed and has not faulted fatally. -/
def alive (s : State) (rid : Nat) : Bool :=
  match Tab.find? s.res rid with
  | some r => decide (r.st = .placed)
  | none => false

/-- What a walk that succeeded lets its agent do: a node's access is tried again; every other agent tries by itself. -/
def walkDone (s : State) (w : Walk) : State :=
  match w.ag, w.acc with
  | .node n, some id =>
    (match s.accs.find? fun a => a.id == id with
    | some a => retryNode s n a
    | none => s)
  | _, _ => s

/-- What a walk that failed does to its agent. -/
def walkFault (s : State) (w : Walk) (cause : Nat) : State :=
  match w.ag, w.acc with
  | .node n, some id =>
    (match s.accs.find? fun a => a.id == id with
    | some a => nodeFreeze s n a ⟨cause, 0⟩
    | none => s)
  | .umx e, _ =>
    (match (s.umxAt e).steps with
    | st :: _ =>
      let r := s.round e st.round
      let a := stepNext st r
      umxFault s e st r.rid a.1 a.2.1 ⟨cause, 0⟩
    | [] => s)
  | _, _ => walkFailed s w ⟨cause, 0⟩

/-- Whether a PARK of a residency has begun. -/
def parking (s : State) (rid : Nat) : Bool := match Tab.find? s.res rid with | some r => r.parking | none => false

/-- Whether a walk has stopped because its agent's residency is about to be parked (R358); one that is then not parked after all has it go on. -/
def walkStops (s : State) (w : Walk) : Bool := match ridOfAgent s w.ag with | some rid => parking s rid | none => false

/-- A miss whose page has been walked: a success is cached, a failure freezes the agent (R268, R345, R348, R351). -/
def endMiss (s : State) (w : Walk) : State :=
  let live := match ridOfAgent s w.ag with | some rid => alive s rid | none => false
  match walk s w.root w.va.toNat w.needR w.needW with
  | .ok e =>
    let s1 := if (tlbFind (Tab.get [] s.tlb w.unit) w.root w.va.toNat).isSome then s else cacheAdd s w.unit e
    if live then walkDone s1 w else s1
  | .error c => if live then walkFault s w c else s

/-- TRANSLATION_WALK (R337, R338): the walk that miss `k` waits for completes, for every miss that has joined it but those that a PARK has stopped;
one beyond its walker's limit has not begun. -/
def execTranslationWalk (k : Nat) (s : State) : Host.Outcome State Fault Refusal :=
  match s.walks[k]? with
  | none => .next s
  | some w =>
    if !walkRuns s w then .next s
    else
      let ends := fun v : Walk => decide (v.page = w.page) && !walkStops s v
      .next ((s.walks.filter ends).foldl endMiss { s with walks := s.walks.filter fun v => !ends v })

/-! ### Records (R340) -/

/-- RECORD_RELEASE (R340): record `idx` has become free; the first freeze that waits has its record written there, or, with none, the
record that counts the lost ones. -/
def execRecordRelease (idx : Nat) (s : State) : Host.Outcome State Fault Refusal :=
  if freeRec s ≠ some idx then .next s else .next (flushRecs 1 s)

/-! ### Resume (R208, R346 to R352) -/

/-- The permissions that an ACC code needs. -/
def accNeeds (acc : Nat) : Bool × Bool := (acc != 1, acc == 1 || acc == 2)

/-- What a new try at the faulting access comes to: it goes, or it fails with this address and cause. A cause of R13 to R18 is left to
the agent, which meets it as it makes the access. -/
def retryXl (s : State) (rt : Rt) (u : Nat) (va : Word) (n : Nat) (needs : Bool × Bool) : State × Option XErr :=
  match resolve s rt u va n needs.1 needs.2 with
  | (s1, .ok _) => (s1, none)
  | (s1, .error e) => (s1, if e.cause < 0x40 then none else some e)

/-- Close the record when the access goes, or write it again with SEQ + 1 (R346). -/
def closeOr (s : State) (idx : Nat) (r : Option XErr) : State :=
  match r with
  | none => closeRec s idx
  | some e => rewriteRec s idx fun q => { q with cause := e.cause, aux := if q.kind = 4 ∨ q.kind = 1 then BitVec.ofNat 64 e.aux else q.aux }

/-- Resume a memory node (R268, R346). -/
def resumeNode (s : State) (idx n : Nat) : State :=
  match s.accs.find? fun a => decide (a.ag = .node n) && a.segs.isEmpty with
  | none => closeRec s idx
  | some a =>
    match resolve s (rtOf s a.rid false) (unitOf s a.ag) a.va a.len a.kind.needs.1 a.kind.needs.2 with
    | (s1, .ok segs) => translated (closeRec s1 idx) a segs (liveNode s a.rid n).v
    | (s1, .error e) =>
      if e.cause < 0x40 then agentAddrFault (closeRec s1 idx) a.ag a.rid a.kind.code a.va e.cause else closeOr s1 idx (some e)

/-- Resume a port at its element (R346). -/
def resumePort (s : State) (idx cv p : Nat) : State :=
  match (s.port cv p).bind, ridOfUnit s cv p 16 with
  | some b, some rid =>
    let r := retryXl s (rtOf s rid false) (64 + 16 * cv + p) (elemAddr b) b.size (b.read, !b.read)
    closeOr r.1 idx r.2
  | _, _ => closeRec s idx

/-- A copy's record written again (R346): VA is the pointer that fails, a PATCH it may be. That of a copy trap raises its asynchronous event
again (log entry 20), but for a resume of the host's (R387). -/
def reopenCopy (s : State) (idx : Nat) (t : Tmpl) (host : Bool) (va : Word) (e : XErr) : State :=
  let s1 := rewriteRec s idx fun q => { q with cause := e.cause, va := shownPtr (rtOf s t.rid false) va }
  if t.trapm && !host then asyncTo s1 t.rid t.ctx idx else s1

/-- Take PATCH of a copy trap, when it is not zero, for the side that faulted (R349). -/
def takePatch (c : CopyQ) (t : Tmpl) (patch : Nat) (off : Nat) : CopyQ :=
  if !t.trapm || patch == 0 then c
  else if c.wside then { c with dpatch := some (BitVec.ofNat 64 patch, off) }
  else { c with spatch := some (BitVec.ofNat 64 patch, off) }

/-- Resume a copy (R348, R349): try again, from PATCH on where the handler wrote one. A PATCH that fails is not kept, so that a retry with PATCH 0
goes as R348 says. -/
def resumeCopy (s : State) (idx cv q : Nat) (host : Bool) : State :=
  match (s.cq cv q).tmpl, (s.cq cv q).cur with
  | some t, some off =>
    let c := takePatch (s.cq cv q) t (leNat (Memory.rdN s.hbm (recAddr s idx + 32) 8)) off
    let a := copyAddr c t off
    let va := if c.wside then a.2 else a.1
    let r := retryXl s (rtOf s t.rid false) (dieOf cv) va (sideLen t a off c.wside) (!c.wside, c.wside)
    (match r.2 with
    | none => closeRec (r.1.setCq cv q c) idx
    | some e => reopenCopy r.1 idx t host va e)
  | _, _ => closeRec s idx

/-- Skip the rest of a copy firing (R349). -/
def skipCopy (s : State) (idx cv q : Nat) : State :=
  match (s.cq cv q).tmpl, (s.cq cv q).cur with
  | some t, some off =>
    let c := s.cq cv q
    let s1 := closeRec (s.setCq cv q { c with cur := none, f := c.f + 1, spatch := none, dpatch := none }) idx
    (match t.bar with
    | some b => creditBar s1 cv b (t.bytes - off)
    | none => s1)
  | _, _ => closeRec s idx

/-- Retranslate the array word that a job stopped at (R351): the failure with its address, if any. -/
def jobWordAgain (s : State) (j : Nat) (d : Job) : State × Option (Word × XErr) :=
  match d.wordVa with
  | none => (s, none)
  | some va =>
    let r := retryXl s (rtOf s d.rid false) d.unit va (jobWord d).2 (true, false)
    match r.2 with
    | none => (r.1.setJob j { d with wordVa := none }, none)
    | some e => (r.1, some (va, e))

/-- Retranslate the entries of a backwash queue, oldest first: those that fail stay; one that breaks R13 to R18 is an address fault (R19). -/
def backwashAgain (j : Nat) (d : Job) (wave : Bool) : List Nat → State → List Nat → Option (Word × XErr) →
    State × List Nat × Option (Word × XErr)
  | [], s, kept, bad => (s, kept, bad)
  | id :: t, s, kept, bad =>
    match s.accs.find? fun a => a.id == id with
    | none => backwashAgain j d wave t s kept bad
    | some a =>
      match resolve s (rtOf s d.rid false) d.unit a.va a.len a.kind.needs.1 a.kind.needs.2 with
      | (s1, .ok segs) => backwashAgain j d wave t (translated s1 a segs wave) kept bad
      | (s1, .error e) =>
        if e.cause < 0x40 then backwashAgain j d wave t (agentAddrFault s1 (.job j) d.rid d.acc a.va e.cause) (kept ++ [id]) bad
        else backwashAgain j d wave t s1 (kept ++ [id]) (bad.orElse fun _ => some (a.va, e))

/-- Whether the port node of a job is ordered by a wave chain. -/
def jobWave (s : State) (d : Job) : Bool :=
  match portNode s d.rid d.cv d.port with
  | some (_, f, _) => f.v
  | none => false

/-- Resume a job (R351 to R353): its array word, then its backwash entries; of a scatter in order, its element. -/
def resumeJob (s : State) (idx j : Nat) : State :=
  match s.job j with
  | none => closeRec s idx
  | some d =>
    let w := jobWordAgain s j d
    let d1 := (w.1.job j).getD d
    let el : State × Option (Word × XErr) :=
      if d.scat && d.op != 1 && d.wordVa.isNone then
        match Tab.find? s.recs.live idx with
        | some r =>
          let x := retryXl w.1 (rtOf s d.rid false) d.unit r.va d.size d.needs
          (x.1, x.2.map fun e => (r.va, e))
        | none => (w.1, none)
      else (w.1, none)
    let b := backwashAgain j d1 (jobWave s d) d1.bw el.1 [] none
    let d2 := { (b.1.job j).getD d1 with bw := b.2.1, susp := false }
    let s2 := b.1.setJob j d2
    match (w.2.orElse fun _ => el.2).orElse fun _ => b.2.2 with
    | none => closeRec s2 idx
    | some (va, e) =>
      rewriteRec s2 idx fun r => { r with
        va := va, cause := e.cause, acc := if w.2.isSome then 0 else d.acc, count := d2.bw.length, dlv := d2.deliv, aux := d2.cursor }

/-- Resume an unmasking engine (R379). -/
def resumeUmx (s : State) (idx e : Nat) : State :=
  match (s.umxAt e).steps with
  | [] => closeRec s idx
  | st :: _ =>
    let r := s.round e st.round
    let a := stepNext st r
    let x := retryXl s { rtOf s r.rid false with root := r.root } (e / 64) a.2.1 a.2.2.1 (true, a.2.2.2)
    closeOr x.1 idx x.2

/-- Resume what froze at the access that the record names: a command's target (R350). -/
def resumePlain (s : State) (idx : Nat) (rt : Rt) (u : Nat) : State :=
  match Tab.find? s.recs.live idx with
  | some r =>
    let x := retryXl s rt u r.va 1 (accNeeds r.acc)
    closeOr x.1 idx x.2
  | none => closeRec s idx

/-- The rights with which a queued command accesses memory: its residency's, kept with the command where that has retired. -/
def cmdRt (s : State) (c : Cmd) : Rt :=
  match c.gone with
  | some r => ⟨c.rid, some r.region, r.wins, r.root, c.prv != .u⟩
  | none => rtOf s c.rid (c.prv != .u)

/-- Resume an agent with SUB 0. -/
def resumeAgent (s : State) (idx : Nat) (host : Bool) : Agent → State
  | .node n => resumeNode s idx n
  | .port cv p => resumePort s idx cv p
  | .copy cv q => resumeCopy s idx cv q host
  | .job j => resumeJob s idx j
  | .umx e => resumeUmx s idx e
  | .target sb =>
    (match sbCmds s sb with
    | c :: _ => resumePlain s idx (cmdRt s c) (unitOf s (.target sb))
    | [] => closeRec s idx)
  | .ctx _ => closeRec s idx

/-- The bytes 20 to 23 of a save area's header, HELD, rise by one (R361). -/
def bumpHeld (s : State) (p : Saved) : State :=
  let at_ := (p.hdr.drop 20).take 4
  writeBytes s (at_.zip (leBytes (p.held.length + 1) 4))

/-- Whether an agent issues no more because its residency has faulted fatally (R354). -/
def stopped (s : State) (rid : Nat) : Agent → Bool
  | .target _ => false
  | _ => match Tab.find? s.res rid with | some r => decide (r.st ≠ .placed) | none => false

/-- FRESUME performed on record `idx` (R208, R346 to R352, R361), for the host where `host` says so (R387); a record of a parked residency is
held, and one of a residency that has faulted fatally is closed alone: its agents issue no more (R354). -/
def resume (s : State) (idx : Nat) (skip host : Bool) : State :=
  match Tab.find? s.recs.owner idx, Tab.find? s.recs.live idx with
  | some ag, some r =>
    (match Tab.find? s.parked r.rid with
    | some p =>
      if r.st = 1 then
        let s1 := setRecState (bumpHeld s p) idx 2
        { s1 with parked := Tab.insert s1.parked r.rid { p with held := p.held ++ [4 * idx + 2 * host.toNat + skip.toNat] } }
      else s
    | none =>
      if stopped s r.rid ag then closeRec s idx
      else if skip then (match ag with | .copy cv q => skipCopy s idx cv q | _ => s) else resumeAgent s idx host ag)
  | _, _ => s

/-! ### Fatal faults (R354 to R356) -/

/-- The cells of a rectangle that a granted window covers. -/
def winHits (wins : Tab (BitVec 32)) (r : Region) : Option Nat :=
  (r.coves.find? fun cv => wins.any fun e => winAdmits e.2 cv false).map fun cv => 16 * cv

/-- One record for each residency that holds a window on the fenced coves (R356). -/
def tellHolders (s : State) (rid : Nat) (r : Region) : State :=
  let hs := (s.res.map fun e => (e.1, e.2.wins)) ++ s.parked.map fun e => (e.1, e.2.res.wins)
  hs.foldl (fun t e =>
    if e.1 = rid then t
    else match winHits e.2 r with
      | some ce => tellFenced t e.1 rid ce
      | none => t) s

/-- Whether a record's residency is about to be parked. -/
def recParking (s : State) (idx : Nat) : Bool :=
  match Tab.find? s.recs.live idx with
  | some r => parking s r.rid
  | none => false

/-- FATAL_FAULT (R354 to R356): the residency stops, its contexts halt, the record is written, its shore slices are fenced, and those
that hold windows on them are told. -/
def execFatalFault (k : Nat) (s : State) : Host.Outcome State Fault Refusal :=
  match s.fatals[k]? with
  | none => .next s
  | some f =>
    let s1 := { s with fatals := dropNth s.fatals k }
    match Tab.find? s1.res f.rid with
    | none => .next s1
    | some r =>
      let s2 := modRes s1 f.rid fun q => { q with st := .fatal }
      let s3 := (ctxsOf s2 f.rid).foldl haltCtx s2
      let s4 := { s3 with fences := r.region.cells.foldl (fun t ce => Tab.insert t ce f.rid) s3.fences }
      .next (tellHolders (openRec s4 f.frec none []) f.rid r.region)

end Sys2Proof.Machine
end

