-- ==== Sys2Proof/Machine/NodeCheck.lean ====
section
/-!
DEFINITION. The loader's checks of one node slot (R120 to R126, R59, R71, R74, R79, R99, R219, R220, R227 to R238, R240 to R263, R270 to
R288): the rejection codes that its words call for, by entry.
-/
namespace Sys2Proof.Machine

/-! ### What each operation uses -/

/-- The integer and logic group, the floating-point group, the memory group (R125). -/
def isInt (op : Nat) : Bool := decide (0x01 ≤ op ∧ op ≤ 0x15)
def isFp (op : Nat) : Bool := decide (0x30 ≤ op ∧ op ≤ 0x3B)
def isMem (op : Nat) : Bool := decide (0x80 ≤ op ∧ op ≤ 0x89)

/-- Whether an operation code is in R125. -/
def opKnown (op : Nat) : Bool :=
  isInt op || isFp op || isMem op || decide (0x50 ≤ op ∧ op ≤ 0x58) || decide (0x60 ≤ op ∧ op ≤ 0x73) || decide (0x90 ≤ op ∧ op ≤ 0x98)

/-- The inputs that an operation reads: bit 0 IN_A, bit 1 IN_B, bit 2 IN_C. -/
def insUsed (op : Nat) (w : NodeW) : Nat :=
  match op with
  | 0x05 | 0x11 | 0x13 | 0x33 | 0x53 | 0x62 | 0x63 | 0x64 | 0x6A | 0x6B | 0x70 | 0x71 | 0x81 | 0x82 | 0x95 | 0x96 => 7
  | 0x06 | 0x07 | 0x0D | 0x36 | 0x37 | 0x38 | 0x39 => 1
  | 0x50 => if bitOf w.imm.toNat 7 && (w.mode == 11 || w.mode == 13) then 3 else 1
  | 0x57 | 0x69 | 0x6D | 0x6E | 0x72 | 0x80 | 0x88 | 0x94 => 3
  | 0x61 | 0x65 => 5
  | 0x83 | 0x85 => 0
  | _ => if isInt op || isFp op then 3 else 1

/-- The outputs that an operation has: bit 0 OUT_0, bit 1 OUT_1. -/
def outsUsed (op : Nat) : Nat :=
  match op with
  | 0x68 | 0x6F => 0
  | 0x69 | 0x6A | 0x87 | 0x90 => 1
  | _ => 3

/-- Whether MODE is one that the operation assigns (R123); type 3 of the floating-point group has a code of its own. CARRY has those of the types
0 to 10 (log entry 108). -/
def modeOk (op m : Nat) : Bool :=
  if isInt op then decide (m < 8)
  else if isFp op then true
  else match op with
  | 0x50 => decide (m ≤ 13)
  | 0x51 | 0x52 => decide (8 ≤ m ∧ m ≤ 10)
  | 0x53 => decide (m ≤ 3)
  | 0x54 | 0x55 | 0x56 | 0x58 | 0x63 | 0x67 | 0x6A | 0x80 | 0x81 | 0x83 | 0x84 | 0x85 | 0x86 => decide (m ≤ 10)
  | 0x73 => decide (m ≤ 1)
  | 0x82 => has [2, 3, 6, 7, 8] m
  | 0x92 => has [2, 6, 8] m
  | 0x93 => has [3, 8, 9] m
  | _ => m == 0

/-- The input field of the operand that an immediate may replace (R221, R224). -/
def immSlot (op : Nat) : Option Nat :=
  match op with
  | 0x05 | 0x11 | 0x33 => some 2
  | 0x06 | 0x07 | 0x0D | 0x36 | 0x37 | 0x38 | 0x39 => none
  | _ => if isInt op || isFp op then some 1 else none

/-- The IMM bits that an operation's own statement assigns, outside the arithmetic and memory groups; OPX for the memory group. -/
def immMask (op : Nat) (w : NodeW) : Nat :=
  match op with
  | 0x50 => 0xFF
  | 0x51 => 0x3F
  | 0x52 => 1
  | 0x53 => if isNone w.inC then 0x1FF else 0
  | 0x54 => 7 * 2 ^ 32
  | 0x55 | 0x56 => 2 ^ 37 - 1
  | 0x57 => if bitOf w.imm.toNat 36 then 2 ^ 36 else 2 ^ 37 - 1
  | 0x58 => 0x7F
  | 0x62 => 0x7F
  | 0x65 => 1
  | 0x66 => 0x3FF
  | 0x67 => 2 ^ 34 - 1
  | 0x69 => 2 ^ 31 - 1
  | 0x6A => 2 ^ 40 - 1
  | 0x6B => 3
  | 0x6C => 2 ^ 33 - 1
  | 0x6F => 0xFFF
  | 0x72 => 0x3F
  | 0x73 => 2 ^ 38 - 1
  | 0x80 | 0x81 | 0x88 => 0x1F00
  | 0x82 => 0xF00
  | 0x89 => 0x700
  | 0x90 => 2 ^ 30 - 1
  | 0x91 => 0xFF
  | 0x92 => 3
  | 0x95 => 7
  | 0x97 => 0xFF
  | 0x98 => 1
  | _ => 0

/-! ### Channels and flags -/

/-- The codes of an input field (R121). -/
def inCodes (f : BitVec 12) (used : Bool) : List Nat :=
  let c := chanId f
  if 0xB0 ≤ c ∧ c ≤ 0xFD then [0x0105]
  else ckIf (!inIdOk c || (c == 0xFF && sticky f != 0) || (!used && c != 0xFF)) 0x010F

/-- The codes of an output field (R121, R276). -/
def outCodes (f : BitVec 12) (used : Bool) : List Nat :=
  let c := chanId f
  if 0xB0 ≤ c ∧ c ≤ 0xFD then [0x0105]
  else ckIf (!outIdOk c || sticky f != 0 || (!used && c != 0xFF) || c == 0x9E || c == 0x9F) 0x010F

/-- The channel codes of an entry; `tc` is the control input of a two-entry node's entry 0. -/
def chanCodes (op : Nat) (w : NodeW) (tc : Bool) : List Nat :=
  let u := insUsed op w
  let o := outsUsed op
  inCodes w.inA (bitOf u 0) ++ inCodes w.inB (bitOf u 1) ++ inCodes w.inC (bitOf u 2 || tc)
    ++ outCodes w.out0 (bitOf o 0) ++ outCodes w.out1 (bitOf o 1)
    ++ ckIf (op == 0x87 && !(decide (0x50 ≤ chanId w.out0 ∧ chanId w.out0 ≤ 0x8F))) 0x010F
    ++ ckIf (op == 0x90 && chanId w.out0 != 0x90) 0x010F

/-- The flag codes of an entry (R122), but for K and T. -/
def flagCodes (op : Nat) (w : NodeW) : List Nat :=
  ckIf (w.e && !(op == 0x63 || op == 0x70 || op == 0x71)) 0x0106
    ++ ckIf (w.v && !(decide (0x80 ≤ op ∧ op ≤ 0x87))) 0x010E
    ++ ckIf (w.n && (!(isInt op || isFp op) || op == 0x12 || op == 0x13 || op == 0x3A)) 0x010C

/-! ### MODE and IMM -/

/-- Whether a clamp bound of `w` bits of a floating-point type with `m` bits of fraction is negative or NaN (R99); -0 is neither. -/
def badBound (v expBits frac : Nat) : Bool :=
  (bitsOf v frac expBits == 2 ^ expBits - 1 && bitsOf v 0 frac != 0) || (bitOf v 15 && bitsOf v 0 15 != 0)

/-- The codes of the IMM of an arithmetic node with N (R98, R99). -/
def modCodes (op : Nat) (w : NodeW) : List Nat :=
  let i := w.imm.toNat
  let form := match immSlot op with | some s => !(w.t && s == 2) && isNone (inF w s) | none => false
  ckIf (bitsOf i 38 2 == 3 || bitsOf i 16 12 != 0 || form
    || (isFp op && badBound (bitsOf i 0 16) (if w.mode.toNat / 4 = 2 then 5 else 8) (if w.mode.toNat / 4 = 2 then 10 else 7))) 0x010C

/-- The codes of the IMM of an arithmetic node without N (R220). -/
def arithCodes (op : Nat) (w : NodeW) : List Nat :=
  let i := w.imm.toNat
  let ib := bitOf i 39
  let slotBad := match immSlot op with | some s => !isNone (inF w s) | none => true
  ckIf ((ib && slotBad) || (!ib && bitsOf i 0 32 != 0)
    || (!(op == 0x12 || op == 0x3A) && bitsOf i 35 4 != 0) || (op == 0x12 && decide (6 ≤ bitsOf i 36 3)) || bitsOf i 32 3 != 0
    || (isFp op && ib && w.mode.toNat / 4 != 0 && bitsOf i 16 16 != 0)) 0x0110

/-- The codes of the memory layout (R124, R254, R259, R263). -/
def memCodes (op : Nat) (w : NodeW) : List Nat :=
  let i := w.imm.toNat
  let pred := bitsOf i 34 6
  let self := bitsOf i 28 6
  let succ := bitsOf i 22 6
  let port := bitsOf i 0 8
  let aop := bitsOf i 8 4
  let m := w.mode.toNat
  ckIf (if w.v then !(decide (pred < self ∧ self < succ)) else bitsOf i 22 18 != 0) 0x0110
    ++ ckIf (if 0x83 ≤ op ∧ op ≤ 0x86 then decide (port < 0x40 ∨ 0x4F < port) else port != 0) 0x0110
    ++ ckIf ((bitsOf i 8 14 * 256) &&& immMask op w != bitsOf i 8 14 * 256) 0x0110
    ++ ckIf ((op == 0x80 || op == 0x81) && decide (128 < (bitsOf i 8 5 + 1) * fmtWidth m)) 0x0110
    ++ ckIf (op == 0x82 && (decide (8 < aop) || (decide (aop ≤ 5) && m == 8) || (aop == 8 && m != 8)
        || ((aop == 7) == isNone w.inC))) 0x0110
    ++ ckIf (op == 0x89 && bitsOf i 8 3 == 1) 0x0110

/-- Whether a CVT's IMM breaks R228 or R230. -/
def cvtBad (w : NodeW) : Bool :=
  let d := bitsOf w.imm.toNat 0 4
  let m := w.mode.toNat
  let mx := fun n => n == 11 || n == 13
  let fl := fun n => decide (8 ≤ n ∧ n ≤ 10)
  decide (13 < d) || (bitOf w.imm.toNat 7 && (!((mx m && fl d) || (mx d && fl m)) || (mx d && isNone w.out1)))

/-- The code of IMM limits that an operation's statement gives, outside the arithmetic and memory groups. -/
def ownCodes (op : Nat) (w : NodeW) : List Nat :=
  let i := w.imm.toNat
  let m := w.mode.toNat
  match op with
  | 0x50 => ckIf (cvtBad w) 0x0110
  | 0x51 => ckIf (!bitOf i 1 && bitsOf i 2 4 != 0) 0x0110
  | 0x53 => ckIf (isNone w.inC && decide (7 ≤ bitsOf i 0 4)) 0x0110
  | 0x54 | 0x55 | 0x56 =>
    ckIf (decide (6 ≤ bitsOf i 32 3) || (decide (8 ≤ m) && decide (3 ≤ bitsOf i 32 3)) || (decide (9 ≤ m) && bitsOf i 16 16 != 0)) 0x0110
  | 0x57 => ckIf (bitOf i 36 && !isNone w.inB) 0x0110
  | 0x58 => ckIf (decide (fmtLanes m ≤ bitsOf i 0 5)) 0x0110
  | 0x62 =>
    let same := w.inA == w.inB || (chanId w.inA == chanId w.inB && !isNone w.inA)
    if same && !isNone w.inA then
      ckIf (decide (bitsOf i 0 7 < 1 ∨ 64 < bitsOf i 0 7) || sticky w.inA != 0 || sticky w.inB != 0) 0x010A
    else ckIf (bitsOf i 0 7 != 0) 0x010A
  | 0x66 => ckIf (bitsOf i 4 2 != 3) 0x0110
  | 0x67 =>
    ckIf (bitsOf i 32 2 == 3 || bitsOf i 0 4 != 0 || decide (65536 < bitsOf i 0 16 + 16 * (bitsOf i 16 16 + 1))) 0x0110
  | 0x69 =>
    ckIf (bitsOf i 0 4 != 0 || bitsOf i 16 4 == 0 || decide (5 ≤ bitsOf i 22 3)
      || (bitsOf i 25 6 == 0 && !isNone w.inB) || decide (65536 < bitsOf i 0 16 + 16 * (bitsOf i 20 2 + 1)) || bitsOf i 31 9 != 0) 0x0109
  | 0x73 => ckIf (m == 1 && bitsOf i 0 32 != 0) 0x0110
  | 0x90 => ckIf (bitsOf i 28 2 == 3) 0x0110
  | 0x91 => ckIf (bitsOf i 0 2 == 3 || (!bitOf i 2 && bitsOf i 3 3 != 0)) 0x0110
  | _ => []

/-- The MODE and IMM codes of an entry. -/
def immCodes (op : Nat) (w : NodeW) : List Nat :=
  (if isFp op && w.mode.toNat / 4 == 3 then [0x010C] else ckIf (!modeOk op w.mode.toNat) 0x0111)
    ++ (if w.n then (if isInt op || isFp op then modCodes op w else [])
      else if isInt op || isFp op then arithCodes op w
      else if isMem op then memCodes op w
      else ckIf (op != 0x69 && (w.imm.toNat &&& immMask op w) != w.imm.toNat) 0x0110 ++ ownCodes op w)

/-- What the residency must own (R180): token FIFOs (0x010F), ports and SYNC barriers (0x0110). `half` is none for whole coves. -/
def ownCheck (op : Nat) (w : NodeW) (half : Option Nat) : List Nat :=
  match half with
  | none => []
  | some h =>
    let fifoBad := fun c => decide (0xA0 ≤ c ∧ c ≤ 0xAF) && decide (c % 8 / 4 ≠ h)
    ckIf (fifoBad (chanId w.inA) || fifoBad (chanId w.inB) || fifoBad (chanId w.inC) || fifoBad (chanId w.out0) || fifoBad (chanId w.out1)) 0x010F
      ++ ckIf ((decide (0x83 ≤ op ∧ op ≤ 0x86) && decide (bitsOf w.imm.toNat 0 8 % 16 / 8 ≠ h))
        || (op == 0x73 && decide (bitsOf w.imm.toNat 32 6 / 32 ≠ h))) 0x0110

/-! ### A slot -/

/-- The codes of one entry read as a node of operation `op`; `tc` for the entry 0 of a two-entry node. -/
def entryCodes (op : Nat) (x : BitVec 128) (tc : Bool) (half : Option Nat) : List Nat :=
  let w := nodeFields x
  ckIf (x.getLsbD 100) 0x010E ++ flagCodes op w ++ chanCodes op w tc ++ immCodes op w ++ ownCheck op w half

/-- The codes of a slot from its two words (R71, R126), each with its entry. The entries of a node whose operation is not assigned are looked at
as well: their channels and flags can give a lower code (R127). A slot whose entry 0 alone is zero has only 0x0112 (log entry 107). -/
def slotChecks (e0 e1 : BitVec 128) (half : Option Nat) : List (Nat × Nat) :=
  let at0 := fun l : List Nat => l.map fun c => (c, 0)
  let at1 := fun l : List Nat => l.map fun c => (c, 1)
  if e0 = 0 then at1 (ckIf (e1 != 0) 0x0112)
  else
    let w := nodeFields e0
    let op := nodeOpc e0
    let o1 := w.opc1.toNat
    let opc := ckIf (!opKnown op) 0x010D
    if w.t then
      let v := nodeFields e1
      let bad0 := o1 == 0 || !(isInt op || isFp op) || !(isInt o1 || isFp o1)
      let bad1 := nodeOpc e1 != o1 || v.opc1 != 0 || !isNone v.inC || v.t
      at0 (opc ++ ckIf (o1 != 0 && !opKnown o1) 0x010D ++ ckIf bad0 0x0108 ++ entryCodes op e0 true half)
        ++ at1 (ckIf bad1 0x0108 ++ entryCodes o1 (e1 ||| (1 <<< 101)) false half)
    else
      at0 (opc ++ ckIf (o1 != 0) 0x0108 ++ ckIf (o1 != 0 && !opKnown o1) 0x010D ++ entryCodes op e0 false half)
        ++ at1 (ckIf (e1 != 0) 0x0112)

end Sys2Proof.Machine
end

