-- ==== Sys2Proof/Machine/Loader.lean ====
section
/-!
DEFINITION. The loader of configuration images: the image and its delta list read (R182, R192 to R194), the load checks (R59, R70, R74,
R77, R127, R201, R260, R263, R264, R272, R329), and the cells that an image gives.
-/
namespace Sys2Proof.Machine

/-! ### Reading deep memory for a command (R182) -/

/-- Bytes read, with the offset of the first line among them that is poisoned, or the first address that fails. -/
inductive RdV where
  | ok (bs : List Byte) (psn : Option Nat)
  | err (va : Word) (e : XErr)

/-- The pieces of `n` bytes at `va`, none across a 64-byte boundary, in `f` pieces at most. -/
def pieces : Nat → Nat → Nat → List (Nat × Nat)
  | 0, _, _ => []
  | f + 1, va, n =>
    if n = 0 then []
    else
      let k := min n (64 - va % 64)
      (va, k) :: pieces f (va + k) (n - k)

/-- Read pieces one by one; their bytes count at the permit meter of the residency they are read for (R331). -/
def rdPieces (rt : Rt) (u : Nat) : List (Nat × Nat) → State → List Byte → Option Nat → State × RdV
  | [], s, acc, p => (s, .ok acc p)
  | (a, n) :: t, s, acc, p =>
    match resolve s rt u (BitVec.ofNat 64 a) n true false with
    | (s1, .error e) => (s1, .err (BitVec.ofNat 64 a) e)
    | (s1, .ok segs) =>
      let r := rdSegs (meterSegs s1 rt.rid segs) segs
      rdPieces rt u t r.1 (acc ++ r.2.1) (p.orElse fun _ => if r.2.2 then some acc.length else none)

/-- Read `n` bytes at `va` with rights `rt` through the unit `u`. -/
def rdVa (s : State) (rt : Rt) (u : Nat) (va : Word) (n : Nat) : State × RdV :=
  rdPieces rt u (pieces (n / 64 + 2) va.toNat n) s [] none

/-- Read pieces one by one, with the range of each that is poisoned. -/
def rdMarked (rt : Rt) (u : Nat) : List (Nat × Nat) → State → List Byte → List (Nat × Nat) →
    State × Except (Word × XErr) (List Byte × List (Nat × Nat))
  | [], s, acc, psn => (s, .ok (acc, psn))
  | (a, n) :: t, s, acc, psn =>
    match rdVa s rt u (BitVec.ofNat 64 a) n with
    | (s1, .err va e) => (s1, .error (va, e))
    | (s1, .ok bs p) => rdMarked rt u t s1 (acc ++ bs) (if p.isSome then psn ++ [(acc.length, n)] else psn)

/-! ### Rejections -/

/-- A rejection code with its place: an offset, and for a node its LOC in the image with slot and entry. -/
structure Bad where
  code : Nat
  off  : Nat
  node : Option (Nat × Nat × Nat)
  deriving DecidableEq, Repr

/-- The order of places of one code: nodes by cove, cell, slot and entry, then the others by offset (R127). -/
def Bad.rank (b : Bad) : Nat :=
  match b.node with
  | some (loc, slot, e) => 32 * loc + 2 * slot + e
  | none => 2 ^ 40 + b.off

/-- The rejection reported: the lowest code, at its first place. -/
def worst : List Bad → Option Bad
  | [] => none
  | b :: t =>
    match worst t with
    | none => some b
    | some c => if b.code < c.code ∨ (b.code = c.code ∧ b.rank ≤ c.rank) then some b else some c

/-- A rejection at an offset where a condition holds. -/
def badAt (cond : Bool) (code off : Nat) : List Bad := if cond then [⟨code, off, none⟩] else []

/-- The rejection for poisoned ranges of what was read, at the first (R182, log entry 117). -/
def poisonBad : List (Nat × Nat) → List Bad
  | [] => []
  | e :: _ => [⟨0x011F, e.1, none⟩]

/-! ### The image's bytes -/

/-- A field of `n` bytes at offset `o`. -/
def fld (img : List Byte) (o n : Nat) : Nat := leNat ((img.drop o).take n)

/-- The tables of an image (R193), each the offset of its header field and its end: the cell records, the coupling entries, the preloads. -/
def imgTables (h : List Byte) : List (Nat × Nat) :=
  [(16, fld h 16 8 + 768 * fld h 6 2), (24, fld h 24 8 + 16 * fld h 32 4), (40, fld h 40 8 + 16 * fld h 36 4)]

/-- The bytes of an image that are read: up to the end of its last table that ends within 2^32 bytes. -/
def imgEnd (h : List Byte) : Nat := (((imgTables h).map (·.2)).filter (· ≤ 2 ^ 32)).foldl max 64

/-- Whether the table of header field `o` stands whole in the copy; one that does not is rejected and not judged (log entry 47). -/
def tableIn (img : List Byte) (o : Nat) : Bool := (imgTables img).all fun e => e.1 != o || decide (e.2 ≤ 2 ^ 32 ∧ e.2 ≤ img.length)

/-- The rejections of tables that end beyond 2^32, or that a patched header puts beyond the copy. -/
def tableBad (img : List Byte) : List Bad := [16, 24, 40].flatMap fun o => badAt (!tableIn img o) 0x0113 o

/-- Where the copy being loaded goes: into the region, or under REPL into one cove; the coves that the load selects, and the predicate bits that
CTXSEL nodes of the slot's other coves hold (R77), and whether the loader judges the shape in the header, which R318 leaves to the dispatch. -/
structure Dest where
  r     : Region
  at_   : Option Nat
  sel   : List Nat
  taken : List Nat
  shape : Bool
  deriving DecidableEq, Repr

/-- The die that die offset `k` names, under REPL offset 0 that of the cove (R15, R194), and the origin cove on it. -/
def Dest.die (d : Dest) (k : Nat) : Option Nat :=
  match d.at_ with
  | none => d.r.die k
  | some cv => if k = 0 then some (dieOf cv) else d.r.die k
def Dest.org (d : Dest) : Nat := match d.at_ with | none => d.r.org | some cv => coveNo cv

/-- Whether a LOC lies in the region; with REPL only cove 0 and die offset 0 may be named. -/
def Dest.inside (d : Dest) (loc : Nat) : Bool :=
  let k := loc / 4096 % 8
  let c := loc / 16 % 256
  let cell := loc % 16
  if d.at_.isSome then loc / 16 == 0 && (d.r.kind != 1 || decide (cell < 8))
  else if d.r.kind = 2 then decide (k < d.r.dies.length ∧ c < 192)
  else if d.r.kind = 1 then decide (loc < 8)
  else k == 0 && decide (c % 16 < d.r.w ∧ c / 16 < d.r.h)

/-- The cell that a LOC names. -/
def Dest.ce (d : Dest) (loc : Nat) : Nat :=
  16 * (256 * (d.die (loc / 4096 % 8)).getD 0 + d.org + loc / 16 % 256) + loc % 16 + (if d.r.kind = 1 ∧ d.r.half = 1 then 8 else 0)

/-! ### Delta lists (R194) -/

/-- The patched word of a delta entry; none for a die offset that names no die. -/
def patched (d : Dest) (kind word val : Nat) : Option Nat :=
  if kind = 0 then
    (d.die (bitsOf word 28 3)).map fun k => (word - bitsOf word 28 3 * 2 ^ 28 + k * 2 ^ 28 + d.org * 2 ^ 20) % 2 ^ 64
  else if kind = 1 then some ((word + val) % 2 ^ 64)
  else some val

/-- Replace 8 bytes at offset `o`. -/
def putWord (img : List Byte) (o v : Nat) : List Byte := img.take o ++ leBytes v 8 ++ img.drop (o + 8)

/-- Apply delta entries in order, each with its offset in the list. -/
def applyDelta (d : Dest) : List (Nat × List Byte) → List Byte → List Bad → List Byte × List Bad
  | [], img, bad => (img, bad)
  | (j, e) :: t, img, bad =>
    let o := fld e 0 4
    let kind := fld e 4 1
    if o % 8 ≠ 0 ∨ img.length < o + 8 ∨ 2 < kind ∨ fld e 5 3 ≠ 0 then applyDelta d t img (bad ++ [⟨0x0113, j, none⟩])
    else match patched d kind (fld img o 8) (fld e 8 8) with
      | some v => applyDelta d t (putWord img o v) bad
      | none => applyDelta d t img (bad ++ [⟨0x0113, j, none⟩])

/-- A cell record with its offset (R193). -/
structure CellRec where
  base  : Nat
  loc   : Nat
  nodes : List (BitVec 128)
  depth : List Nat
  endp  : List Nat
  puse  : Nat
  deriving DecidableEq, Repr

/-- The record at offset `b`. -/
def cellRec (img : List Byte) (b : Nat) : CellRec where
  base := b
  loc := fld img (b + 672) 2
  nodes := (span 0 32).map fun k => BitVec.ofNat 128 (fld img (b + 16 * k) 16)
  depth := (span 0 32).map fun q => fld img (b + 512 + q) 1
  endp := (span 0 32).map fun e => fld img (b + 544 + 4 * e) 4
  puse := fld img (b + 674) 1

/-- A node of an image: its LOC, slot and entry, its words' place, operation and fields. -/
structure INode where
  loc  : Nat
  slot : Nat
  ent  : Nat
  off  : Nat
  op   : Nat
  w    : NodeW
  deriving DecidableEq, Repr

/-- The identity of a node, whichever entry. -/
def INode.id (n : INode) : Nat := 16 * n.loc + n.slot

/-- A rejection at a node. -/
def INode.bad (n : INode) (code : Nat) : Bad := ⟨code, n.off, some (n.loc, n.slot, n.ent)⟩

/-- The nodes of a record: entry 0 of each slot in use, and entry 1 of the two-entry ones; an entry of zeros names nothing. -/
def recNodes (r : CellRec) : List INode :=
  (span 0 16).flatMap fun s =>
    let e0 := nth 0 r.nodes (2 * s)
    let e1 := nth 0 r.nodes (2 * s + 1)
    if e0 = 0 then []
    else ⟨r.loc, s, 0, r.base + 32 * s, nodeOpc e0, nodeFields e0⟩ ::
      (if (nodeFields e0).t ∧ e1 ≠ 0 then [⟨r.loc, s, 1, r.base + 32 * s + 16, nodeOpc e1, nodeFields e1⟩] else [])

/-- The checks of a record by itself: its form (R193), the depths (R59), the nodes' encodings. -/
def recBad (img : List Byte) (d : Dest) (r : CellRec) : List Bad :=
  badAt (32768 ≤ r.loc || !d.inside r.loc) 0x0113 (r.base + 672)
    ++ badAt (2 < r.puse) 0x0113 (r.base + 674)
    ++ badAt (fld img (r.base + 675) 93 != 0) 0x0113 (r.base + 675)
    ++ ((r.depth.zipIdx).flatMap fun e : Nat × Nat => badAt (64 < e.1) 0x0102 (r.base + 512 + e.2))
    ++ badAt (512 < r.depth.foldl (· + ·) 0) 0x0103 (r.base + 512)
    ++ ((r.endp.zipIdx).flatMap fun e : Nat × Nat =>
        badAt (bitsOf e.1 25 7 != 0 || (bitOf e.1 23 && (bitsOf e.1 5 3 != 0 || !d.inside (bitsOf e.1 8 15)))) 0x0113
          (r.base + 544 + 4 * e.2))
    ++ ((span 0 16).flatMap fun s =>
        (slotChecks (nth 0 r.nodes (2 * s)) (nth 0 r.nodes (2 * s + 1)) (if d.r.kind = 1 then some d.r.half else none)).map
          fun c => ⟨c.1, r.base + 32 * s + 16 * c.2, some (r.loc, s, c.2)⟩)

/-! ### Channels -/

/-- An output field that names an endpoint: the endpoint's key 32 · LOC + number, its node, which output. -/
structure Prod where
  ep : Nat
  n  : INode
  o  : Nat
  deriving DecidableEq, Repr

/-- An input field that names a cell queue: the queue's key 32 · LOC + number, its node, which input. -/
structure Cons where
  q : Nat
  n : INode
  i : Nat
  deriving DecidableEq, Repr

/-- Everything that the structural checks look at. -/
structure Img where
  recs  : List CellRec
  nodes : List INode
  prods : List Prod
  cons  : List Cons
  deriving DecidableEq, Repr

/-- The outputs and inputs of a node with their channel bytes. -/
def INode.outs (n : INode) : List (Nat × Nat) := [(0, chanId n.w.out0), (1, chanId n.w.out1)]
def INode.ins (n : INode) : List (Nat × Nat) := [(0, chanId n.w.inA), (1, chanId n.w.inB), (2, chanId n.w.inC)]

/-- The view of an image's records. -/
def imgOf (recs : List CellRec) : Img :=
  let nodes := recs.flatMap recNodes
  { recs := recs
    nodes := nodes
    prods := nodes.flatMap fun n => n.outs.filterMap fun e =>
      if 0x20 ≤ e.2 ∧ e.2 ≤ 0x3F then some ⟨32 * n.loc + (e.2 - 0x20), n, e.1⟩ else none
    cons := nodes.flatMap fun n => n.ins.filterMap fun e => if e.2 < 0x20 then some ⟨32 * n.loc + e.2, n, e.1⟩ else none }

/-- The record of a LOC. -/
def Img.recOf (m : Img) (loc : Nat) : Option CellRec := m.recs.find? fun r => r.loc == loc

/-- The ENDP entry of an endpoint key; 0 with no record. -/
def Img.endp (m : Img) (ep : Nat) : Nat := match m.recOf (ep / 32) with | some r => nth 0 r.endp (ep % 32) | none => 0

/-- The queue key that an ENDP entry names, when it is valid, and its arm. -/
def endpDst (v : Nat) : Option Nat := if bitOf v 23 then some (32 * bitsOf v 8 15 + bitsOf v 0 5) else none
def endpArm (v : Nat) : Nat := bitsOf v 24 1

/-- The depth of a queue; 0 with no record. -/
def Img.depth (m : Img) (q : Nat) : Nat := match m.recOf (q / 32) with | some r => nth 0 r.depth (q % 32) | none => 0

/-- Whether a node is a merge whose IN_A and IN_B name one channel (R74). -/
def INode.window (n : INode) : Bool := n.op == 0x62 && chanId n.w.inA == chanId n.w.inB && chanId n.w.inA != 0xFF

/-- The claim that input `i` of a node makes on its channel: a shared-window merge claims it once for both arms. -/
def INode.claim (n : INode) (i : Nat) : Nat := if n.window && i == 1 then 0 else i

/-- A shared-window merge that reads queue `q` (R74). -/
def Img.sharedBy (m : Img) (q : Nat) : Option INode :=
  m.nodes.find? fun n => n.window && decide (chanId n.w.inA < 0x20) && 32 * n.loc + chanId n.w.inA == q

/-- The valid ENDP entries with their queue key, endpoint key and offset. -/
def Img.ents (m : Img) : List (Nat × Nat × Nat) :=
  m.recs.flatMap fun r => (r.endp.zipIdx).filterMap fun e => (endpDst e.1).map fun q => (q, 32 * r.loc + e.2, r.base + 544 + 4 * e.2)

/-- The producers into a queue. -/
def Img.into (m : Img) (q : Nat) : List Prod := m.prods.filter fun p => endpDst (m.endp p.ep) == some q

/-- The producer fields that feed input `i` of node `id`. -/
def Img.feeds (m : Img) (id i : Nat) : List Prod :=
  (m.cons.filter fun c => c.n.id == id && c.i == i).flatMap fun c => m.into c.q

/-- A node's operation, by identity: that of its entry 0. -/
def Img.op (m : Img) (id : Nat) : Nat := match m.nodes.find? fun n => n.id == id && n.ent == 0 with | some n => n.op | none => 0

/-- The edges of the fabric: producer node, consumer node, which input. -/
def Img.edges (m : Img) : List (Nat × Nat × Nat) :=
  m.cons.flatMap fun c => (m.into c.q).map fun p => (p.n.id, c.n.id, c.i)

/-- Everything reached from `front` by `next`, in `f` rounds. -/
def closure (next : Nat → List Nat) : Nat → List Nat → List Nat → List Nat
  | 0, _, seen => seen
  | f + 1, front, seen =>
    let l := (front.flatMap next).eraseDups.filter fun n => !has seen n
    if l.isEmpty then seen else closure next f l (seen ++ l)

/-- The places of several claims on one thing, but for the two entries of one node and claims of one node through one entry that the rule
lets stand: those whose key occurs with another node, or twice in one entry. -/
def doubled (l : List (Nat × INode × Nat)) : List INode :=
  (l.filter fun e => l.any fun f => f.1 == e.1 && (f.2.1.id != e.2.1.id || (f.2.1.ent == e.2.1.ent && f.2.2 != e.2.2))).map (·.2.1)

/-- ENDP entries that name one queue, which is not shared: at their node, or at the entry where no node names its endpoint. -/
def entClash (m : Img) : List Bad :=
  (m.ents.filter fun e => (m.sharedBy e.1).isNone && m.ents.any fun f => f.1 == e.1 && f.2.1 != e.2.1).map fun e =>
    match m.prods.find? fun p => p.ep == e.2.1 with
    | some p => p.n.bad 0x0104
    | none => ⟨0x0104, e.2.2, none⟩

/-- Channels with more than one producer or consumer (R59): endpoints, queues, the fixed units of a cove, and 0x91 on two inputs of one
node (log entry 47); which nodes may name 0x90 to 0x9F, R272 governs. -/
def fanoutBad (m : Img) : List Bad :=
  let eps := m.prods.map fun p => (p.ep, p.n, p.o)
  let qs := m.cons.map fun c => (c.q, c.n, c.n.claim c.i)
  let unitOut := m.nodes.flatMap fun n => n.outs.filterMap fun e =>
    if (0x50 ≤ e.2 ∧ e.2 ≤ 0x8F) ∨ (0x92 ≤ e.2 ∧ e.2 ≤ 0xA7) then some (256 * (n.loc / 16) + e.2, n, e.1) else none
  let unitIn := m.nodes.flatMap fun n => n.ins.filterMap fun e =>
    if 0xA8 ≤ e.2 ∧ e.2 ≤ 0xAF then some (256 * (n.loc / 16) + e.2, n, n.claim e.1)
    else if e.2 = 0x91 then some (2 ^ 32 + n.id, n, n.claim e.1) else none
  entClash m ++ ((doubled eps) ++ (doubled qs) ++ (doubled unitOut) ++ (doubled unitIn)).map fun n => n.bad 0x0104

/-- Endpoints used without being marked valid (R193), channel depths of 0 (R59), and arms on queues that are not shared (R74); an entry that is
not marked valid names no destination, whatever its ARM (log entry 122). -/
def channelBad (d : Dest) (m : Img) : List Bad :=
  let place := fun ep : Nat => match m.recOf (ep / 32) with | some r => r.base + 544 + 4 * (ep % 32) | none => 0
  let byte := fun q : Nat => match m.recOf (q / 32) with | some r => r.base + 512 + q % 32 | none => 0
  (m.prods.flatMap fun p => badAt (endpDst (m.endp p.ep)).isNone 0x0113 (place p.ep))
    ++ (m.prods.flatMap fun p => match endpDst (m.endp p.ep) with
      | some q => badAt (d.inside (q / 32) && m.depth q == 0) 0x0102 (if (m.recOf (q / 32)).isSome then byte q else place p.ep)
      | none => [])
    ++ (m.cons.flatMap fun c => badAt (m.depth c.q == 0) 0x0102 (byte c.q))
    ++ (m.recs.flatMap fun r => (r.endp.zipIdx).flatMap fun e : Nat × Nat => match endpDst e.1 with
      | some q => badAt (endpArm e.1 == 1 && (m.sharedBy q).isNone) 0x010A (r.base + 544 + 4 * e.2)
      | none => [])

/-- Shared-window merges whose queue breaks R74, or whose queue is not named by one ENDP entry of each arm; none names a FIFO or 0x91. -/
def windowBad (m : Img) : List Bad :=
  m.nodes.filterMap fun n =>
    let q := 32 * n.loc + chanId n.w.inA
    if n.window then
      let arms := (m.ents.filter fun e => e.1 == q).map fun e => endpArm (m.endp e.2.1)
      if 0x20 ≤ chanId n.w.inA || m.depth q != bitsOf n.w.imm.toNat 0 7 || !(arms == [0, 1] || arms == [1, 0]) then some (n.bad 0x010A)
      else none
    else none

/-- Nodes on a cycle that passes through no CARRY and enters no CCHAIN at IN_B (R59). -/
def cycleBad (m : Img) : List Bad :=
  let es := m.edges.filter fun e => m.op e.1 != 0x6A && m.op e.2.1 != 0x6A && !(m.op e.2.1 == 0x69 && e.2.2 == 1)
  let next := fun id => (es.filter fun e => e.1 == id).map (·.2.1)
  m.nodes.filterMap fun n => if n.ent == 0 && has (closure next (m.nodes.length + 1) [n.id] []) n.id then some (n.bad 0x0101) else none

/-! ### Speculative bodies (R70) -/

/-- The producer fields behind input `i` of node `id`, looking through nodes whose operation is in `thru`. -/
def Img.behind (m : Img) (thru : List Nat) (id i : Nat) : List Prod :=
  let direct := m.feeds id i
  let all := fun n => (m.feeds n 0) ++ (m.feeds n 1) ++ (m.feeds n 2)
  let mids := fun l : List Prod => (l.map fun p => p.n.id).filter fun n => has thru (m.op n)
  let seen := closure (fun n => mids (all n)) (m.nodes.length + 1) (mids direct) (mids direct)
  (direct ++ seen.flatMap all).filter fun p => !has thru (m.op p.n.id)

/-- Side-effecting nodes. -/
def sideEffect (n : INode) : Bool := n.w.x || has [0x81, 0x82, 0x84, 0x86, 0x87, 0x73, 0x90] n.op

/-- The ungated side-effecting nodes of the speculative body of EXIT `e`. -/
def specBad (m : Img) (e : INode) : List Bad :=
  let fuel := m.nodes.length + 1
  let succ := fun id => (m.edges.filter fun x => x.1 == id && x.2.1 != e.id).map (·.2.1)
  let pred := fun id => (m.edges.filter fun x => x.2.1 == id && x.1 != e.id).map (·.1)
  let chains := ((m.behind [0x60] e.id 2).filter fun p => m.op p.n.id == 0x69).map fun p => p.n.id
  let ends := ((m.feeds e.id 0 ++ m.feeds e.id 1).map fun p => p.n.id).filter (· != e.id)
  let fwd := closure succ fuel chains chains
  let body := (closure pred fuel ends ends).filter fun n => has fwd n
  let gate := fun n => has [0x61, 0x65] (m.op n) && (m.behind [0x60, 0x6A] n 2).any fun p => p.n.id == e.id && p.o == 1
  let open_ := fun id => (closure (fun n => if gate n then [] else (pred n).filter fun p => !gate p) fuel
    ((pred id).filter fun p => !gate p) ((pred id).filter fun p => !gate p)).any fun n => has body n
  m.nodes.filterMap fun n =>
    if sideEffect n && n.id != e.id && (has body n.id || (pred n.id).any (has body)) && open_ n.id then some (n.bad 0x0107) else none

/-! ### Units, memory nodes, planes -/

/-- Nodes whose claim on a thing of the cove or context is shared with another node. -/
def clashes (m : Img) (code : Nat) (key : INode → Option Nat) : List Bad :=
  m.nodes.filterMap fun n => match key n with
    | some k => if m.nodes.any fun o => o.id != n.id && key o == some k then some (n.bad code) else none
    | none => none

/-- The predicate bit of a CTXSEL node. -/
def selKey (n : INode) : Option Nat := if n.op = 0x6F then some (bitsOf n.w.imm.toNat 0 2) else none

/-- CTXSEL nodes whose bit another node of the context has (R77): one of the image, one of a cove that keeps its slot, or the copy of the node in
another cove under REPL. -/
def selBad (d : Dest) (m : Img) : List Bad :=
  clashes m 0x010B selKey ++ m.nodes.filterMap fun n => match selKey n with
    | some k =>
      let here := match d.at_ with | some _ => true | none => has d.sel (d.ce n.loc / 16)
      if here && (has d.taken k || (d.at_.isSome && decide (1 < d.sel.length))) then some (n.bad 0x010B) else none
    | none => none

/-- The port that a node names, with its cove. -/
def portKey (n : INode) : Option Nat :=
  if 0x83 ≤ n.op ∧ n.op ≤ 0x86 then some (16 * (n.loc / 16) + bitsOf n.w.imm.toNat 0 4) else none

/-- PORTUSE bytes that disagree with the nodes, and records that a port needs (R193, R260). -/
def portBad (d : Dest) (m : Img) : List Bad :=
  let up := if d.r.kind = 1 ∧ d.r.half = 1 then 8 else 0
  let use := fun loc : Nat => match m.nodes.find? fun n => portKey n == some (loc + up) with
    | some n => if n.op % 2 = 1 then 1 else 2
    | none => 0
  (m.recs.flatMap fun r => badAt (r.puse != use r.loc) 0x0113 (r.base + 674))
    ++ (m.nodes.flatMap fun n => match portKey n with
      | some k => badAt (m.recOf (k - up)).isNone 0x0113 0
      | none => [])

/-- ORD nodes not fed directly by another memory node (R263). -/
def ordBad (m : Img) : List Bad :=
  m.nodes.filterMap fun n =>
    if n.op = 0x89 ∧ !((m.feeds n.id 0).any fun p => decide (0x80 ≤ p.n.op ∧ p.n.op ≤ 0x88)) then some (n.bad 0x0114) else none

/-- Nodes that break their cell's wave chain (R264). -/
def waveBad (m : Img) : List Bad :=
  m.nodes.filterMap fun n =>
    if !n.w.v then none
    else
      let chain := m.nodes.filter fun o => o.w.v && o.loc == n.loc
      let self := fun o : INode => bitsOf o.w.imm.toNat 28 6
      let selfs := chain.map self
      let pred := bitsOf n.w.imm.toNat 34 6
      let succ := bitsOf n.w.imm.toNat 22 6
      if (chain.any fun o => o.id != n.id && self o == self n) || (pred != 0 && !has selfs pred) || (succ != 63 && !has selfs succ)
          || (self n == selfs.foldl max 0 && succ != 63) then some (n.bad 0x0115) else none

/-- Breaches of R272 in a cove. -/
def mxBad (m : Img) : List Bad :=
  let claim := fun n : INode => n.ent == 0 && has [0x90, 0x92, 0x93] n.op
  let same := fun a b : INode => a.loc / 16 == b.loc / 16
  let mma := fun n => m.nodes.any fun o => o.op == 0x90 && same o n
  let reads := fun n : INode => n.ins.any fun e => e.2 == 0x91
  m.nodes.filterMap fun n =>
    if (claim n && m.nodes.any fun o => claim o && same o n && decide (o.id < n.id))
        || (n.op != 0x90 && n.outs.any fun e => e.2 == 0x90)
        || ((n.outs.any fun e => decide (0x92 ≤ e.2 ∧ e.2 ≤ 0x9F)) && !mma n)
        || (reads n && (!mma n || m.nodes.any fun o => reads o && same o n && o.id != n.id))
    then some (n.bad 0x0116) else none

/-! ### Coupling (R201, R329) -/

/-- A coupling entry of the image: its offset, its raw bits, its producer and consumer nodes with the channel's depth. -/
structure ICoup where
  off  : Nat
  v    : Nat
  ends : Option (INode × INode × Nat)
  deriving DecidableEq, Repr

/-- The entries of the coupling table. -/
def coupEnts (img : List Byte) (m : Img) : List ICoup :=
  (span 0 (if tableIn img 24 then fld img 32 4 else 0)).map fun k =>
    let off := fld img 24 8 + 16 * k
    let v := fld img off 12
    let ep := 32 * bitsOf v 8 15 + (bitsOf v 0 8 - 0x20)
    let ends := if bitsOf v 0 8 < 0x20 ∨ 0x3F < bitsOf v 0 8 then none
      else match m.prods.find? fun p => p.ep == ep, endpDst (m.endp ep) with
        | some p, some q => (m.cons.find? fun c => c.q == q).map fun c =>
            (p.n, c.n, if (m.sharedBy q).isSome then 1 else m.depth q)
        | _, _ => none
    ⟨off, v, ends⟩

/-- The rejections of the coupling table; K where no entry names an end (R122). -/
def coupBad (img : List Byte) (d : Dest) (m : Img) : List Bad :=
  let es := coupEnts img m
  let par := fun e : ICoup => coupPar e.v
  let prodOf := fun e : ICoup => match e.ends with | some x => x.1.id | none => 0
  let consOf := fun e : ICoup => match e.ends with | some x => x.2.1.id | none => 0
  let form := fun e : ICoup => match e.ends with
    | none => true
    | some x => !(par e).ok || bitOf e.v 23 || bitsOf e.v 60 36 != 0 || decide (x.2.2 < (par e).s) || !x.1.w.k || !x.2.1.w.k
        || es.any fun f => decide (f.off < e.off) && bitsOf f.v 0 23 == bitsOf e.v 0 23
  let good := es.filter fun e => !form e
  let actP := fun e : ICoup => (par e).mode != 2
  let actC := fun e : ICoup => (par e).mode != 1
  let twice := fun e : ICoup => good.any fun f => decide (f.off < e.off)
    && ((actP e && actP f && prodOf e == prodOf f) || (actC e && actC f && consOf e == consOf f))
  let zero := good.filter fun e => (par e).mode == 0
  let cyc := fun e : ICoup => hasCycle [] ((zero.filter fun f => decide (f.off ≤ e.off)).map fun f => (prodOf f, consOf f))
    && !hasCycle [] ((zero.filter fun f => decide (f.off < e.off)).map fun f => (prodOf f, consOf f))
  (es.flatMap fun e => badAt (fld img (e.off + 12) 4 != 0 || (d.at_.isSome && bitsOf e.v 12 11 != 0)) 0x0113 e.off
      ++ badAt (form e) 0x0117 e.off)
    ++ (good.flatMap fun e => badAt (!(par e).stable || twice e || ((par e).mode == 0 && cyc e)) 0x0118 e.off)
    ++ m.nodes.filterMap fun n =>
        if n.w.k && tableIn img 24 && !(es.any fun e => match e.ends with | some x => x.1.id == n.id || x.2.1.id == n.id | none => false)
        then some (n.bad 0x010E) else none

/-! ### The header and the preloads (R193) -/

/-- The header fields that break R193, for a region of this shape. -/
def headerFields (img : List Byte) (r : Region) : List Bad :=
  let nd := if r.kind = 2 then r.dies.length else 0
  badAt (fld img 0 4 != 0x49584441) 0x0113 0 ++ badAt (fld img 4 2 != 1) 0x0113 4
    ++ badAt (fld img 6 2 == 0 || decide (24576 < fld img 6 2)) 0x0113 6
    ++ badAt (fld img 8 1 != (if r.kind = 2 then 1 else r.w)) 0x0113 8 ++ badAt (fld img 9 1 != (if r.kind = 2 then 1 else r.h)) 0x0113 9
    ++ badAt (fld img 10 1 != r.kind) 0x0113 10 ++ badAt (fld img 11 1 != nd) 0x0113 11
    ++ badAt (fld img 12 4 != 0) 0x0113 12 ++ badAt (fld img 16 8 % 64 != 0) 0x0113 16
    ++ badAt (fld img 24 8 % 16 != 0) 0x0113 24 ++ badAt (fld img 40 8 % 16 != 0) 0x0113 40
    ++ badAt (fld img 48 16 != 0) 0x0113 48

/-- The rejections of the header for a destination. -/
def headBads (img : List Byte) (d : Dest) : List Bad :=
  (headerFields img d.r).filter fun b => d.shape || decide (b.off < 8 ∨ 12 ≤ b.off)

/-- A preload entry: its offset, LOC, bank offset, length and source. -/
structure Preload where
  off : Nat
  loc : Nat
  at_ : Nat
  len : Nat
  src : Word
  deriving DecidableEq, Repr

/-- The preload list. -/
def preloads (img : List Byte) : List Preload :=
  (span 0 (if tableIn img 40 then fld img 36 4 else 0)).map fun k =>
    let o := fld img 40 8 + 16 * k
    ⟨o, fld img o 2, fld img (o + 2) 2, fld img (o + 4) 4, BitVec.ofNat 64 (fld img (o + 8) 8)⟩

/-- Preload entries that name no record, or run past the bank. -/
def preloadBad (d : Dest) (m : Img) (l : List Preload) : List Bad :=
  l.flatMap fun p => badAt ((m.recOf p.loc).isNone || !d.inside p.loc || decide (65536 < p.at_ + p.len)) 0x0113 p.off

/-! ### Loading -/

/-- What an image gives: cells with their contents, and bytes for banks by shore offset. -/
structure Loaded where
  cells : List (Nat × CellImg)
  pre   : List (Nat × List Byte)
  slots : Nat
  deriving DecidableEq, Repr

/-- The outcome of reading and checking an image. -/
inductive LoadRes where
  | ok (l : Loaded)
  | bad (b : Bad)
  | fault (va : Word) (e : XErr)
  deriving DecidableEq, Repr

/-- All the checks of an image's content. -/
def imageBads (img : List Byte) (d : Dest) (recs : List CellRec) : List Bad :=
  let m := imgOf recs
  headBads img d ++ tableBad img ++ recs.flatMap (recBad img d)
    ++ ((recs.zipIdx).flatMap fun e : CellRec × Nat => badAt ((recs.take e.2).any fun r => r.loc == e.1.loc) 0x0113 (e.1.base + 672))
    ++ fanoutBad m ++ channelBad d m ++ windowBad m ++ cycleBad m
    ++ ((m.nodes.filter fun n => n.op == 0x6B).flatMap (specBad m))
    ++ clashes m 0x0110 portKey ++ portBad d m
    ++ selBad d m
    ++ ordBad m ++ waveBad m ++ mxBad m ++ coupBad img d m ++ preloadBad d m (preloads img)

/-- An ENDP entry with its destination resolved. -/
def resolveEndp (d : Dest) (v : Nat) : BitVec 32 :=
  if bitOf v 23 then
    let ce := d.ce (bitsOf v 8 15)
    BitVec.ofNat 32 (bitsOf v 0 8 + 256 * (ce % 16) + 4096 * coveNo (cvOfCe ce) + 2 ^ 20 * dieOf (cvOfCe ce) + 2 ^ 23 * bitsOf v 23 2)
  else 0

/-- The coupling entries of a cell. -/
def cellCoups (img : List Byte) (loc : Nat) : List CoupEnt :=
  (span 0 (fld img 32 4)).filterMap fun k =>
    let v := fld img (fld img 24 8 + 16 * k) 12
    if bitsOf v 8 15 = loc then some ⟨k, bitsOf v 0 8 - 0x20, coupPar v⟩ else none

/-- A record as loaded. -/
def cellImg (img : List Byte) (d : Dest) (r : CellRec) : CellImg where
  nodes := r.nodes
  depth := r.depth.map (BitVec.ofNat 8)
  endp := r.endp.map (resolveEndp d)
  puse := BitVec.ofNat 8 r.puse
  coup := cellCoups img r.loc

/-- Read the sources of preloads, collecting rejections. -/
def readPre (rt : Rt) (u : Nat) (d : Dest) : List Preload → State → List (Nat × List Byte) → List Bad →
    State × Except (Word × XErr) (List (Nat × List Byte) × List Bad)
  | [], s, acc, bad => (s, .ok (acc, bad))
  | p :: t, s, acc, bad =>
    if !isDeep p.src then readPre rt u d t s acc (bad ++ [⟨0x0113, p.off, none⟩])
    else match rdVa s rt u p.src p.len with
    | (s1, .err va e) =>
      if e.cause < 0x40 then readPre rt u d t s1 acc (bad ++ [⟨0x0113, p.off, none⟩]) else (s1, .error (va, e))
    | (s1, .ok bs psn) =>
      readPre rt u d t s1 (acc ++ [(65536 * d.ce p.loc + p.at_, bs)]) (if psn.isSome then bad ++ [⟨0x011F, p.off, none⟩] else bad)

/-- Whether the `n` bytes at offset `o` stand outside the poisoned ranges. -/
def readable (psn : List (Nat × Nat)) (o n : Nat) : Bool := psn.all fun e => decide (e.1 + e.2 ≤ o ∨ o + n ≤ e.1)

/-- The rejections of a record by itself that rest on no poisoned line (log entry 117); one whose LOC is poisoned has no place. -/
def readBads (psn : List (Nat × Nat)) (img : List Byte) (d : Dest) (r : CellRec) : List Bad :=
  ((recBad img d r).filter fun b => readable psn (b.off / 64 * 64) (if b.off = r.base + 675 then 128 else 64)).map fun b =>
    if readable psn (r.base + 672) 2 then b else { b with node := none }

/-- The lowest rejection of a list that is not empty. -/
def badRes (l : List Bad) : LoadRes := match worst l with | some b => .bad b | none => .bad ⟨0x0113, 0, none⟩

/-- Check a patched copy and form what it loads; of one with poisoned ranges, only what rests on none of them is judged (log entry 117). -/
def finishLoad (s : State) (rt : Rt) (u : Nat) (d : Dest) (img : List Byte) (psn : List (Nat × Nat)) (bad : List Bad) : State × LoadRes :=
  let recs := (span 0 (if tableIn img 16 then fld img 6 2 else 0)).map fun k => cellRec img (fld img 16 8 + 768 * k)
  if !psn.isEmpty then (s, badRes (bad ++ poisonBad psn ++ headBads img d ++ tableBad img ++ recs.flatMap (readBads psn img d)))
  else match readPre rt u d (preloads img) s [] [] with
  | (s1, .error (va, e)) => (s1, .fault va e)
  | (s1, .ok (pre, b2)) =>
    match worst (bad ++ b2 ++ imageBads img d recs) with
    | some b => (s1, .bad b)
    | none =>
      (s1, .ok ⟨recs.map fun r => (d.ce r.loc, cellImg img d r), pre, ((imgOf recs).nodes.filter fun n => n.ent == 0).length⟩)

/-- The rejections of a read that failed: the pointer held in the field at offset `o` breaks R13 to R18 (R193); none where its access faults. -/
def readFailed (o : Nat) (e : XErr) : List Bad := badAt (decide (e.cause < 0x40)) 0x0113 o

/-- Read, patch and check the copy `img` of an image, with its poisoned ranges; a delta list that cannot be had leaves the copy as it is, and of a
poisoned one the entries that can be read are applied (log entry 117). -/
def withDelta (s : State) (rt : Rt) (u : Nat) (d : Dest) (delta : Word) (n : Nat) (img : List Byte) (psn : List (Nat × Nat)) : State × LoadRes :=
  if n = 0 then finishLoad s rt u d img psn []
  else if !isDeep delta then finishLoad s rt u d img psn [⟨0x0113, 8, none⟩]
  else match rdMarked rt u (pieces (n / 4 + 2) delta.toNat (16 * n)) s [] [] with
    | (s1, .error (va, e)) => if e.cause < 0x40 then finishLoad s1 rt u d img psn (readFailed 8 e) else (s1, .fault va e)
    | (s1, .ok (bs, ps)) =>
      let es := ((chunks 16 n bs).zipIdx).filter fun e => readable ps (16 * e.2) 16
      let r := applyDelta d (es.map fun e => (16 * e.2, e.1)) img []
      finishLoad s1 rt u d r.1 psn (r.2 ++ poisonBad ps)

/-- Read, patch and check the image at `image` for the residency's region, or for one cove of it under REPL. An image with a bad header is
judged as far as its tables can be read (R127); of one whose header is poisoned nothing is. -/
def loadImage (s : State) (rt : Rt) (u : Nat) (d : Dest) (image delta : Word) (ndelta : Nat) : State × LoadRes :=
  if !isDeep image then (s, .bad ⟨0x0113, 0, none⟩)
  else match rdVa s rt u image 64 with
  | (s1, .err va e) => (s1, if e.cause < 0x40 then badRes (readFailed 0 e) else .fault va e)
  | (s1, .ok _ (some o)) => (s1, badRes (poisonBad [(o, 64)] ++ badAt (ndelta != 0 && !isDeep delta) 0x0113 8))
  | (s1, .ok h none) =>
    match rdMarked rt u (pieces (imgEnd h / 64 + 2) image.toNat (imgEnd h)) s1 [] [] with
    | (s2, .error (va, e)) => (s2, if e.cause < 0x40 then badRes (readFailed 0 e) else .fault va e)
    | (s2, .ok (img, psn)) => withDelta s2 rt u d delta ndelta img psn

/-- A cell loaded with empty slots. -/
def CellImg.empty : CellImg := ⟨[], [], [], 0, []⟩

/-- Load context slot `k` of a list of cells: those that the image has no record for get empty slots. -/
def putCells (s : State) (k : Nat) (cells : List Nat) (l : List (Nat × CellImg)) : State :=
  cells.foldl (fun t ce =>
    let c := t.cell ce
    let i := match l.find? fun e => e.1 == ce with | some e => e.2 | none => CellImg.empty
    t.setCell ce { c with imgs := Tab.insert c.imgs k i }) s

/-- Copy preloads into their banks. -/
def putBanks (s : State) (l : List (Nat × List Byte)) : State :=
  l.foldl (fun t e => writeBytes t ((segPAs [(⟨.shore, e.1⟩, e.2.length)]).zip e.2)) s

end Sys2Proof.Machine
end

