-- ==== Sys2Proof/Machine/Region.lean ====
section
/-!
DEFINITION. The life of a region: the activation of a context (R39, R78, R183, R325 to R328), DRAIN and the end of a phase (R52 to R54,
R78), the detector's tests and its deadlock report (R55 to R58), and the escape lane (R61, R62).
-/
namespace Sys2Proof.Machine

/-! ### Writes of deep memory by the device's agents -/

/-- Translate pieces one by one for writing: all their segments, or the first address that fails. -/
def xlPieces (rt : Rt) (u : Nat) : List (Nat × Nat) → State → List (PA × Nat) → State × Except (Word × XErr) (List (PA × Nat))
  | [], s, acc => (s, .ok acc)
  | (a, n) :: t, s, acc =>
    match resolve s rt u (BitVec.ofNat 64 a) n false true with
    | (s1, .error e) => (s1, .error (BitVec.ofNat 64 a, e))
    | (s1, .ok segs) => xlPieces rt u t s1 (acc ++ segs)

/-- Write bytes at `va` once all of them translate; nothing is written otherwise. They count at the permit meter (R331). -/
def wrVa (s : State) (rt : Rt) (u : Nat) (va : Word) (bs : List Byte) : State × Option (Word × XErr) :=
  match xlPieces rt u (pieces (bs.length / 64 + 2) va.toNat bs.length) s [] with
  | (s1, .error e) => (s1, some e)
  | (s1, .ok segs) => (writeBytes (meterSegs s1 rt.rid segs) ((segPAs segs).zip bs), none)

/-! ### What a context slot holds -/

/-- The image of a cell's context slot. -/
def imgAt (s : State) (ce ctx : Nat) : CellImg := (Tab.find? (s.cell ce).imgs ctx).getD CellImg.empty

/-- The nodes of a cell's context slot: each slot in use with its two words. -/
def nodesAt (s : State) (ce ctx : Nat) : List (Nat × BitVec 128 × BitVec 128) :=
  ((span 0 16).map fun k => (k, nodeWords s ce ctx k)).filter fun e : Nat × BitVec 128 × BitVec 128 => e.2.1 != 0

/-- The entries of a node: one, or two under flag T. -/
def entriesOf (ws : BitVec 128 × BitVec 128) : List NodeW :=
  if (nodeFields ws.1).t then [nodeFields ws.1, nodeFields ws.2] else [nodeFields ws.1]

/-- The input fields of a node. -/
def insOfWords (ws : BitVec 128 × BitVec 128) : List (BitVec 12) := (entriesOf ws).flatMap fun w => [w.inA, w.inB, w.inC]

/-- The input field of a cell's context that names `id`. -/
def readerField (s : State) (ce ctx id : Nat) : Option (BitVec 12) :=
  (nodesAt s ce ctx).findSome? fun e => (insOfWords e.2).find? fun f => chanId f == id

/-- Whether queue `q` is the shared window of a merge (R74). -/
def isWindow (s : State) (ce ctx q : Nat) : Bool :=
  (nodesAt s ce ctx).any fun e =>
    let w := nodeFields e.2.1
    nodeOpc e.2.1 == 0x62 && chanId w.inA == q && chanId w.inB == q

/-- The cells of the residency in cove `cv`. -/
def Region.cellsIn (r : Region) (cv : Nat) : List Nat := r.cells.filter fun ce => cvOfCe ce == cv

/-- The queue key that an endpoint entry of a loaded cell names. -/
def endpQueue (v : Nat) : Nat := 32 * (16 * (256 * bitsOf v 20 3 + bitsOf v 12 8) + bitsOf v 8 4) + bitsOf v 0 5

/-- The valid endpoints of a region's context: key, destination queue, arm. -/
def liveEndps (s : State) (r : Region) (ctx : Nat) : List (Nat × Nat × Nat) :=
  r.cells.flatMap fun ce =>
    ((imgAt s ce ctx).endp.zipIdx).filterMap fun e : BitVec 32 × Nat =>
      if e.1.getLsbD 23 then some (32 * ce + e.2, endpQueue e.1.toNat, bitsOf e.1.toNat 24 1) else none

/-! ### Activation (R39, R78, R325 to R328) -/

/-- Queue `q` of a cell at activation (R39). -/
def freshQueue (s : State) (eps : List (Nat × Nat × Nat)) (ce ctx q depth : Nat) : Queue :=
  { Queue.empty with
    depth := depth
    sticky := match readerField s ce ctx q with | some f => sticky f | none => 0
    win := isWindow s ce ctx q
    src := [0, 1].filterMap fun a => (eps.find? fun e => decide (e.2.1 = 32 * ce + q ∧ e.2.2 = a)).map (·.1)
    land := if isWindow s ce ctx q then [none, none] else [] }

/-- An endpoint at activation (R39): its credits equal its channel's depth, which is 1 into a shared window (R74). -/
def freshEndp (s : State) (ctx dst arm : Nat) : Endp :=
  let d := if isWindow s (dst / 32) ctx (dst % 32) then 1 else (nth 0 (imgAt s (dst / 32) ctx).depth (dst % 32)).toNat
  ⟨dst, arm, d, d, 0, 0⟩

/-- A cell at activation: the flag sets, the loaded slots and the clock of the last firing stay. -/
def freshCell (s : State) (eps : List (Nat × Nat × Nat)) (ce ctx : Nat) : Cell :=
  let i := imgAt s ce ctx
  { s.cell ce with
    queues := ((i.depth.zipIdx).filter fun e : Byte × Nat => e.1 != 0).map fun e : Byte × Nat =>
      (e.2, freshQueue s eps ce ctx e.2 e.1.toNat)
    endps := (eps.filter fun e => e.1 / 32 == ce).map fun e => (e.1 % 32, freshEndp s ctx e.2.1 e.2.2)
    nodes := (nodesAt s ce ctx).map fun e => (e.1, Node.empty)
    wLast := 0
    wNeed := 63
    wRecs := []
    wErr := false }

/-- A token FIFO from the control core as the new context reads it: its tokens stay (R374), each with all its uses. -/
def freshFifo (sticky : Nat) (q : Queue) : Queue :=
  { q with sticky := sticky, debt := 0, toks := q.toks.map fun t => { t with left := sticky + 1 } }

/-- The sticky count of the field of the residency's nodes in cove `cv` that reads `id`. -/
def coveSticky (s : State) (r : Region) (cv ctx id : Nat) : Nat :=
  match (r.cellsIn cv).findSome? fun ce => readerField s ce ctx id with
  | some f => sticky f
  | none => 0

/-- A cove at activation: its plane restarts (R272), no EOS has left its FIFOs (R52). -/
def freshCove (s : State) (r : Region) (cv ctx : Nat) : Cove :=
  let c := s.cove cv
  let p := if r.kind = 1 ∧ r.half = 1 then 1 else 0
  let mine := fun f : Nat => r.ownsUnit cv f 8
  { c with
    planes := Tab.insert c.planes p { Plane.empty with res := { Plane.empty.res with sticky := coveSticky s r cv ctx 0x91 } }
    fq := ((span 0 8).filter mine).foldl (fun t f => Tab.insert t f (freshFifo (coveSticky s r cv ctx (0xA8 + f)) (s.fifo cv f))) c.fq
    fqEos := c.fqEos.filter fun f => !mine f
    mreq := c.mreq.filter fun q => q != p }

/-- A packet of a left context counts as received (log entry 49). -/
def dropPkt (s : State) (rid : Nat) (p : Packet) : State :=
  detUp s rid (p.ch / 32) (match p.cargo with | .tok _ => .fr | .settle => .fr | _ => .rr)

/-- Remove the packets of a region's channels. -/
def dropPkts (s : State) (rid : Nat) (r : Region) : State :=
  let mine := fun p : Packet => r.hasCell (p.ch / 32)
  (s.wire.filter mine).foldl (fun t p => dropPkt t rid p) { s with wire := s.wire.filter fun p => !mine p }

/-- The coupling entries of a region's context in table order. -/
def coupTable (s : State) (r : Region) (ctx : Nat) : List (Nat × CoupEnt) :=
  sortBy (fun a b : Nat × CoupEnt => decide (a.2.order < b.2.order))
    (r.cells.flatMap fun ce => (imgAt s ce ctx).coup.map fun e => (ce, e))

/-- The node of a cell's context that reads a queue. -/
def readerNode (s : State) (ctx q : Nat) : Option Nat :=
  ((nodesAt s (q / 32) ctx).find? fun e => (insOfWords e.2).any fun f => chanId f == q % 32).map fun e => 16 * (q / 32) + e.1

/-- The regulators of the active context (R326): every value 0. -/
def freshCoups (s : State) (rid : Nat) (r : Region) (ctx : Nat) : List Coup :=
  (coupTable s r ctx).filterMap fun e =>
    let ep := 32 * e.1 + e.2.ep
    match producerOf s rid e.1 (e.2.ep + 0x20), (endpAt s ep).bind fun p => readerNode s ctx p.dst with
    | some (k, _), some c => some ⟨ep, 16 * e.1 + k, c, e.2.par, none, 0, 0, 0, 0, dieClock s (dieOf (cvOfCe e.1))⟩
    | _, _ => none

/-- R327: the start of each actuated node, the first channel of the table that actuates it giving the weight. -/
def startWeights (s : State) (l : List Coup) : State :=
  l.reverse.foldl (fun t k =>
    let t1 := if k.par.mode ≠ 1 then t.setNode k.cons { t.node k.cons with weight := k.par.wmin } else t
    if k.par.mode ≠ 2 then t1.setNode k.prod { t1.node k.prod with weight := k.par.wmax } else t1) s

/-- Whether a port's binding is broken by the node that names the port (R183). -/
def breaksBind (b : Bind) (op : Nat) (w : NodeW) : Bool :=
  (decide (op % 2 = 1) != b.read) || w.mode.toNat != b.fmt
    || (if b.kind ≤ 1 then !(op == 0x83 || op == 0x84) else if b.kind = 2 then op != 0x85 else op != 0x86)

/-- Fault the residency where a port node of the new context breaks a binding (R183, cause 0x3E). -/
def checkPorts (s : State) (rid : Nat) (r : Region) : State :=
  match (r.coves.flatMap fun cv => (span 0 16).filterMap fun p =>
      match (s.port cv p).bind, portNode s rid cv p with
      | some b, some (n, w, op) => if r.ownsUnit cv p 16 && breaksBind b op w then some n else none
      | _, _ => none) with
  | n :: _ => resFault s rid 0x3E (n / 16) (n % 16)
  | [] => s

/-- Whether a context slot holds an image in some cell of the region. -/
def slotHeld (s : State) (r : Region) (ctx : Nat) : Bool := r.cells.any fun ce => (Tab.find? (s.cell ce).imgs ctx).isSome

/-- The elements of a residency's ports and jobs whose wave records its chains have not accepted when their context is left: they are issued
outside any chain (R266, R374, log entry 94). Those of a backwash queue, not translated, stay. -/
def leaveChains (s : State) (rid : Nat) : State :=
  { s with accs := s.accs.map fun a =>
    if decide (a.rid = rid) && !a.issued && !a.segs.isEmpty then { a with issued := true, segs := routeSegs s a.segs } else a }

/-- Context `ctx` of a residency becomes active (R39, R78). -/
def activate (s : State) (rid ctx : Nat) : State :=
  match Tab.find? s.res rid with
  | none => s
  | some d =>
    let r := d.region
    if !slotHeld s r ctx then resFault s rid 0x36 (nth 0 r.cells 0) 0xFF
    else
      let s1 := dropPkts (leaveChains s rid) rid r
      let eps := liveEndps s1 r ctx
      let s2 := r.cells.foldl (fun t ce => t.setCell ce (freshCell s1 eps ce ctx)) s1
      let s3 := r.coves.foldl (fun t cv => t.setCove cv (freshCove t r cv ctx)) s2
      let s4 := modRes s3 rid fun q => { q with active := some ctx, drainOn := false, drainSrc := [], since := s.turns }
      let ks := freshCoups s4 rid r ctx
      let s5 := startWeights (modRes s4 rid fun q => { q with coups := ks }) ks
      touch (checkPorts s5 rid r) rid

/-- The region is left without an active context (R78). -/
def deactivate (s : State) (rid : Nat) : State :=
  modRes (leaveChains s rid) rid fun q => { q with active := none, drainOn := false, drainSrc := [], coups := [] }

/-! ### DRAIN (R52 to R54, R197) -/

/-- The sources of the active context's drain (R52). -/
def drainSources (s : State) (r : Region) (ctx : Nat) : List DrainSrc :=
  (r.cells.flatMap fun ce => (nodesAt s ce ctx).filterMap fun e =>
    let op := nodeOpc e.2.1
    let noIn := chanId (nodeFields e.2.1).inA == 0xFF
    if op = 0x83 ∨ op = 0x85 ∨ ((op = 0x67 ∨ op = 0x69) ∧ noIn) then some (.node (16 * ce + e.1)) else none)
  ++ r.coves.flatMap fun cv => (span 0 8).filterMap fun f =>
    if (r.cellsIn cv).any fun ce => (readerField s ce ctx (0xA8 + f)).isSome then some (.fifo cv f) else none

/-- The DRAIN command (R197): one injection in a phase. -/
def startDrain (s : State) (rid : Nat) : State :=
  match Tab.find? s.res rid with
  | some d =>
    (match d.active with
    | some ctx => if d.drainOn then s
      else modRes s rid fun q => { q with drainOn := true, drainSrc := drainSources s d.region ctx }
    | none => s)
  | none => s

/-- DRAIN_INJECT (R52): the `k`-th source that awaits its DRAIN receives it, when it has emitted EOS. -/
def execDrainInject (rid k : Nat) (s : State) : Host.Outcome State Fault Refusal :=
  match Tab.find? s.res rid with
  | none => .next s
  | some d =>
    if !goesOn s rid then .next s
    else match d.drainSrc[k]? with
    | none => .next s
    | some (.node n) =>
      if !gateLets s rid ∨ (s.cell (n / 16)).lastFire = some (dieClock s (dieOf (cvOfNode n))) then .next s
      else
        let c := ncx s n (liveNode s rid n)
        (match injected c with
        | some (some f) => .next (applyFire c f)
        | _ => .next s)
    | some (.fifo cv f) =>
      if has (s.cove cv).fqEos f && decide (fqCount s cv f < 16) && (Tab.get [] (s.cove cv).fqIn f).isEmpty && canArrive s (16 * cv) (0xA8 + f) 0 then
        let s1 := modRes s rid fun q => { q with drainSrc := dropNth q.drainSrc k }
        .next (touch (arriveAt s1 rid (16 * cv) (0xA8 + f) 0 (some drainTok)) rid)
      else .next s

/-! ### The end of a phase (R54, R78) -/

/-- Whether every node of a cell has forwarded or taken DRAIN, which a COPYFIRE with flag V holds until its wave record lets it go (R261). -/
def cellDrained (s : State) (ce ctx : Nat) : Bool :=
  (nodesAt s ce ctx).all fun e => (s.node (16 * ce + e.1)).drained && (s.node (16 * ce + e.1)).reps.isEmpty

/-- Whether every sink has taken DRAIN and every cell has drained, its accesses performed (R54). -/
def phaseOver (s : State) (rid : Nat) (r : Region) (ctx : Nat) : Bool :=
  (r.cells.all fun ce => cellDrained s ce ctx)
    && (r.coves.all fun cv => (span 0 64).all fun q => !(r.ownsUnit cv q 64) || !((s.cq cv q).toks.any fun t => t.k == 5))
    && !(s.accs.any fun a => a.rid == rid && (match a.ag with | .node _ => true | _ => false))

/-- The latch of bit `k` of the predicate vector (R77): 0 with no CTXSEL. -/
def latchOf (s : State) (r : Region) (ctx k : Nat) : Bool :=
  (r.cells.flatMap fun ce => (nodesAt s ce ctx).map fun e => (16 * ce + e.1, e.2.1)).any fun e : Nat × BitVec 128 =>
    let w := nodeFields e.2
    nodeOpc e.2 == 0x6F && bitsOf w.imm.toNat 0 2 == k
      && (match (s.node e.1).op with | .ctxsel l _ => l | _ => bitOf w.imm.toNat 2)

/-- The predicate vector v (R78). -/
def predVec (s : State) (r : Region) (ctx : Nat) : Nat :=
  (span 0 4).foldl (fun n k => n + (if latchOf s r ctx k then 2 ^ k else 0)) 0

/-- Whether a load of context slot `k` of the residency is being performed: it stands at the head of a configuration scoreboard, begun or frozen
(R195). -/
def loadingSlot (s : State) (rid : Nat) (r : Region) (k : Nat) : Bool :=
  r.coves.any fun cv =>
    match sbCmds s (sbKey cv 80) with
    | c :: _ => c.rid == rid && !c.host && c.gone.isNone && cmdSop c.w == 8 && (cmdFields c.w).tgt.toNat == k
    | [] => false

/-- PHASE_END (R78): a pending swap, else the entry of the next-context table that the latches choose, else the end of the region. -/
def execPhaseEnd (rid : Nat) (s : State) : Host.Outcome State Fault Refusal :=
  match Tab.find? s.res rid with
  | none => .next s
  | some d =>
    match d.active with
    | none => .next s
    | some ctx =>
      if !(d.st == .placed) || d.parking || !phaseOver s rid d.region ctx then .next s
      else match d.pend with
      | some k =>
        if loadingSlot s rid d.region k then .next s
        else .next (activate (modRes s rid fun q => { q with pend := none }) rid k)
      | none =>
        let e := (Tab.get 4 d.nct (predVec s d.region ctx)).toNat
        .next (if e < 4 then activate s rid e else deactivate s rid)

/-! ### The detector (R55, R56) -/

/-- A sum over a residency's detector agents, modulo 2^48. -/
def detSum (r : Residency) (f : Det → BitVec 48) : BitVec 48 := r.det.foldl (fun n e => n + f e.2) 0

/-- Whether sent and received agree in each class. -/
def balanced (r : Residency) : Bool :=
  detSum r (·.fs) == detSum r (·.fr) && detSum r (·.rs) == detSum r (·.rr) && detSum r (·.ms) == detSum r (·.mr)

/-- Whether some node of the region is ready or can cancel. -/
def nodeReady (s : State) (rid : Nat) (r : Residency) : Bool :=
  match r.active with
  | some ctx => r.region.cells.any fun ce => !(candidates s rid ce ctx).isEmpty
  | none => false

/-- Whether the matrix node could act for plane `p`. -/
def planeReady (s : State) (cv p : Nat) : Bool :=
  let q := s.plane cv p
  (q.em.isSome && mxRoom s cv p)
    || (match q.ctl with
      | .tok t :: _ => (mxTok s cv p t).plane cv p != q
      | .cmd w fl _ :: _ => (mxCmd s cv p w fl).plane cv p != q
      | [] => false)

/-- Whether a port or a copy queue of a cove is busy: one that is frozen with elements left, or within a firing, is. -/
def unitBusy (s : State) (rid : Nat) (r : Region) (cv : Nat) : Bool :=
  ((span 0 16).any fun p => r.ownsUnit cv p 16
      && (match (s.port cv p).bind with | some b => portReady s rid cv p { s.port cv p with frozen := none } b | none => false))
    || (span 0 64).any fun q => r.ownsUnit cv q 64
      && (let c := s.cq cv q; c.tmpl.isSome && (c.cur.isSome || (c.frozen.isNone && !c.toks.isEmpty && !c.disarm)))

/-- Whether an access belongs to an agent of the detector. -/
def detAcc (a : Acc) : Bool :=
  match a.ag with
  | .node _ => true
  | .port _ _ => true
  | .copy _ _ => true
  | .job _ => true
  | _ => false

/-- Whether some agent of a residency is busy (R55). -/
def resBusy (s : State) (rid : Nat) (r : Residency) : Bool :=
  nodeReady s rid r
    || (r.region.coves.any fun cv => unitBusy s rid r.region cv || planeReady s cv (if r.region.kind = 1 ∧ r.region.half = 1 then 1 else 0))
    || (s.jobs.any fun e => e.2.rid == rid && !e.2.ended)
    || s.accs.any fun a => a.rid == rid && detAcc a

/-- The quiescence test (R56). Both sweeps are made within one step, so that no counter moves and no flag is set between them (log
entry 25): the flags are cleared, and the rest decides. A residency that has gone has no agent. -/
def quiesceTest (s : State) (rid : Nat) : State × Bool :=
  match Tab.find? s.res rid with
  | none => (s, true)
  | some r =>
    (modRes s rid fun q => { q with det := q.det.map fun e => (e.1, { e.2 with act := false }) }, balanced r && !resBusy s rid r)

/-! ### The deadlock report (R57, R58) -/

/-- Whether a cell holds a token, or a nonzero Debt or Dout: in its queues and landing slots, at its endpoints, and in its nodes, pending or as a
reply not yet emitted. -/
def cellHolds (c : Cell) : Bool :=
  (c.queues.any fun e => !e.2.toks.isEmpty || e.2.debt != 0 || e.2.land.any Option.isSome)
    || (c.endps.any fun e => e.2.dout != 0)
    || c.nodes.any fun e => !e.2.pend.isEmpty || e.2.reps.any fun r => r.tok.isSome || r.settle

/-- Whether a plane of the matrix node holds a token. -/
def planeHolds (p : Plane) : Bool :=
  !p.ctl.isEmpty || (p.bufs.any fun b => b.2.drain || !b.2.tiles.isEmpty) || p.em.isSome || !p.res.toks.isEmpty || p.res.debt != 0

/-- Whether the units of a cove that the region owns hold a token: FIFOs both ways, copy queues, port buffers, matrix planes. -/
def coveHolds (r : Region) (cv : Nat) (c : Cove) : Bool :=
  (c.fq.any fun e => r.ownsUnit cv e.1 8 && (!e.2.toks.isEmpty || e.2.debt != 0))
    || (c.tq.any fun e => r.ownsUnit cv e.1 8 && !e.2.isEmpty)
    || (c.cqs.any fun e => r.ownsUnit cv e.1 64 && !e.2.toks.isEmpty)
    || (c.ports.any fun e => r.ownsUnit cv e.1 16 && (!e.2.buf.isEmpty
      || (match e.2.bind with | some b => b.rob.any fun t => t.tok.isSome | none => false)))
    || c.planes.any fun e => (r.kind != 1 || e.1 == r.half) && planeHolds e.2

/-- Whether a packet on its way is a token. -/
def isTokPkt (p : Packet) : Bool := match p.cargo with | .tok _ => true | _ => false

/-- Whether the region holds a token, or a nonzero Debt or Dout. -/
def holdsWork (s : State) (r : Region) : Bool :=
  (r.cells.any fun ce => cellHolds (s.cell ce)) || (r.coves.any fun cv => coveHolds r cv (s.cove cv))
    || s.wire.any fun p => isTokPkt p && r.hasCell (p.ch / 32)

/-- A blocked node with what its report entry needs: its place, its entry, its operation, the inputs it reads for the firing at hand. -/
structure Blocked where
  ce  : Nat
  k   : Nat
  ent : Nat
  c   : NCx
  i   : Instr
  ins : List Nat

/-- The node of slot `k` with the entry that its control token selects (R71). -/
def blockedAt (s : State) (rid ce ctx k : Nat) : Option Blocked :=
  match nodeInstrAt s ce ctx k with
  | none => none
  | some i =>
    let w := fieldsOf i
    let c : NCx := ⟨s, 16 * ce + k, rid, w, s.node (16 * ce + k)⟩
    let ent := if w.t ∧ w ≠ nodeFields (nodeWords s ce ctx k).1 then 1 else 0
    let l := needsOf i c
    if (l.any fun j => (c.hd j).isSome) && (candidate s rid ce ctx k).isNone then some ⟨ce, k, ent, c, i, l⟩ else none

/-- The blocked nodes of a region, in order of die, cove, cell and slot. -/
def blockedNodes (s : State) (rid : Nat) (r : Region) (ctx : Nat) : List Blocked :=
  (r.cells.flatMap fun ce => (span 0 16).filterMap fun k => blockedAt s rid ce ctx k)

/-- The state in which no queue of the node stands at Debt 63. -/
def easeDebt (c : NCx) : State :=
  (insOf c).foldl (fun t j =>
    let id := chanId (inF c.w j)
    setQ t c.ce id { qAt t c.ce id with debt := min 62 (qAt t c.ce id).debt }) c.s

/-- Whether a node is stalled at Debt 63 (R47): it would fire or cancel at a lower Debt. -/
def debtStalled (c : NCx) (i : Instr) : Bool :=
  let d := { c with s := easeDebt c }
  ((insOf c).any fun j => (c.q j).debt == 63) && (canCancelOp (opcOf i) d || (planOf i d).isSome)

/-- WHY of an entry (R58). -/
def whyOf (b : Blocked) : Nat :=
  let noIn := b.ins.any fun j => (b.c.hd j).isNone
  if debtStalled b.c b.i then 3
  else if noIn ∧ !b.c.rooms then 2
  else if !b.c.rooms then 1
  else 0

/-- CRED of an output (R58): the credits there, 0xFF for none; a count that does not fit the byte gives its low 8 bits (log entry 119); what a sink
gives is left open (log entry 74). -/
def credByte (c : NCx) (o : BitVec 12) : List Byte :=
  if isNone o then leBytes 0xFF 1
  else match creditsAt c.s c.ce (chanId o) with
    | some n => leBytes (n % 256) 1
    | none => [Config.freeByte c.s.free]

/-- DOUT of an output (R58). -/
def doutByte (c : NCx) (o : BitVec 12) : List Byte :=
  let i := chanId o
  match (if 0x20 ≤ i ∧ i ≤ 0x3F then endpAt c.s (32 * c.ce + (i - 0x20)) else none) with
  | some e => leBytes e.dout 1
  | none => leBytes 0 1

/-- The 32 bytes of a report entry (R58). -/
def entryBytes (b : Blocked) : List Byte :=
  let c := b.c
  let wait := (b.ins.filter fun j => decide (chanId (inF c.w j) < 0x20) && (c.hd j).isNone).foldl
    (fun n j => n ||| 2 ^ chanId (inF c.w j)) 0
  leBytes (b.ce % 32768) 2 ++ leBytes (b.k + 16 * b.ent) 1 ++ leBytes (whyOf b) 1 ++ leBytes wait 4
    ++ ([0, 1, 2].flatMap fun j => leBytes (if c.has j then (c.q j).toks.length else 0xFF) 1)
    ++ credByte c c.w.out0 ++ credByte c c.w.out1
    ++ ([0, 1, 2].flatMap fun j => leBytes (if c.has j then (c.q j).debt else 0) 1)
    ++ ([c.w.inA, c.w.inB, c.w.inC, c.w.out0, c.w.out1].flatMap fun f => leBytes (chanId f) 1)
    ++ doutByte c c.w.out0 ++ doutByte c c.w.out1
    ++ List.replicate 9 0

/-- REGION of a report's header (R58). -/
def regionWord (r : Region) : Nat :=
  nth 0 r.dies 0 + 256 * r.org + 65536 * (r.w - 1) + 2 ^ 20 * (r.h - 1) + (if r.kind = 1 then 2 ^ 24 else 0)
    + (if r.kind = 2 then 2 ^ 25 + (r.dies.foldl (fun n d => n + 2 ^ d) 0) * 2 ^ 32 else 0)

/-- The bytes of a report; CYCLE of one with no entry is that of the region's first cove (log entry 120). -/
def reportBytes (s : State) (r : Region) (l : List Blocked) : List Byte :=
  let es := l.take 64
  let cv := match es with | b :: _ => cvOfCe b.ce | [] => nth 0 r.coves 0
  leBytes es.length 2 ++ leBytes (min l.length 65535) 2 ++ leBytes 0 4 ++ leBytes (cycleOf s cv) 8 ++ leBytes (regionWord r) 8
    ++ List.replicate 40 0 ++ es.flatMap entryBytes

/-- Write the report where its pointer allows, and raise the event (R57, R58). -/
def writeReport (s : State) (rid : Nat) (r : Residency) : State :=
  let s0 := { modRes s rid (fun q => { q with reported := true, dlWrote := false }) with free := s.free + 1 }
  let l := match r.active with | some ctx => blockedNodes s rid r.region ctx | none => []
  if r.ent.report = 0 ∨ !isDeep r.ent.report then raise s0 2 rid 0
  else match wrVa s0 (rtOf s rid false) (nth 0 r.region.dies 0) r.ent.report (reportBytes s r.region l) with
    | (s1, some _) => raise s1 2 rid 0
    | (s1, none) => raise (modRes s1 rid fun q => { q with dlWrote := true }) 2 rid r.ent.report

/-- DEADLOCK_DETECT (R57): 2^16 quiet clocks with work held, no open record; once in each stall. -/
def execDeadlockDetect (rid : Nat) (s : State) : Host.Outcome State Fault Refusal :=
  match Tab.find? s.res rid with
  | none => .next s
  | some r =>
    if (r.st == .placed) && !r.reported && holdsWork s r.region && !frozenRes s rid r
        && decide (r.actAt + 65536 ≤ dieClock s (nth 0 r.region.dies 0)) then .next (writeReport s rid r)
    else .next s

/-! ### The escape lane (R61, R62) -/

/-- The length of a die's ring (log entry 27): its 192 cove routers by number, then a port router toward each die, 192 + k toward die k. -/
def ringLen : Nat := 200

/-- The cove that a packet goes to: tokens and settle markers to their queue, credits and anti-tokens to the producer. -/
def destOf (s : State) (p : Packet) : Nat :=
  match p.cargo with
  | .tok _ | .settle => (match endpAt s p.ch with | some e => cvOfCe (e.dst / 32) | none => cvOfCe (p.ch / 32))
  | _ => cvOfCe (p.ch / 32)

/-- Whether a packet can advance from router `a` to router `b` (R61): between neighbours of a die's mesh, between a cove router of a die and a
die-to-die port router of it, and over the port to the far die. A router's number is 256 · die + its place on the ring. -/
def adjacent (a b : Nat) : Bool :=
  let d := a / 256
  let e := b / 256
  let m := a % 256
  let n := b % 256
  let near := fun i j : Nat => decide (i ≤ j + 1 ∧ j ≤ i + 1)
  let port := fun d k : Nat => decide (192 ≤ k ∧ k < 200 ∧ k ≠ 192 + d)
  if d = e then
    (decide (m < 192 ∧ n < 192) && ((decide (m / 16 = n / 16) && near m n) || (decide (m % 16 = n % 16) && near (m / 16) (n / 16))) && m != n)
      || (decide (m < 192) && port d n) || (port d m && decide (n < 192))
  else port d m && decide (m = 192 + e ∧ n = 192 + d ∧ e < 8)

/-- Whether packet `p` is the head of its input buffer: of those that came to its router from the same side and have not reached their destination, the
one that has stood longest, the oldest among equals; `l` are the packets in the order of their sending. -/
def bufHead (s : State) (l : List Packet) (p : Packet) : Bool :=
  let buf := l.filter fun q => decide (q.router = p.router ∧ q.via = p.via ∧ q.lane = none ∧ destOf s q ≠ q.router)
  (buf.find? fun q => buf.all fun x => decide (q.since ≤ x.since)) == some p

/-- Packet `i` at the head of its buffer advances one hop (R61); one on the escape lane goes with the lane. -/
def hopPkt (s : State) (i r : Nat) : State :=
  match s.wire[i]? with
  | some p =>
    if p.lane.isNone && adjacent p.router r && bufHead s s.wire p then
      { s with wire := setNth s.wire i { p with router := r, via := p.router, since := dieClock s (r / 256) } }
    else s
  | none => s

/-- The oldest blocked packet of a router, moved onto the escape lane there: the first sent of those at the head of an input buffer that have not
advanced for 256 clocks. A packet on a lane, or at the router it goes to, is not blocked. -/
def escapeOne (s : State) (die router : Nat) : List Packet → List Packet
  | [] => []
  | p :: t =>
    if p.router = 256 * die + router ∧ p.lane = none ∧ destOf s p ≠ p.router ∧ p.since + 256 ≤ dieClock s die ∧ bufHead s s.wire p then
      { p with lane := some (die, router), since := dieClock s die } :: t
    else p :: escapeOne s die router t

/-- ROUTER_BLOCKED_ESCAPE (R61): the blocked router that holds the lifeline token moves one packet onto the escape lane, whose buffer there holds
one. -/
def execRouterBlockedEscape (die router : Nat) (s : State) : Host.Outcome State Fault Refusal :=
  if Tab.get 0 s.power.lifeline die = router ∧ !(s.wire.any fun p => p.lane == some (die, router)) then
    .next { s with wire := escapeOne s die router s.wire }
  else .next s

end Sys2Proof.Machine
end

