-- ==== Sys2Proof/Machine/Commands.lean ====
section
/-!
DEFINITION. The stream commands as their targets perform them at the head of a scoreboard (R177 to R213), but for parking
(Machine/Parking.lean): the release (R179), the check that is made again (R181), parameter blocks and their errors (R182), and each
command's effect.
-/
namespace Sys2Proof.Machine

/-! ### A command at the head of its scoreboard -/

/-- A command at the head of a scoreboard. -/
structure CmdCx where
  sb : Nat
  c  : Cmd
  f  : CmdW

/-- The issuing cove, and the translation unit of its die. -/
def CmdCx.cv (q : CmdCx) : Nat := if q.sb = mailbox then 0 else cvOfSb q.sb
def CmdCx.unit (q : CmdCx) : Nat := dieOf q.cv

/-- The residency that owns unit `u` of a bank of `n` of the command's cove: above privilege U it need not be the issuer's (R180). -/
def CmdCx.owner (q : CmdCx) (s : State) (u n : Nat) : Nat := (ridOfUnit s q.cv u n).getD q.c.rid

/-- Remove the command at the head of a scoreboard. -/
def popCmd (s : State) (sb : Nat) : State := { s with sbs := Tab.put [] s.sbs sb ((sbCmds s sb).drop 1) }

/-- Drop the command of a residency that no longer runs, with what the checkpoint engine does for it (log entry 50). -/
def dropCmd (s : State) (q : CmdCx) : State :=
  let s0 := popCmd s q.sb
  let s1 := if cmdSop q.c.w = 0x1B then { s0 with ckptQ := s0.ckptQ.filter (· != q.sb) } else s0
  match s1.ckpt with
  | some k => if k.sb = q.sb ∧ k.rid = q.c.rid ∧ cmdSop q.c.w = 0x1B then { s1 with ckpt := none } else s1
  | none => s1

/-- Whether the check of a command would now fail (R181). -/
def failsNow (s : State) (q : CmdCx) : Bool := ((Chk.mk s q.cv q.c.rid q.c.prv q.c.host (fun _ => rdPA s) [] []).fails q.c.w).isSome

/-- Whether the residency of a command runs on, or has retired with the command queued; the host is no residency. -/
def cmdLives (s : State) (c : Cmd) : Bool := c.host || c.gone.isSome || alive s c.rid

/-- The commands whose performance reads or writes memory (R182): those with a parameter block, PARK, UNPARK, LOG.DRAIN and QUIESCE. -/
def deepCmd (sop : Nat) : Bool := has [0x01, 0x02, 0x03, 0x04, 0x06, 0x08, 0x11, 0x12, 0x13, 0x17, 0x18, 0x19, 0x1A, 0x1B] sop

/-- Whether the deep and peer requests of a command wait for the gate of its residency in this clock (R332). -/
def gated (s : State) (c : Cmd) : Bool := deepCmd (cmdSop c.w) && !c.host && c.gone.isNone && !gateLets s c.rid

/-- One turn of a command: it waits for its target's record and for the release of R179; a command whose check would now fail has no effect where
`again` says so (R181); else it is performed by `go`, which removes it once it is done, but not past a gate that holds its requests (R332). -/
def cmdStep (f : CmdW) (again : Bool) (go : CmdCx → State → State) (s : State) : Host.Outcome State Fault Refusal :=
  match s.focus with
  | .cmd sb =>
    match sbCmds s sb with
    | [] => .next s
    | c :: _ =>
      let q : CmdCx := ⟨sb, c, f⟩
      if (Tab.find? s.sbFz sb).isSome || c.rel.any (fun i => s.accs.any fun a => a.id == i) then .next s
      else if !cmdLives s c then .next (dropCmd s q)
      else if again && failsNow s q then .next (popCmd s sb)
      else let t := go q s; .next (if gated s c && asked s t c.rid then s else t)
  | _ => .next s

/-! ### Records of commands (R182, R342, R350) -/

/-- The residency of a command, also where it has retired. -/
def CmdCx.res (q : CmdCx) (s : State) : Option Residency := q.c.gone.orElse fun _ => Tab.find? s.res q.c.rid

/-- The events that a command's record raises: in the issuing context, and none for the host (R146, R387). -/
def CmdCx.asy (q : CmdCx) : List (Nat × Nat) := if q.c.host then [] else [(q.c.rid, q.c.x)]

/-- A command record (kind 7, cause 0x1F): a byte offset and a rejection code. A rejection names its node, or has LOC zero; a field's
record names the issuing cove. -/
def cmdRecord (s : State) (q : CmdCx) (code off loc unit : Nat) : State :=
  openRec s
    { Rec.zero with
      kind := 7, cause := 0x1F, rid := q.c.rid, loc := loc, unit := unit
      ctx := if q.c.host then 0xFF else q.c.x % 4
      aux := BitVec.ofNat 64 (off % 65536 + 65536 * code)
      cycle := cycleOf s (cvOfCe loc) } none q.asy

/-- An error in a field at offset `off`: the command has no effect and leaves its scoreboard. -/
def fieldError (s : State) (q : CmdCx) (off : Nat) : State := cmdRecord (popCmd s q.sb) q 0 off (16 * q.cv) 0xFF

/-- A rejected image (R182): the node's cell as the loader would load it, with its slot and entry. -/
def imageError (s : State) (q : CmdCx) (d : Dest) (b : Bad) : State :=
  match b.node with
  | some (loc, slot, e) => cmdRecord (popCmd s q.sb) q b.code b.off (d.ce loc % 32768) (slot + 16 * e)
  | none => cmdRecord (popCmd s q.sb) q b.code b.off 0 0xFF

/-- An access of a command fails: a translation fault freezes the target (R182, R350); a break of R13 to R18 is an error of the field
that holds the pointer. AUX of the record is SOP, so that it does not show the remote cause of a failure 0x44 (log entry 143). -/
def accessError (s : State) (q : CmdCx) (off acc : Nat) (va : Word) (e : XErr) : State :=
  if e.cause < 0x40 then fieldError s q off
  else
    openRec s
      { agentRec s 5 (.target q.sb) q.c.rid acc va e with
        ctx := if q.c.host then 0xFF else q.c.x % 4
        aux := BitVec.ofNat 64 (cmdSop q.c.w) } (some (.target q.sb)) []

/-- Bytes read for the device's own use: where poison covers them their values are left open (log entry 51). -/
def openBytes (s : State) (bs : List Byte) (psn : Bool) : State × List Byte :=
  if psn then ({ s with free := s.free + bs.length }, (span s.free bs.length).map Config.freeByte) else (s, bs)

/-- The command keeps the block it has read, and waits on at the head of its scoreboard. -/
def keepBlock (s : State) (q : CmdCx) (b : List Byte) : State :=
  if q.c.block.isSome then s else { s with sbs := Tab.insert s.sbs q.sb ({ q.c with block := some b } :: (sbCmds s q.sb).drop 1) }

/-- Read the parameter block, once, and go on with its 64 bytes (R182). -/
def withBlock (q : CmdCx) (s : State) (k : State → List Byte → State) : State :=
  match q.c.block with
  | some b => k s b
  | none =>
    match rdVa s (cmdRt s q.c) q.unit (fPtr q.f) 64 with
    | (s1, .err va e) => accessError s1 q 0 0 va e
    | (s1, .ok bs psn) => let r := openBytes s1 bs psn.isSome; k r.1 r.2

/-- The first offset whose condition holds, of a list in rising order. -/
def firstOff : List (Bool × Nat) → Option Nat
  | [] => none
  | (b, o) :: t => if b then some o else firstOff t

/-- Go on when no field is bad; else the error of the first. -/
def ifSound (q : CmdCx) (s : State) (l : List (Bool × Nat)) (k : State) : State :=
  match firstOff l with
  | some o => fieldError s q o
  | none => k

/-- A pointer field: its class, and its value. -/
def fldCls (b : List Byte) (o : Nat) : Nat := fld b o 8 / 2 ^ 62
def fldPtr (b : List Byte) (o : Nat) : Word := BitVec.ofNat 64 (fld b o 8)

/-- Whether bytes `o` to `o + n - 1` are not all zero. -/
def notZero (b : List Byte) (o n : Nat) : Bool := fld b o n != 0

/-- Whether a barrier number of a block is not to be had: above 63, or not owned by a residency at U (R180). -/
def badBar (s : State) (q : CmdCx) (cv b : Nat) : Bool :=
  b != 0xFF && (decide (63 < b) || (q.c.prv == .u && !ownsUnit s q.c.rid cv b 64))

/-- A barrier field: 0xFF is none. -/
def barField (b : Nat) : Option Nat := if b = 0xFF then none else some b

/-! ### BIND (R183 to R187) -/

/-- Bytes of a lane of format `f`, 1 where the code is none. -/
def laneSize (f : Nat) : Nat := if f ≤ 10 then fmtWidth f / 8 else 1

/-- LANES and FMT of a block. -/
def badLanes (f lanes : Nat) : Bool := decide (lanes = 0 ∨ 16 < lanes ∨ 16 < lanes * laneSize f)

/-- The checks of an affine block (R184). -/
def affFields (shore : Bool) (b : List Byte) : List (Bool × Nat) :=
  let f := fld b 8 1
  let nd := fld b 11 1
  let eotl := fld b 10 1
  let cls := fldCls b 0
  [((if shore then cls != 1 else (cls != 0 && cls != 2)) || fld b 0 8 % laneSize f != 0, 0), (decide (10 < f), 8),
    (badLanes f (fld b 9 1), 9), (eotl != 0xFF && decide (nd ≤ eotl ∨ 3 < eotl), 10), (decide (nd = 0 ∨ 4 < nd), 11), (notZero b 12 4, 12)]
  ++ ((span 0 4).map fun k => (fld b (16 + 4 * k) 4 == 0 || (decide (nd ≤ k) && fld b (16 + 4 * k) 4 != 1), 16 + 4 * k))
  ++ ((span 0 4).map fun k =>
      (sext 32 (fld b (32 + 4 * k) 4) % (laneSize f : Int) != 0 || (decide (nd ≤ k) && fld b (32 + 4 * k) 4 != 0), 32 + 4 * k))
  ++ [(notZero b 48 16, 48)]

/-- The checks of a job's block (R186, R187). -/
def jobFields (scat : Bool) (b : List Byte) : List (Bool × Nat) :=
  let f := fld b 36 1
  let ix := fld b 38 1
  let isz := if ix = 6 then 4 else if ix = 7 then 8 else 1
  [(fldCls b 0 != 0, 0), (fldCls b 8 != 0 || fld b 8 8 % isz != 0, 8),
    (fldCls b 16 != 0 || ((scat || fld b 28 4 == 0) && fld b 16 8 != 0), 16), (fld b 24 4 == 0, 24), (scat && fld b 28 4 != 0, 28),
    (decide (10 < f), 36), (badLanes f (fld b 37 1), 37), (ix != 6 && ix != 7, 38), (decide (1 < fld b 39 1), 39),
    (fldCls b 40 != 0 || fld b 40 8 % 64 != 0, 40), (notZero b 48 16, 48)]

/-- The binding of an affine block. -/
def affBind (shore read : Bool) (bar : Option Nat) (b : List Byte) : Bind where
  kind := if shore then 1 else 0
  read := read
  base := fldPtr b 0
  fmt := fld b 8 1
  lanes := fld b 9 1
  eotl := if fld b 10 1 = 0xFF then none else some (fld b 10 1)
  dims := (span 0 4).map fun k => fld b (16 + 4 * k) 4
  strs := (span 0 4).map fun k => sext 32 (fld b (32 + 4 * k) 4)
  bar := bar
  idx := [0, 0, 0, 0]
  fin := false
  rob := []
  job := none

/-- The binding of a job's port; a scatter takes COUNT tokens. -/
def jobBind (scat : Bool) (j : Nat) (b : List Byte) : Bind where
  kind := if scat then 3 else 2
  read := !scat
  base := fldPtr b 0
  fmt := fld b 36 1
  lanes := fld b 37 1
  eotl := none
  dims := [fld b 24 4]
  strs := [0]
  bar := none
  idx := [0]
  fin := false
  rob := []
  job := some j

/-- The job of a block (R186, R187). -/
def newJob (scat : Bool) (cv p rid eng : Nat) (b : List Byte) : Job where
  cv := cv
  port := p
  rid := rid
  eng := eng
  scat := scat
  base := fldPtr b 0
  idxptr := fldPtr b 8
  offptr := fldPtr b 16
  count := fld b 24 4
  nseg := if scat then 0 else fld b 28 4
  scale := fld b 32 4
  fmt := fld b 36 1
  lanes := fld b 37 1
  idx64 := fld b 38 1 == 7
  comm := !scat && fld b 39 1 == 1
  op := if scat then fld b 39 1 else 0
  cursor := fldPtr b 40
  pos := 0
  lim := if scat || fld b 28 4 == 0 then some (fld b 24 4) else none
  seg := 0
  deliv := 0
  bw := []
  record := none
  wordVa := none
  susp := false
  ended := false

/-- The active jobs of an engine. -/
def engineLoad (s : State) (e : Nat) : Nat := (s.jobs.filter fun j => decide (j.2.eng = e) && !j.2.ended).length

/-- Of engines `l`, the one with the fewest active jobs, the first among equals. -/
def leastLoaded (s : State) : List Nat → Nat
  | [] => 0
  | [e] => e
  | e :: t => let b := leastLoaded s t; if engineLoad s e ≤ engineLoad s b then e else b

/-- The stack of a job of residency `rid` (R186): that of the first byte of IDXPTR, by its device physical address under R14; stack 0 for host
memory. One that does not translate leaves the stack open (log entry 52). -/
def jobStack (s : State) (q : CmdCx) (rid : Nat) (va : Word) : State × Nat :=
  match resolve s (rtOf s rid false) q.unit va 1 true false with
  | (s1, .ok ((p, _) :: _)) => (s1, if p.sp = .hbm then p.adr / (48 * 2 ^ 30) % 16 else 0)
  | (s1, _) => ({ s1 with free := s1.free + 1 }, Config.freeVictim s1.free % 16)

/-- Put a binding into a port, its counters, its EOS marks and its arbitration credit at 0 (log entries 103 and 112); what the port still delivers of an
earlier binding does not count for this one (R173). -/
def putBind (s : State) (cv p : Nat) (b : Bind) : State :=
  let q := s.port cv p
  let s1 := s.setPort cv p
    { q with bind := some b, dlv := 0, rdy := none, lo := none, hi := none, eos := false, took := false, old := !q.buf.isEmpty }
  s1.setCove cv { s1.cove cv with parb := (s1.cove cv).parb.fresh p }

/-- Bind a port to the job of a block, on the engine of its stack that R186 chooses. -/
def bindJob (s : State) (q : CmdCx) (p : Nat) (scat : Bool) (b : List Byte) : State :=
  let st := jobStack s q (q.owner s p 16) (fldPtr b 8)
  let j := st.1.nextJob
  let e := leastLoaded st.1 (span (4 * st.2) 4)
  let s1 := { st.1 with nextJob := j + 1, jobs := Tab.insert st.1.jobs j (newJob scat q.cv p (q.owner s p 16) e b) }
  putBind (popCmd s1 q.sb) q.cv p (jobBind scat j b)

/-- A BIND at the head: its block is read; then it waits until the port is unbound and a node of the active context of the residency that owns it names
it (R180, R183), and the use that the context makes of the port and the node's format decide. `kind` 0 affine, 1 shore, 2 gather, 3 scatter. -/
def performBind (kind : Nat) (q : CmdCx) (s : State) : State :=
  let p := q.f.tgt.toNat - 0x40
  withBlock q s fun s1 b =>
    ifSound q s1 (if kind ≤ 1 then affFields (kind == 1) b else jobFields (kind == 3) b)
      (match (s1.port q.cv p).bind, portNode s1 (q.owner s1 p 16) q.cv p with
      | none, some (_, w, op) =>
        let read := op % 2 == 1
        let fmt := if kind ≤ 1 then fld b 8 1 else fld b 36 1
        let useOk := if kind ≤ 1 then op == 0x83 || op == 0x84 else if kind = 2 then op == 0x85 else op == 0x86
        let credit := q.f.flg.getLsbD 0
        if !useOk || (credit && read) then fieldError s1 q 0
        else if w.mode.toNat ≠ fmt then fieldError s1 q (if kind ≤ 1 then 8 else 36)
        else if kind ≤ 1 then
          putBind (popCmd s1 q.sb) q.cv p (affBind (kind == 1) read (if credit then some q.f.sub.toNat else none) b)
        else bindJob s1 q p (kind == 3) b
      | _, _ => keepBlock s1 q b)

/-- BIND.AFF (R184, R185). -/
def execBindAff (f : CmdW) (s : State) : Host.Outcome State Fault Refusal := cmdStep f false (performBind 0) s
/-- BIND.IND (R186). -/
def execBindInd (f : CmdW) (s : State) : Host.Outcome State Fault Refusal := cmdStep f false (performBind 2) s
/-- BIND.SCAT (R187). -/
def execBindScat (f : CmdW) (s : State) : Host.Outcome State Fault Refusal := cmdStep f false (performBind 3) s
/-- BIND.SHORE (R184, R185). -/
def execBindShore (f : CmdW) (s : State) : Host.Outcome State Fault Refusal := cmdStep f false (performBind 1) s

/-- UNBIND (R188): the port's unbinding is pending from now on, with ABORT or without; UNBIND_TAKES_EFFECT ends it. The command leaves its
scoreboard at once and no longer counts in what SQRY shows of it, the model's choice (log entry 135). -/
def execUnbind (f : CmdW) (s : State) : Host.Outcome State Fault Refusal :=
  cmdStep f false (fun q t =>
    let p := q.f.tgt.toNat - 0x40
    let u := t.port q.cv p
    if u.bind.isSome ∧ u.unb.isNone then (popCmd t q.sb).setPort q.cv p { u with unb := some (q.f.flg.getLsbD 0) }
    else if u.bind.isSome then t
    else popCmd t q.sb) s

/-! ### Copy templates (R189, R191) -/

/-- The checks of a copy template. -/
def copyFields (s : State) (q : CmdCx) (b : List Byte) : List (Bool × Nat) :=
  [(fldCls b 0 == 3, 0), (fldCls b 8 == 3, 8), (fld b 16 4 == 0, 16), (badBar s q q.cv (fld b 28 1), 28), (decide (3 < fld b 29 1), 29),
    (notZero b 30 2, 30), (notZero b 40 24, 40)]

/-- The template of a block. -/
def copyTmpl (q : CmdCx) (b : List Byte) : Tmpl where
  src := fldPtr b 0
  dst := fldPtr b 8
  bytes := fld b 16 4
  sstep := sext 32 (fld b 20 4)
  dstep := sext 32 (fld b 24 4)
  bar := barField (fld b 28 1)
  trapm := bitOf (fld b 29 1) 0
  trig := bitOf (fld b 29 1) 1
  layout := fldPtr b 32
  ctx := q.c.x
  rid := q.c.rid

/-- ARM.COPY (R189). -/
def execArmCopy (f : CmdW) (s : State) : Host.Outcome State Fault Refusal :=
  cmdStep f false (fun q t =>
    withBlock q t fun t1 b =>
      ifSound q t1 (copyFields t1 q b)
        (let n := q.f.tgt.toNat - 0x50
        let t2 := (popCmd t1 q.sb).setCq q.cv n { CopyQ.empty with toks := (t1.cq q.cv n).toks, tmpl := some (copyTmpl q b) }
        t2.setCove q.cv { t2.cove q.cv with qarb := (t2.cove q.cv).qarb.fresh n })) s

/-- DISARM.COPY (R191, R307): once every firing started is performed and credited, the queue is unarmed, its count of tokens as it stands (R173), and
its entry deposited. -/
def execDisarmCopy (f : CmdW) (s : State) : Host.Outcome State Fault Refusal :=
  cmdStep f false (fun q t =>
    let n := q.f.tgt.toNat - 0x50
    let c := t.cq q.cv n
    if c.cur.isSome || !(accsOf t (.copy q.cv n)).isEmpty then t.setCq q.cv n { c with disarm := true }
    else
      let t1 := (popCmd t q.sb).setCq q.cv n { CopyQ.empty with toks := c.toks, dlv := c.dlv }
      match c.lo, c.hi with
      | some lo, some hi => deposit t1 q.unit q.c.rid lo hi
      | _, _ => t1) s

/-! ### Configuration (R192 to R198) -/

/-- The checks of CFG.LOAD's block (R192). -/
def loadFields (s : State) (q : CmdCx) (b : List Byte) : List (Bool × Nat) :=
  [(fldCls b 0 != 0 || fld b 0 8 % 64 != 0, 0),
    (fldCls b 8 != 0 || fld b 8 8 % 16 != 0 || (fld b 16 4 == 0 && fld b 8 8 != 0), 8), (notZero b 21 1, 21),
    (decide (4096 ≤ fld b 22 2), 22), (decide (1 < fld b 26 1), 26), (badBar s q q.cv (fld b 27 1), 27), (notZero b 28 36, 28)]

/-- Read and check the copies of an image for the destinations `l`, in order: the first copy that is rejected is the one reported (log entry
121). -/
def loadCopies (rt : Rt) (u : Nat) (w : Option Nat → Dest) (b : List Byte) : List (Option Nat) → State → List (Option Nat × Loaded) →
    State × Except (Dest × LoadRes) (List (Option Nat × Loaded))
  | [], s, acc => (s, .ok acc)
  | d :: t, s, acc =>
    match loadImage s rt u (w d) (fldPtr b 0) (fldPtr b 8) (fld b 16 4) with
    | (s1, .ok l) => loadCopies rt u w b t s1 (acc ++ [(d, l)])
    | (s1, x) => (s1, .error (w d, x))

/-- The predicate bits of the CTXSEL nodes that slot `k` holds in some cells (R77). -/
def keptBits (s : State) (k : Nat) (ces : List Nat) : List Nat :=
  ces.flatMap fun ce => (Tab.get CellImg.empty (s.cell ce).imgs k).nodes.filterMap fun e =>
    if nodeOpc e = 0x6F then some (bitsOf (nodeFields e).imm.toNat 0 2) else none

/-- Load a slot of the selected coves from the checked copies, with the preloads of their cells. -/
def putCopies (s : State) (r : Region) (k : Nat) (sel : List Nat) (l : List (Option Nat × Loaded)) : State :=
  l.foldl (fun t e =>
    let cvs := match e.1 with | some cv => sel.filter (· == cv) | none => sel
    putBanks (putCells t k (cvs.flatMap r.cellsIn) e.2.cells) (e.2.pre.filter fun p => has cvs (cvOfCe (p.1 / 65536)))) s

/-- CFG.LOAD (R192 to R194): nothing changes unless every copy passes. -/
def execCfgLoad (f : CmdW) (s : State) : Host.Outcome State Fault Refusal :=
  cmdStep f true (fun q t =>
    withBlock q t fun t1 b =>
      ifSound q t1 (loadFields t1 q b)
        (match Tab.find? t1.res q.c.rid with
        | none => popCmd t1 q.sb
        | some d =>
          let r := d.region
          let sel := r.coves.filter (maskSelects (fld b 20 1) (fld b 22 2) (fld b 24 2))
          let repl := fld b 26 1 == 1
          let ds := if repl then (if sel.isEmpty then (r.coves.take 1).map some else sel.map some) else [none]
          let kept := keptBits t1 q.f.tgt.toNat ((r.coves.filter fun cv => !has sel cv).flatMap r.cellsIn)
          match loadCopies (cmdRt t1 q.c) q.unit (fun d => ⟨r, d, sel, kept, true⟩) b ds t1 [] with
          | (t2, .error (w, .bad x)) => imageError t2 q w x
          | (t2, .error (_, .fault va e)) => accessError (keepBlock t2 q b) q 0 0 va e
          | (t2, .error (_, .ok _)) => t2
          | (t2, .ok l) =>
            let t3 := popCmd (putCopies t2 r q.f.tgt.toNat sel l) q.sb
            match barField (fld b 27 1) with
            | some k => creditBar t3 q.cv k sel.length
            | none => t3)) s

/-- CFG.SWAP (R195): the slot is the region's pending swap, also where the residency's own load of it has been rejected since the check: no other
agent takes an image from a slot (R181), and a slot with none faults when it is activated (R78). -/
def execCfgSwap (f : CmdW) (s : State) : Host.Outcome State Fault Refusal :=
  cmdStep f false (fun q t => modRes (popCmd t q.sb) q.c.rid fun r => { r with pend := some q.f.tgt.toNat }) s

/-- CFG.PRED (R196): the entries under the mask are written. -/
def execCfgPred (f : CmdW) (s : State) : Host.Outcome State Fault Refusal :=
  cmdStep f false (fun q t => modRes (popCmd t q.sb) q.c.rid fun r =>
    { r with nct := (span 0 16).foldl (fun n v =>
        if bitOf (fPar q.f 48 16) v then Tab.put 4 n v (BitVec.ofNat 3 (fPar q.f (3 * v) 3)) else n) r.nct }) s

/-- DRAIN (R197). -/
def execDrain (f : CmdW) (s : State) : Host.Outcome State Fault Refusal :=
  cmdStep f false (fun q t => startDrain (popCmd t q.sb) q.c.rid) s

/-- PHASE (R198): the cove arrives; the release of its context is complete here. -/
def execPhase (f : CmdW) (s : State) : Host.Outcome State Fault Refusal :=
  cmdStep f false (fun q t =>
    let l := q.f.tgt.toNat
    let t1 := popCmd t q.sb
    let a := Arrival.mk true l q.c.rid q.cv q.c.x ((barField q.f.sub.toNat).map fun b => (b, fPar q.f 0 32)) []
    tryPhase { t1 with arrs := t1.arrs ++ [a] } q.c.rid l q.cv) s

/-! ### Tasks (R199, R200) -/

/-- The records that a task queue holds, those held for their counter included (R315). -/
def queueLen (s : State) (q : Nat) : Nat :=
  (Tab.get [] s.tasks.queues q).length + (s.tasks.held.filter fun e => decide (e.1 = q)).length

/-- Whether a queue is enabled, and its priority and root (R386). -/
def qEnabled (s : State) (q : Nat) : Bool := bitOf (Tab.get 0 s.host.qdesc q).toNat 3
def qPrio (s : State) (q : Nat) : Nat := bitsOf (Tab.get 0 s.host.qdesc q).toNat 0 3
def qRoot (s : State) (q : Nat) : Nat := bitsOf (Tab.get 0 s.host.qdesc q).toNat 14 38 * 2 ^ 14

/-- The head of a queue has changed: the next record, if any, is the head from now on (R317). -/
def newHead (s : State) (q : Nat) : State :=
  let k := s.tasks
  let some_ := !(Tab.get [] k.queues q).isEmpty
  { s with tasks := { k with
      headAt := if some_ then Tab.insert k.headAt q s.clock else Tab.erase k.headAt q
      candAt := if some_ && qEnabled s q then Tab.insert k.candAt q s.clock else Tab.erase k.candAt q
      aged := Tab.erase k.aged q
      blocking := k.blocking.filter (· != q) } }

/-- A record enters the tail of its queue. -/
def enqueueTail (s : State) (q : Nat) (r : TaskRec) : State :=
  let l := Tab.get [] s.tasks.queues q
  let s1 := { s with tasks := { s.tasks with queues := Tab.insert s.tasks.queues q (l ++ [r]) } }
  if l.isEmpty then newHead s1 q else s1

/-- Enqueue a record (R199, R316): one that waits for a counter which is not 0 is held aside. -/
def enqueue (s : State) (q : Nat) (r : TaskRec) : State :=
  if r.bits.getLsbD 32 ∧ Tab.get 0 s.tasks.dep (bitsOf r.bits.toNat 20 12) ≠ 0 then
    { s with tasks := { s.tasks with held := s.tasks.held ++ [(q, r)] } }
  else enqueueTail s q r

/-- The task record of TASK.LAUNCH (R199). -/
def launchBits (f : CmdW) : BitVec 128 :=
  BitVec.ofNat 128 (fPar f 80 16 * 2 ^ 112 + fPar f 32 48 * 2 ^ 64 + bitsOf f.sub.toNat 0 3 * 2 ^ 37 + (f.flg.getLsbD 0).toNat * 2 ^ 32
    + fPar f 0 32)

/-- TASK.LAUNCH (R199, R311, R335): a full queue holds the command. -/
def execTaskLaunch (f : CmdW) (s : State) : Host.Outcome State Fault Refusal :=
  cmdStep f false (fun q t =>
    let k := q.f.tgt.toNat
    match q.res t with
    | none => popCmd t q.sb
    | some r => if 1024 ≤ queueLen t k then t else enqueue (popCmd t q.sb) k ⟨launchBits q.f, r.lch, some (qRoot t k)⟩) s

/-- A dependence counter after a change of TASK.DEP. -/
def depNew (sub v old : Nat) : Nat := if sub = 0 then v else old - v

/-- TASK.DEP (R200). -/
def execTaskDep (f : CmdW) (s : State) : Host.Outcome State Fault Refusal :=
  cmdStep f false (fun q t =>
    let k := fPar q.f 0 12
    let t1 := popCmd t q.sb
    { t1 with tasks := { t1.tasks with
        dep := Tab.put 0 t1.tasks.dep k (BitVec.ofNat 32 (depNew q.f.sub.toNat (fPar q.f 32 32) (Tab.get 0 t1.tasks.dep k).toNat)) } }) s

/-! ### Coupling, permits, matrix slots, sampling (R201 to R204) -/

/-- COUPLE (R201, R328): the parameters wait for the end of the channel's period. -/
def execCouple (f : CmdW) (s : State) : Host.Outcome State Fault Refusal :=
  cmdStep f true (fun q t => modRes (popCmd t q.sb) q.c.rid fun r =>
    { r with coups := r.coups.map fun k =>
        if coupEp r.region q.f.param.toNat = some k.ep then { k with nxt := some (coupPar q.f.param.toNat) } else k }) s

/-- PERMIT.ADJ (R202). -/
def execPermitAdj (f : CmdW) (s : State) : Host.Outcome State Fault Refusal :=
  cmdStep f true (fun q t => modRes (popCmd t q.sb) q.c.rid fun r => { r with permits := fPar q.f 0 16 }) s

/-- Whether the cove holds the half that an entry names: of a cove that one residency holds whole, only half 0. -/
def holdsHalf (s : State) (cv half : Nat) : Bool :=
  match ridOfCell s (16 * cv + 8 * half) with
  | some rid => (match Tab.find? s.res rid with | some r => r.region.kind == 1 || half == 0 | none => false)
  | none => false

/-- The checks of a matrix slot table. -/
def mslotFields (s : State) (cv : Nat) (b : List Byte) : List (Bool × Nat) :=
  (span 0 16).map fun n =>
    let e := fld b (4 * n) 4
    (decide (2 ^ 20 ≤ e) || (bitOf e 19 && (decide (bitsOf e 0 16 < 255) || !holdsHalf s cv (bitsOf e 18 1))), 4 * n)

/-- The valid entries of a matrix slot table. -/
def mslotTab (b : List Byte) : Tab MEnt :=
  (span 0 16).filterMap fun n =>
    let e := fld b (4 * n) 4
    if bitOf e 19 then some (n, ⟨bitsOf e 16 2, bitOf e 18, bitsOf e 0 16⟩) else none

/-- MSLOT (R203): the table takes effect at the end of the current turn, at once when there is none. -/
def execMslot (f : CmdW) (s : State) : Host.Outcome State Fault Refusal :=
  cmdStep f false (fun q t =>
    withBlock q t fun t1 b =>
      ifSound q t1 (mslotFields t1 q.cv b)
        (let t2 := popCmd t1 q.sb
        let c := { t2.cove q.cv with mnew := some (mslotTab b) }
        t2.setCove q.cv (if (mxEntry c).isNone then c.nextTurn (cycleOf t2 q.cv) else c))) s

/-- The checks of SAMPLE.CFG's block. -/
def sampFields (b : List Byte) : List (Bool × Nat) :=
  let topp := fld b 20 4
  let temp := fld b 24 4
  [(decide (fld b 16 2 = 0 ∨ 256 < fld b 16 2), 16), (notZero b 18 2, 18), (decide (topp = 0 ∨ 0x3F800000 < topp), 20),
    (decide (temp = 0 ∨ 0x7F800000 ≤ temp), 24), (notZero b 33 31, 33)]

/-- The sampling parameters of a block. -/
def sampOf (b : List Byte) : Samp where
  key0 := BitVec.ofNat 32 (fld b 0 4)
  key1 := BitVec.ofNat 32 (fld b 4 4)
  ctr := fldPtr b 8
  k := fld b 16 2
  topp := BitVec.ofNat 32 (fld b 20 4)
  temp := BitVec.ofNat 32 (fld b 24 4)
  shard := BitVec.ofNat 32 (fld b 28 4)
  heads := BitVec.ofNat 8 (fld b 32 1)

/-- SAMPLE.CFG (R204). -/
def execSampleCfg (f : CmdW) (s : State) : Host.Outcome State Fault Refusal :=
  cmdStep f false (fun q t =>
    withBlock q t fun t1 b =>
      ifSound q t1 (sampFields b)
        (let t2 := popCmd t1 q.sb
        t2.setCove q.cv { t2.cove q.cv with samp := sampOf b })) s

/-! ### Unmasking (R205, R206) -/

/-- Whether an FP32 code is a NaN. -/
def nan32 (v : Nat) : Bool := decide (0x7F800000 < v % 2 ^ 31)

/-- The checks of UMX.OPEN's block (R205, R375). -/
def umxFields (s : State) (q : CmdCx) (b : List Byte) : List (Bool × Nat) :=
  let ptr := fun o : Nat => (fldCls b o != 0 || fld b o 8 % 64 != 0, o)
  let bar := fld b 44 1
  let own := ownsUnit s q.c.rid (256 * q.unit + fld b 46 2) bar 64
  [ptr 0, ptr 8, ptr 16, (decide (fld b 24 4 = 0 ∨ 8192 < fld b 24 4), 24), (nan32 (fld b 28 4), 28), (decide (256 < fld b 32 2), 32),
    (decide (fld b 36 2 < fld b 34 2), 36), (decide (63 < fld b 38 1), 38), (decide (fld b 40 1 = 0 ∨ 16 < fld b 40 1), 40),
    (notZero b 41 3, 41), (bar != 0xFF && (decide (63 < bar) || (decide (fld b 46 2 < 192) && !own)), 44), (notZero b 45 1, 45),
    (decide (191 < fld b 46 2), 46), (notZero b 48 16, 48)]

/-- The round of a block. -/
def roundOf (rid root : Nat) (b : List Byte) : Round where
  isOpen := true
  maskp := fldPtr b 0
  dirtyp := fldPtr b 8
  stalep := fldPtr b 16
  npos := fld b 24 4
  tau := BitVec.ofNat 32 (fld b 28 4)
  share := fld b 32 2
  cmin := fld b 34 2
  cmax := fld b 36 2
  radius := fld b 38 1
  stale := fld b 39 1
  lgroups := fld b 40 1
  bar := barField (fld b 44 1)
  barcove := fld b 46 2
  root := root
  rid := rid
  closedAt := none

/-- Replace round `k` of engine `e`. -/
def State.setRound (s : State) (e k : Nat) (r : Round) : State :=
  let u := s.umxAt e
  { s with umx := Tab.insert s.umx e { u with rounds := Tab.insert u.rounds k r } }

/-- UMX.OPEN (R205). -/
def execUmxOpen (f : CmdW) (s : State) : Host.Outcome State Fault Refusal :=
  cmdStep f true (fun q t =>
    withBlock q t fun t1 b =>
      ifSound q t1 (umxFields t1 q b)
        ((popCmd t1 q.sb).setRound (64 * q.unit + q.f.tgt.toNat) q.f.sub.toNat (roundOf q.c.rid (cmdRt t1 q.c).root b))) s

/-- The step at the head of an engine has been dropped (R379): its walk goes, and its record is closed (log entry 115). -/
def dropHead (s : State) (e : Nat) (frozen : Option Nat) : State :=
  let s1 := { s with walks := s.walks.filter fun w => decide (w.ag ≠ .umx e) }
  closeOpen s1 frozen (.umx e)

/-- UMX.CLOSE (R206): the round closes once no full step of it is left; a step not yet full is dropped. -/
def execUmxClose (f : CmdW) (s : State) : Host.Outcome State Fault Refusal :=
  cmdStep f true (fun q t =>
    let e := 64 * q.unit + q.f.tgt.toNat
    let k := q.f.sub.toNat
    let u := t.umxAt e
    if u.steps.any fun st => decide (st.round = k) && st.full then t
    else
      let t1 := (popCmd t q.sb).setRound e k { t.round e k with isOpen := false, closedAt := some t.turns }
      let v := t1.umxAt e
      let t2 := { t1 with umx := Tab.insert t1.umx e { v with steps := v.steps.filter fun st => decide (st.round ≠ k) } }
      match v.steps with
      | st :: _ => if st.round = k then dropHead t2 e v.frozen else t2
      | [] => t2) s

/-! ### Service (R207, R208, R210, R211, R213) -/

/-- Whether a cached translation goes under XINV's scope. -/
def xinvHits (scope va root : Nat) (e : TEnt) : Bool :=
  if scope = 0 then decide (e.vpn = va / 2 ^ pageBits e.size) else if scope = 1 then decide (e.root = root) else true

/-- XINV (R207): performed once every walk begun earlier has finished. -/
def execXinv (f : CmdW) (s : State) : Host.Outcome State Fault Refusal :=
  cmdStep f false (fun q t =>
    if !t.walks.isEmpty then t
    else
      let hit := xinvHits (fPar q.f 52 4) (fPar q.f 0 52) (cmdRt t q.c).root
      let t1 := popCmd { t with tlb := t.tlb.map fun e => (e.1, e.2.filter fun x => !hit x) } q.sb
      match barField (fPar q.f 56 8) with
      | some b => creditBar t1 q.cv b 1
      | none => t1) s

/-- FRESUME (R208); while the record's residency is about to be parked it waits, and is held then (R358, R361). -/
def execFresume (f : CmdW) (s : State) : Host.Outcome State Fault Refusal :=
  cmdStep f true (fun q t =>
    if recParking t (fPar q.f 0 12) then t else resume (popCmd t q.sb) (fPar q.f 0 12) (q.f.sub == 1) q.c.host) s

/-- The 16 bytes of a log entry (R210). -/
def logBytes (e : LogE) : List Byte := leBytes e.lo.toNat 8 ++ leBytes e.hi.toNat 8

/-- The entry that an overflow mark moves first (R308). -/
def ovfEntry (rid : Nat) : LogE := ⟨rid, 0, BitVec.allOnes 64⟩

/-- Remove the `n` oldest entries of a residency from a log. -/
def dropLog (rid : Nat) : Nat → List LogE → List LogE
  | 0, l => l
  | _, [] => []
  | n + 1, e :: t => if e.rid = rid then dropLog rid n t else e :: dropLog rid (n + 1) t

/-- The overflow mark of a command's residency is cleared; where that has retired, in what its queued commands keep of it (R308). -/
def clearOvf (s : State) (q : CmdCx) : State :=
  match q.c.gone with
  | none => modRes s q.c.rid fun r => { r with logOvf := false }
  | some _ => { s with sbs := s.sbs.map fun e => (e.1, e.2.map fun c =>
      if c.rid = q.c.rid ∧ !c.host then { c with gone := c.gone.map fun r => { r with logOvf := false } } else c) }

/-- LOG.DRAIN (R210, R308): the overflow entry first, then the stored ones, oldest first; the terminator where there were fewer. -/
def execLogDrain (f : CmdW) (s : State) : Host.Outcome State Fault Refusal :=
  cmdStep f false (fun q t =>
    let n := fPar q.f 64 16
    let rid := q.c.rid
    let ovf := match q.res t with | some r => r.logOvf | none => false
    let mine := (Tab.get [] t.logs q.unit).filter fun e => decide (e.rid = rid)
    let l := ((if ovf then [ovfEntry rid] else []) ++ mine).take n
    let bs := l.flatMap logBytes ++ (if l.length < n then List.replicate 16 0xFF else [])
    match wrVa t (cmdRt t q.c) q.unit (fPtr q.f) bs with
    | (t1, some (va, e)) => accessError t1 q 0 1 va e
    | (t1, none) =>
      let t2 := popCmd (if ovf then clearOvf t1 q else t1) q.sb
      let t3 := { t2 with logs := Tab.put [] t2.logs q.unit (dropLog rid (l.length - ovf.toNat) (Tab.get [] t2.logs q.unit)) }
      match barField q.f.sub.toNat with
      | some b => creditBar t3 q.cv b bs.length
      | none => t3) s

/-- QUIESCE (R211): one test, its result written and credited. -/
def execQuiesce (f : CmdW) (s : State) : Host.Outcome State Fault Refusal :=
  cmdStep f false (fun q t =>
    let r := quiesceTest t q.c.rid
    let dl := match Tab.find? t.res q.c.rid with | some d => d.reported && d.dlWrote | none => false
    match wrVa r.1 (cmdRt t q.c) q.unit (fPtr q.f) (leBytes (r.2.toNat + 2 * dl.toNat) 8) with
    | (t1, some (va, e)) => accessError t1 q 0 1 va e
    | (t1, none) =>
      match barField q.f.sub.toNat with
      | some b => creditBar (popCmd t1 q.sb) q.cv b 8
      | none => popCmd t1 q.sb) s

/-- The granted-window word of SHORE.WIN (R213, R314). -/
def winWord (f : CmdW) : BitVec 32 :=
  BitVec.ofNat 32 (fPar f 32 4 + 16 * fPar f 36 4 + 2 ^ 8 * fPar f 40 4 + 2 ^ 12 * fPar f 44 4 + 2 ^ 16 * fPar f 48 3 + 2 ^ 20 * fPar f 52 1
    + 2 ^ 21 * fPar f 53 1)

/-- SHORE.WIN (R213): window TGT of the named residency, placed or parked; of none, nothing happens (log entry 53). -/
def execShoreWin (f : CmdW) (s : State) : Host.Outcome State Fault Refusal :=
  cmdStep f false (fun q t =>
    let rid := fPar q.f 0 13
    let set := fun r : Residency => { r with wins := Tab.insert r.wins q.f.tgt.toNat (winWord q.f) }
    let t1 := popCmd t q.sb
    { modRes t1 rid set with parked := Tab.modify t1.parked rid fun p => { p with res := set p.res } }) s

/-! ### Checkpoint (R212, R400 to R402) -/

/-- The checks of CKPT's block. -/
def ckptFields (b : List Byte) : List (Bool × Nat) :=
  [(fldCls b 0 != 0, 0), (fldCls b 8 != 0 || (fld b 20 1 == 0 && fld b 8 8 != 0), 8), (decide (1 < fld b 20 1), 20), (notZero b 21 3, 21),
    (fldCls b 24 != 0 || fld b 24 8 % 8 != 0, 24), (notZero b 32 32, 32)]

/-- Read the entries of a list, up to `n` of them or to the terminator (R210, R400). -/
def ckList (q : CmdCx) : Nat → Word → State → List (Nat × Nat) → State × Except (Word × XErr) (List (Nat × Nat))
  | 0, _, s, acc => (s, .ok acc)
  | n + 1, a, s, acc =>
    match rdVa s (cmdRt s q.c) q.unit a 16 with
    | (s1, .err va e) => (s1, .error (va, e))
    | (s1, .ok bs psn) =>
      let r := openBytes s1 bs psn.isSome
      let lo := fld r.2 0 8
      let hi := fld r.2 8 8
      if lo = 2 ^ 64 - 1 ∧ hi = 2 ^ 64 - 1 then (r.1, .ok acc) else ckList q n (a + 16) r.1 (acc ++ [(lo, hi)])

/-- What MODE 1 writes for a deep entry: a copy of it, its bytes, zeros up to a multiple of 16 (R400). -/
def ckSegs (lo hi : Nat) : List CkSeg :=
  let n := hi + 1 - lo
  [.lit (leBytes lo 8 ++ leBytes hi 8), .deep lo n, .lit (List.replicate ((16 - n % 16) % 16) 0)]

/-- MODE 0: all of device memory. -/
def ckFull : List CkSeg := [.phys 0 (768 * 2 ^ 30)]

/-- The engine's work for a list of entries: an overflow entry turns the command into MODE 0. -/
def ckWork (l : List (Nat × Nat)) : List CkSeg × Nat × Nat :=
  if l.any fun e => e == (0, 2 ^ 64 - 1) then (ckFull, 2, 0)
  else
    let deep := l.filter fun e => decide (e.1 / 2 ^ 62 = 0)
    (deep.flatMap fun e => ckSegs e.1 e.2, 1, l.length - deep.length)

/-- The engine takes a command (R400). -/
def ckStart (q : CmdCx) (s : State) (b : List Byte) (w : List CkSeg × Nat × Nat) : State :=
  { s with ckpt := some ⟨q.sb, q.c.rid, fldPtr b 0, w.1, fldPtr b 24, w.2.1, w.2.2⟩, ckptQ := s.ckptQ.filter (· != q.sb) }

/-- Begin a checkpoint: the block, then in MODE 1 the list. A command that leaves its scoreboard here leaves the engine's queue too. -/
def ckptBegin (q : CmdCx) (s : State) : State :=
  let r := withBlock q s fun s1 b =>
    ifSound q s1 (ckptFields b)
      (if fld b 20 1 = 0 then ckStart q s1 b (ckFull, 1, 0)
      else match ckList q (fld b 16 4) (fldPtr b 8) s1 [] with
        | (s2, .error (va, e)) => accessError (keepBlock s2 q b) q 8 0 va e
        | (s2, .ok l) => ckStart q s2 b (ckWork l))
  if (sbCmds r q.sb).length < (sbCmds s q.sb).length then { r with ckptQ := r.ckptQ.filter (· != q.sb) } else r

/-- Write one piece of the safe tier: DEST must map host memory for writing (R400), and a poisoned source leaves its mark (R363). -/
def ckPut (q : CmdCx) (s : State) (k : Ckpt) (bs : List Byte) (psn : Bool) (rest : List CkSeg) : State :=
  match xlPieces (cmdRt s q.c) q.unit (pieces (bs.length / 64 + 2) k.dest.toNat bs.length) s [] with
  | (s1, .error (va, e)) => if e.cause < 0x40 then { fieldError s1 q 0 with ckpt := none } else accessError s1 q 0 1 va e
  | (s1, .ok segs) =>
    if segs.any fun e => decide (e.1.sp ≠ .host) then { fieldError s1 q 0 with ckpt := none }
    else
      let l := (segPAs segs).zip bs
      let s2 := writeBytes (meterSegs s1 q.c.rid segs) l
      let s3 := if psn then l.foldl (fun t e => psnMark t e.1) s2 else s2
      { s3 with ckpt := some { k with dest := k.dest + BitVec.ofNat 64 bs.length, todo := rest } }

/-- One step of the engine: an aligned word at most (R402). -/
def ckptStep (q : CmdCx) (k : Ckpt) (s : State) : State :=
  match k.todo with
  | [] => s
  | .lit bs :: t => ckPut q s k bs false t
  | .deep va n :: t =>
    let m := min n (8 - va % 8)
    if n = 0 then { s with ckpt := some { k with todo := t } }
    else match rdVa s (cmdRt s q.c) q.unit (BitVec.ofNat 64 va) m with
      | (s1, .err a e) => if e.cause < 0x40 then { fieldError s1 q 8 with ckpt := none } else accessError s1 q 8 0 a e
      | (s1, .ok bs psn) => ckPut q s1 k bs psn.isSome (.deep (va + m) (n - m) :: t)
  | .phys pa n :: t =>
    if n = 0 then { s with ckpt := some { k with todo := t } }
    else ckPut q (meterSegs s q.c.rid [(⟨.hbm, pa⟩, 8)]) k (Memory.rdN s.hbm pa 8) (has s.poison.hbm (pa / 64)) (.phys (pa + 8) (n - 8) :: t)

/-- CKPT (R212, R400): one at a time, in the order in which they reach the engine; the command stays at the head of its scoreboard until
DONE is written (CHECKPOINT_DONE). -/
def execCkpt (f : CmdW) (s : State) : Host.Outcome State Fault Refusal :=
  cmdStep f false (fun q t =>
    match t.ckpt with
    | some k =>
      if k.sb = q.sb ∧ k.rid = q.c.rid then ckptStep q k t
      else if has t.ckptQ q.sb then t
      else { t with ckptQ := t.ckptQ ++ [q.sb] }
    | none =>
      match t.ckptQ with
      | sb :: _ => if sb = q.sb then ckptBegin q t else if has t.ckptQ q.sb then t else { t with ckptQ := t.ckptQ ++ [q.sb] }
      | [] => let t1 := { t with ckptQ := [q.sb] }; if gated t q.c then t1 else ckptBegin q t1) s

/-- CHECKPOINT_DONE (R401): every byte is performed; DONE is written and the host told. -/
def execCheckpointDone (s : State) : Host.Outcome State Fault Refusal :=
  match s.ckpt with
  | none => .next s
  | some k =>
    match k.todo, sbCmds s k.sb with
    | [], c :: _ =>
      let q : CmdCx := ⟨k.sb, c, cmdFields c.w⟩
      if c.rid ≠ k.rid ∨ (Tab.find? s.sbFz k.sb).isSome then .next s
      else
        let v := k.ending + k.skipped % 2 ^ 32 * 2 ^ 32
        (match wrVa s (cmdRt s c) q.unit k.doneVa (leBytes v 8) with
        | (s1, some (va, e)) => .next (if e.cause < 0x40 then { fieldError s1 q 24 with ckpt := none } else accessError s1 q 24 1 va e)
        | (s1, none) => .next (raise { popCmd s1 k.sb with ckpt := none } 4 0 (BitVec.ofNat 64 v)))
    | _, _ => .next s

end Sys2Proof.Machine
end

