-- ==== Sys2Proof/Machine/Tasks.lean ====
section
/-!
DEFINITION. Tasks: launch ports (R310, R385), the dispatch decision with ageing and blocking (R315 to R318), placement and start (R319 to
R322), the watchdog (R323, R357), retirement (R301, R324), and the arrival messages of peer groups (R312).
-/
namespace Sys2Proof.Machine

/-! ### Task-type entries (R313, R314, R318) -/

/-- The entry of 128 bytes. -/
def entOf (b : List Byte) : TypeEnt where
  image := fldPtr b 0
  entry := fldPtr b 8
  report := fldPtr b 16
  cycles := fld b 24 6
  permits := fld b 30 2
  w := fld b 32 1
  h := fld b 33 1
  kind := fld b 34 1
  ndies := fld b 35 1
  coves := fld b 36 2
  ncells := fld b 38 2
  nslots := fld b 40 4
  shore := fld b 44 4
  nctx := fld b 48 1
  valid := bitOf (fld b 49 1) 0
  dec := bitOf (fld b 49 1) 1
  donectr := fld b 50 2 % 4096
  ndelta := fld b 52 4
  delta := fldPtr b 56
  wins := (span 0 8).map fun k => BitVec.ofNat 32 (fld b (64 + 4 * k) 4)
  handler := fldPtr b 96
  priv := fld b 104 1
  form := fld b 105 23 == 0 && fld b 49 1 / 4 == 0 && fld b 50 2 / 4096 == 0

/-- The entry of type `idx`, as the device reads it from HBM; what poison covers of it is left open (log entry 51). -/
def readEnt (s : State) (idx : Nat) : State × TypeEnt :=
  let r := rdSegs s [(⟨.hbm, typeAddr s idx⟩, 128)]
  let o := openBytes r.1 r.2.1 r.2.2
  (o.1, entOf o.2)

/-- A pointer that R13 admits as a deep address. -/
def deepPtr (a : Word) : Bool := decide (a.toNat < 2 ^ 52)

/-- Whether a granted-window word is within its limits (R314). -/
def winOk (w : BitVec 32) : Bool :=
  let n := w.toNat
  bitsOf n 22 10 == 0 && !bitOf n 19
    && (!bitOf n 21 || decide (bitsOf n 0 4 + bitsOf n 8 4 ≤ 15 ∧ bitsOf n 4 4 + bitsOf n 12 4 ≤ 11))

/-- Whether W, H, NDIES and COVES suit KIND. -/
def TypeEnt.shapeOk (e : TypeEnt) : Bool :=
  if e.kind = 0 then decide (1 ≤ e.w ∧ e.w ≤ 16 ∧ 1 ≤ e.h ∧ e.h ≤ 12 ∧ e.ndies = 0 ∧ e.coves = e.w * e.h)
  else if e.kind = 1 then decide (e.w = 1 ∧ e.h = 1 ∧ e.ndies = 0 ∧ e.coves = 1)
  else decide (e.kind = 2 ∧ e.w = 1 ∧ e.h = 1 ∧ 1 ≤ e.ndies ∧ e.ndies ≤ 8 ∧ e.coves = 192 * e.ndies)

/-- The code with which the entry of a record has it refused (R318), for a pool of so many permits. -/
def entryCode (pool : Nat) (e : TypeEnt) : Option Nat :=
  if !e.valid then some 0x0119
  else if !e.shapeOk || !e.form || decide (e.nctx = 0 ∨ 4 < e.nctx) || e.cycles == 0 || e.permits == 0 || decide (1 < e.priv)
      || !(e.wins.all winOk) || !deepPtr e.handler || e.handler.toNat % 16 != 0 then some 0x011A
  else if pool - 2500 < e.permits then some 0x011B
  else none

/-! ### Refusals (R310, R318) -/

/-- The record of a refusal: its code in AUX, and in VA the launch record's address, the upper half of the task record (log entry 54) or
the save area. -/
def launchRec (s : State) (rid code : Nat) (va : Word) : Rec :=
  { Rec.zero with kind := 16, rid := rid, va := va, aux := BitVec.ofNat 64 code, cycle := dieClock s 0 }

/-- Refuse: one informational record. -/
def refuse (s : State) (code : Nat) (va : Word) : State := openRec s (launchRec s 0 code va) none []

/-- Remove the head of a queue. -/
def popTask (s : State) (q : Nat) : State :=
  newHead { s with tasks := { s.tasks with queues := Tab.put [] s.tasks.queues q ((Tab.get [] s.tasks.queues q).drop 1) } } q

/-! ### Launch records (R310, R385) -/

/-- Whether a launch record keeps the table of R310. -/
def launchOk (b : List Byte) : Bool :=
  let lv := fld b 2 1
  let mask := fld b 3 1
  let ext := fun k : Nat => fld b (32 + 2 * k) 2
  let gid := fld b 10 2
  let gs := fld b 12 2
  decide (fld b 0 2 < 4096 ∧ lv < 8) && bitOf mask lv
    && decide (fld b 4 2 ≤ ext (3 * lv) ∧ fld b 6 2 ≤ ext (3 * lv + 1) ∧ fld b 8 2 ≤ ext (3 * lv + 2))
    && (if gid = 0 then gs == 0 else decide (1 ≤ gs ∧ gs ≤ 1024))
    && fld b 14 2 == 0 && decide (fld b 16 8 < 2 ^ 52) && fld b 16 8 % 16 == 0 && decide (fld b 24 4 < 2 ^ 20)
    && fld b 28 4 == 0 && fld b 80 48 == 0
    && (span 0 8).all fun l => bitOf mask l || fld b (32 + 6 * l) 6 == 0

/-- The launch of a record's first task and the task record (R199 with WAITDEP 0). -/
def launchOf (b : List Byte) : TaskRec where
  bits := BitVec.ofNat 128 (fld b 0 2 * 2 ^ 112 + fld b 4 2 * 2 ^ 96 + fld b 6 2 * 2 ^ 80 + fld b 8 2 * 2 ^ 64 + fld b 2 1 * 2 ^ 37
    + fld b 24 4)
  lch := ⟨BitVec.ofNat 8 (fld b 3 1), (span 0 24).map fun k => fld b (32 + 2 * k) 2 + 1, fld b 10 2, fld b 12 2, fldPtr b 16⟩
  root := none

/-- What a launch port does with an address (R385): the record read through the root of the queue, checked and enqueued. A refusal reports the
address as R15 gives. -/
def launchAt (s : State) (q : Nat) (a : Word) : State :=
  let rt : Rt := ⟨0, none, [], qRoot s q, false⟩
  if !deepPtr a || a.toNat % 64 != 0 then refuse s 0x011D (shownPtr rt a)
  else match resolve s rt 0 a 128 true false with
    | (s1, .error _) => refuse s1 0x011D a
    | (s1, .ok segs) =>
      if segs.any (fun e => decide (e.1.sp ≠ .hbm)) then refuse s1 0x011D a
      else
        let r := rdSegs s1 segs
        let o := openBytes r.1 r.2.1 r.2.2
        if !launchOk o.2 || decide (1024 ≤ queueLen o.1 q) then refuse o.1 0x011D a else enqueue o.1 q (launchOf o.2)

/-- Take the port writes that wait, in arrival order, each 8 clocks after the one before it (R385). -/
def servePorts : List (Nat × Word) → State → State
  | [], s => { s with tasks := { s.tasks with portq := [] } }
  | (q, a) :: l, s =>
    let due := match s.tasks.lastPort with | some t => t + 8 | none => s.clock
    if s.clock < due then { s with tasks := { s.tasks with portq := (q, a) :: l } }
    else servePorts l (launchAt { s with tasks := { s.tasks with lastPort := some due } } q a)

/-- A write to launch port `q`: the device takes one at most in 8 clocks, and a later one waits (R385). -/
def launchPort (s : State) (q : Nat) (a : Word) : State :=
  let waits := !s.tasks.portq.isEmpty || (match s.tasks.lastPort with | some t => decide (s.clock < t + 8) | none => false)
  if 256 ≤ q then s
  else if waits then { s with tasks := { s.tasks with portq := s.tasks.portq ++ [(q, a)] } }
  else launchAt { s with tasks := { s.tasks with lastPort := some s.clock } } q a

/-- LAUNCH (R310, R385): a write to launch port `q`. -/
def execLaunch (q : Nat) (a : BitVec 64) (s : State) : Host.Outcome State Fault Refusal := .next (launchPort s q a)

/-! ### Ageing and blocking (R317) -/

/-- The candidates: the enabled queues that hold a record. -/
def taskCands (s : State) : List Nat := (s.tasks.queues.filter fun e => !e.2.isEmpty && qEnabled s e.1).map (·.1)

/-- The clocks that the head of a queue has been its head, in steps of 2^16. -/
def ageSteps (s : State) (q : Nat) : Nat := (s.clock - Tab.get s.clock s.tasks.headAt q) / 65536

/-- The effective priority of a queue's head. -/
def effPrio (s : State) (q : Nat) : Nat := qPrio s q - Tab.get 0 s.tasks.aged q

/-- PRIORITY_AGING (R317): a head that has waited for its next 2^16 clocks ages by a step. -/
def execPriorityAging (q : Nat) (s : State) : Host.Outcome State Fault Refusal :=
  let a := Tab.get 0 s.tasks.aged q
  if (Tab.get [] s.tasks.queues q).isEmpty ∨ ageSteps s q ≤ a then .next s
  else .next { s with tasks := { s.tasks with aged := Tab.insert s.tasks.aged q (a + 1) } }

/-- Whether a candidate has been one for 2^20 clocks. -/
def candOld (s : State) (q : Nat) : Bool :=
  match Tab.find? s.tasks.candAt q with
  | some t => decide (t + 2 ^ 20 ≤ s.clock)
  | none => false

/-- CANDIDATE_BLOCKING (R317): a candidate not dispatched for 2^20 clocks becomes blocking. -/
def execCandidateBlocking (q : Nat) (s : State) : Host.Outcome State Fault Refusal :=
  if has (taskCands s) q && candOld s q then
    .next { s with tasks := { s.tasks with blocking := insNat s.tasks.blocking q } }
  else .next s

/-- Bring ageing and blocking up to the clock of a decision. -/
def ageAll (s : State) : State :=
  let c := taskCands s
  { s with tasks := { s.tasks with
    aged := (s.tasks.queues.filter fun e => !e.2.isEmpty).map fun e => (e.1, ageSteps s e.1)
    blocking := c.filter (candOld s) } }

/-- Release the held records whose counter reads 0, in the order of their enqueueing (R200, R316). -/
def releaseHeld : List (Nat × TaskRec) → State → State
  | [], s => s
  | (q, r) :: t, s =>
    if Tab.get 0 s.tasks.dep (bitsOf r.bits.toNat 20 12) = 0 then
      releaseHeld t (enqueueTail { s with tasks := { s.tasks with held := s.tasks.held.erase (q, r) } } q r)
    else releaseHeld t s

/-! ### Placement (R319, R320) -/

/-- The residency that holds the half `k` of a cove. -/
def holderOf (s : State) (cv k : Nat) : Option Residency :=
  (s.res.find? fun e => e.2.region.hasCell (16 * cv + 8 * k)).map (·.2)

/-- Whether no residency holds any cell of a cove. -/
def coveFree (s : State) (cv : Nat) : Bool := (holderOf s cv 0).isNone && (holderOf s cv 1).isNone

/-- The contexts of a cove that are not taken, lowest first. -/
def freeCtxs (s : State) (cv : Nat) : List Nat := (span 0 4).filter fun k => (Tab.find? (s.cove cv).ctxs k).isNone

/-- Whether half `k` of a cove takes a half-cove task of `n` contexts. -/
def halfFree (s : State) (cv k n : Nat) : Bool :=
  (holderOf s cv k).isNone
    && (match holderOf s cv (1 - k) with | some r => r.region.kind == 1 | none => true)
    && decide (n ≤ (freeCtxs s cv).length)

/-- The region that Place finds for an entry, first-fit in die order. The largest placement of its level (R21) is no bound that it checks: no refusal
code names it (log entry 106). -/
def place (s : State) (e : TypeEnt) : Option Region :=
  if e.kind = 0 then
    ((span 0 8).flatMap fun d => (span 0 192).map fun o => Region.mk 0 [d] o e.w e.h 0).find? fun r =>
      decide (r.org % 16 + r.w ≤ 16 ∧ r.org / 16 + r.h ≤ 12) && r.coves.all (coveFree s)
  else if e.kind = 1 then
    (allCoves.flatMap fun cv => (span 0 2).map fun k => (cv, k)).findSome? fun p =>
      if halfFree s p.1 p.2 e.nctx then some (Region.mk 1 [dieOf p.1] (coveNo p.1) 1 1 p.2) else none
  else
    let l := (span 0 8).filter fun d => (span 0 192).all fun c => coveFree s (256 * d + c)
    if e.ndies ≤ l.length then some (Region.mk 2 (l.take e.ndies) 0 1 1 0) else none

/-! ### Start (R129, R321, R322) -/

/-- A residency identifier that no placed or parked task holds: the search begins at a place left open (log entry 55). -/
def freeRid (s : State) : Option Nat :=
  let a := Config.freeVictim s.free % 8192
  ((span a (8192 - a)) ++ span 0 a).find? fun i => (Tab.find? s.res i).isNone && (Tab.find? s.parked i).isNone

/-- The residency of a record placed on a region. -/
def newRes (s : State) (q : Nat) (t : TaskRec) (e : TypeEnt) (r : Region) (root : Nat) : Residency where
  st := .placed
  region := r
  tidx := bitsOf t.bits.toNat 112 12
  ent := e
  trec := t.bits
  lch := t.lch
  root := root
  queue := q
  permits := e.permits
  wins := (e.wins.zipIdx).map fun w => (w.2, w.1)
  active := none
  pend := none
  nct := []
  drainOn := false
  drainSrc := []
  actAt := dieClock s (nth 0 r.dies 0)
  placedAt := dieClock s (nth 0 r.dies 0)
  wdFired := false
  parking := false
  logOvf := false
  since := s.turns
  reported := false
  dlWrote := false
  coups := []
  det := []
  act := ⟨0, 0, 0, 0, 0, 0, 0⟩
  winStart := dieClock s (nth 0 r.dies 0)
  gate := 64

/-- A declared context at its start (R129). -/
def startCtx (s : State) (rid : Nat) (e : TypeEnt) : Ctx :=
  { Ctx.idle with
    st := .run
    rid := rid
    xvec := e.handler
    xvecm := s.boot.xvecm
    prv := if e.priv = 1 then .s else .u
    next := e.entry }

/-- Start the declared contexts of a cove: the lowest-numbered free ones. -/
def startCove (s : State) (rid : Nat) (e : TypeEnt) (cv : Nat) : State :=
  ((freeCtxs s cv).take e.nctx).foldl (fun t k => t.setCtx (4 * cv + k) (startCtx t rid e)) s

/-- Whether the header of an image demands more than its type, or another shape (R318). -/
def demandBad (h : List Byte) (e : TypeEnt) : Bool :=
  decide (e.ncells < fld h 6 2) || fld h 8 1 != e.w || fld h 9 1 != e.h || fld h 10 1 != e.kind || fld h 11 1 != e.ndies

/-- Read and check the image of a task (R192, R193, R318): what it loads, or the lowest refusal code. An image that cannot be read, or a delta field
out of form, has the form code; a header of another shape has that of the demand alone (log entry 48). -/
def taskImage (s : State) (rt : Rt) (u : Nat) (r : Region) (e : TypeEnt) : State × Except Nat Loaded :=
  let badDelta := decide ((e.ndelta = 0 ∧ e.delta ≠ 0) ∨ (e.ndelta ≠ 0 ∧ e.delta.toNat % 16 ≠ 0))
  if e.image.toNat % 64 ≠ 0 then (s, .error 0x0113)
  else match rdVa s rt u e.image 64 with
    | (s1, .err _ _) => (s1, .error 0x0113)
    | (s1, .ok h psn) =>
      let dem := psn.isNone && demandBad h e
      match loadImage s1 rt u ⟨r, none, r.coves, [], !dem⟩ e.image e.delta (if badDelta then 0 else e.ndelta) with
      | (s2, .ok l) => (s2, if badDelta then .error 0x0113 else if dem || decide (e.nslots < l.slots) then .error 0x011C else .ok l)
      | (s2, .bad b) => (s2, .error (min b.code (if badDelta then 0x0113 else if dem then 0x011C else b.code)))
      | (s2, .fault _ _) => (s2, .error 0x0113)

/-- Clear the fences of a region's cells: a new placement has their slices (R355). -/
def clearFences (s : State) (r : Region) : State := { s with fences := s.fences.filter fun e => !r.hasCell e.1 }

/-- Place a record on a region (R322): the image in slot 0 of every cove, the windows, the declared contexts, context 0 active.
The task begins with the read buffers of its coves empty, as after an acquire (R301, log entry 76). -/
def dispatchOn (s : State) (q : Nat) (t : TaskRec) (e : TypeEnt) (r : Region) : State :=
  match freeRid s with
  | none => s
  | some rid =>
    let root := t.root.getD (qRoot s q)
    let s1 := { s with free := s.free + 1 }
    match taskImage s1 ⟨rid, some r, [], root, false⟩ (nth 0 r.dies 0) r e with
    | (s2, .error code) => refuse s2 code (t.bits.extractLsb' 64 64)
    | (s2, .ok l) =>
      let s3 := clearFences { s2 with res := Tab.insert s2.res rid (newRes s2 q t e r root) } r
      let s4 := putBanks (putCells s3 0 r.cells l.cells) l.pre
      activate (r.coves.foldl (fun u cv => acquire (startCove u rid e cv) cv) s4) rid 0

/-! ### The decision (R317, R318) -/

/-- Try the head of one queue: whether the decision ends with it. -/
def tryHead (s : State) (q : Nat) : State × Bool :=
  match Tab.get [] s.tasks.queues q with
  | [] => (s, false)
  | t :: _ =>
    let x := readEnt s (bitsOf t.bits.toNat 112 12)
    match entryCode x.1.host.pool x.2 with
    | some c => (refuse (popTask x.1 q) c (t.bits.extractLsb' 64 64), false)
    | none =>
      if freePermits x.1 < x.2.permits then (x.1, false)
      else match place x.1 x.2 with
        | none => (x.1, false)
        | some r =>
          let s1 := popTask x.1 q
          let s2 := { s1 with tasks := { s1.tasks with rr := Tab.insert s1.tasks.rr (effPrio s q) q } }
          (dispatchOn s2 q t x.2 r, true)

/-- Try queues in order until one is dispatched. -/
def tryHeads : List Nat → State → State
  | [], s => s
  | q :: t, s =>
    match tryHead s q with
    | (s1, true) => s1
    | (s1, false) => tryHeads t s1

/-- The queues of priority `v` in round-robin order after the last one dispatched at it, or, when blocking, oldest first. -/
def atPrio (s : State) (l : List Nat) (blk : Bool) (v : Nat) : List Nat :=
  let m := l.filter fun q => effPrio s q == v
  if blk then sortBy (fun a b : Nat => decide (Tab.get 0 s.tasks.candAt a < Tab.get 0 s.tasks.candAt b)) m
  else
    let last := Tab.get 255 s.tasks.rr v
    (m.filter fun q => decide (last < q)) ++ m.filter fun q => decide (q ≤ last)

/-- The order in which a decision tries the queues. -/
def decisionOrder (s : State) : List Nat :=
  let blk := !s.tasks.blocking.isEmpty
  let l := if blk then s.tasks.blocking else taskCands s
  (span 0 8).flatMap (atPrio s l blk)

/-- DISPATCH_DECISION (R317): once in 8 clocks, while the device is ready. -/
def execDispatchDecision (s : State) : Host.Outcome State Fault Refusal :=
  let due := match s.tasks.lastDec with | some t => decide (t + 8 ≤ s.clock) | none => true
  if s.host.boot ≠ 5 ∨ due = false then .next s
  else
    let s1 := ageAll (releaseHeld s.tasks.held { s with tasks := { s.tasks with lastDec := some s.clock } })
    .next (tryHeads (decisionOrder s1) s1)

/-! ### Watchdog (R323, R357) -/

/-- The clocks of a task since its placement. -/
def taskClocks (s : State) (r : Residency) : Nat := dieClock s (nth 0 r.region.dies 0) - r.placedAt

/-- WATCHDOG_EXPIRY: at CYCLES clocks, one record for the placement; the task goes on. -/
def execWatchdogExpiry (rid : Nat) (s : State) : Host.Outcome State Fault Refusal :=
  match Tab.find? s.res rid with
  | none => .next s
  | some r =>
    if r.wdFired ∨ taskClocks s r < r.ent.cycles then .next s
    else
      let cv := nth 0 r.region.coves 0
      .next (openRec (modRes s rid fun q => { q with wdFired := true })
        { Rec.zero with
          kind := 12, cause := 0x4A, rid := rid, loc := 16 * cv, aux := BitVec.ofNat 64 r.ent.cycles, cycle := cycleOf s cv } none [])

/-! ### The end of a residency -/

/-- A cell that its residency leaves: only its flag sets stay (R96). -/
def leaveCell (s : State) (ce : Nat) : State := s.setCell ce { Cell.empty with flags := (s.cell ce).flags }

/-- A cove that a residency leaves: its contexts, ports, copy queues, FIFOs and planes go; the barriers stay. -/
def leaveCove (s : State) (rid : Nat) (r : Region) (cv : Nat) : State :=
  let c := s.cove cv
  s.setCove cv { c with
    ctxs := c.ctxs.filter fun e => decide (e.2.rid ≠ rid)
    ports := c.ports.filter fun e => !r.ownsUnit cv e.1 16
    cqs := c.cqs.filter fun e => !r.ownsUnit cv e.1 64
    tq := c.tq.filter fun e => !r.ownsUnit cv e.1 8
    fq := c.fq.filter fun e => !r.ownsUnit cv e.1 8
    fqEos := c.fqEos.filter fun f => !r.ownsUnit cv f 8
    fqIn := c.fqIn.filter fun e => !r.ownsUnit cv e.1 8
    planes := c.planes.filter fun e => r.kind == 1 && e.1 != r.half
    mreq := c.mreq.filter fun p => r.kind == 1 && p != r.half }

/-- A cove that has become wholly free has no valid matrix slot (R334). -/
def clearSlots (s : State) (cv : Nat) : State :=
  if coveFree s cv then s.setCove cv { s.cove cv with mslot := [], mnew := none, mpos := 0 } else s

/-- The coves of a residency become free; it is in neither table after it. -/
def vacate (s : State) (rid : Nat) (r : Region) : State :=
  let s1 := { s with
    res := Tab.erase s.res rid
    wire := s.wire.filter fun p => !r.hasCell (p.ch / 32)
    arrs := s.arrs.filter fun a => decide (a.rid ≠ rid) }
  let s2 := r.cells.foldl leaveCell s1
  r.coves.foldl (fun t cv => clearSlots (leaveCove t rid r cv) cv) s2

/-- The name of a faulted residency once identifier `rid` has been given back: raised by 16,384 where it was that one. -/
def oldName (rid f : Nat) : Nat := if f % 16384 = rid then f + 16384 else f

/-- An identifier is free again: nothing that was told to it is remembered, and a fence that it leaves keeps its name apart from whoever takes
the identifier next (R355, R356). -/
def freeName (s : State) (rid : Nat) : State :=
  { s with
    told := (s.told.filter fun e => decide (e.1 ≠ rid)).map fun e => (e.1, oldName rid e.2)
    fences := s.fences.map fun e => (e.1, oldName rid e.2) }

/-- The commands that a retired residency leaves: those of ports, copy queues and configuration go; the others are performed with what it
was (R177, R324). -/
def leaveCmd (rid : Nat) (r : Residency) (sb : Nat) (c : Cmd) : Option Cmd :=
  if c.host ∨ c.rid ≠ rid ∨ c.gone.isSome then some c
  else if sb % 128 ≤ 80 then none
  else some { c with gone := some r }

/-- Close the records that targets of port, copy-queue and configuration commands of the residency are frozen on. -/
def closeTargets (s : State) (rid : Nat) : State :=
  (s.sbFz.filter fun e => decide (e.1 % 128 ≤ 80) && (match sbCmds s e.1 with | c :: _ => c.rid == rid && !c.host | [] => false)).foldl
    (fun t e => closeOpen t (some e.2) (.target e.1)) s

/-- The scoreboards after a retirement. -/
def leaveCmds (s : State) (rid : Nat) (r : Residency) : State :=
  let s1 := closeTargets s rid
  { s1 with sbs := (s1.sbs.map fun e => (e.1, e.2.filterMap (leaveCmd rid r e.1))).filter fun e => !e.2.isEmpty }

/-! ### Retirement (R301, R324) -/

/-- Whether a task may retire: its contexts are HALTED and its region has no active context. -/
def mayRetire (s : State) (rid : Nat) (r : Residency) : Bool :=
  (r.st == .placed) && !r.parking && r.active.isNone
    && (ctxsOf s rid).all fun x => (match (s.ctx x).st with | .halted => true | _ => false)

/-- The bound ports of a region. -/
def boundPorts (s : State) (r : Region) : List (Nat × Nat) :=
  r.coves.flatMap fun cv => ((span 0 16).filter fun p => r.ownsUnit cv p 16 && (s.port cv p).bind.isSome).map fun p => (cv, p)

/-- The unbinding with ABORT of ports still bound. -/
def abortPorts (s : State) (l : List (Nat × Nat)) : State :=
  l.foldl (fun t e => t.setPort e.1 e.2 { t.port e.1 e.2 with unb := some true }) s

/-- Clear the armed copy queues of a region, with no strandline entry. -/
def clearCopies (s : State) (r : Region) : State :=
  (r.coves.flatMap fun cv => ((span 0 64).filter fun q => r.ownsUnit cv q 64 && (s.cq cv q).tmpl.isSome).map fun q => (cv, q)).foldl
    (fun t e =>
      let u := closeOpen t (t.cq e.1 e.2).frozen (.copy e.1 e.2)
      u.setCq e.1 e.2 { CopyQ.empty with toks := (u.cq e.1 e.2).toks }) s

/-- Whether something of the task is still to be performed: an access, or an unmasking step of its nodes. -/
def workLeft (s : State) (rid : Nat) : Bool :=
  (s.accs.any fun a => a.rid == rid) || s.umx.any fun e => e.2.steps.any fun st => st.rid == rid

/-- The completion counter and the dependence counter (R301 step 2, R324). -/
def complete (s : State) (r : Residency) : State :=
  { s with
    host := { s.host with compl := s.host.compl + 1 }
    tasks := if r.ent.dec then
        { s.tasks with dep := Tab.put 0 s.tasks.dep r.ent.donectr (BitVec.ofNat 32 ((Tab.get 0 s.tasks.dep r.ent.donectr).toNat - 1)) }
      else s.tasks }

/-- The last turn of a retirement: the counters, the event, and everything free; a barrier that waited for this participant alone completes (R312). -/
def endTask (s : State) (rid : Nat) (r : Residency) : State :=
  let s1 := complete s r
  tryBars (freeName (vacate (leaveCmds (raise s1 1 r.queue s1.host.compl) rid r) rid r.region) rid)

/-- TASK_RETIRE (R301, R324): bound ports are unbound with ABORT, copy queues cleared, every access of the task performed; then the counters
change, the event is sent and the residency ends. -/
def execTaskRetire (rid : Nat) (s : State) : Host.Outcome State Fault Refusal :=
  match Tab.find? s.res rid with
  | none => .next s
  | some r =>
    if !mayRetire s rid r then .next s
    else match boundPorts s r.region with
      | [] =>
        let s1 := clearCopies s r.region
        .next (if workLeft s1 rid then s1 else endTask s1 rid r)
      | l => .next (abortPorts s l)

/-! ### Peer groups (R312) -/

/-- PEER_ARRIVAL_MESSAGE (R312): the arrival of another device of a group at a level barrier or a phase barrier of level 6 or 7. -/
def execPeerArrivalMessage (phase : Bool) (level group dev : Nat) (s : State) : Host.Outcome State Fault Refusal :=
  if level < 6 ∨ 7 < level ∨ group = 0 then .next s
  else .next (tryBars { s with grpMsgs := s.grpMsgs ++ [(phase, level, group, dev)] })

end Sys2Proof.Machine
end

