-- ==== Sys2Proof/Machine/Parking.lean ====
section
/-!
DEFINITION. Parking (R209, R358 to R361): PARK, which saves a residency and frees its coves, and UNPARK, which restores it onto the same
coves or discards it.
-/
namespace Sys2Proof.Machine

/-! ### The save area (R359) -/

/-- SAVE, the size of a save area. -/
def saveSize (r : Residency) : Nat :=
  let nc := r.region.coves.length
  let ncell := if r.region.kind = 1 then 8 else 16
  65536 + nc * (192 * 1024 + ncell * ((r.ent.shore + 4095) / 4096 * 4096))

/-- WHY a residency is parked: 3 it faulted fatally, 1 a record of it is open, 2 the watchdog. -/
def whyParked (s : State) (rid : Nat) (r : Residency) : Nat :=
  if r.st ≠ .placed then 3 else if frozenRes s rid r then 1 else 2

/-- The 64 bytes of a save area's header. -/
def saveHeader (s : State) (rid : Nat) (r : Residency) (why st : Nat) : List Byte :=
  leBytes 0x45564153 4 ++ leBytes rid 2 ++ leBytes r.tidx 2 ++ leBytes (saveSize r) 8 ++ leBytes st 1 ++ leBytes why 1 ++ leBytes 0 2
    ++ leBytes 0 4 ++ leBytes (cycleOf s (nth 0 r.region.coves 0)) 8 ++ List.replicate 32 0

/-- The resolved segments of `n` bytes of a save area: of a mailbox command device physical addresses (R387), of a context's deep ones. A
physical area beyond the memory is an error of its field (log entry 59). They count at the issuer's permit meter (R331). -/
def areaSegs (q : CmdCx) (s : State) (n : Nat) (needW : Bool) : State × Except (Word × XErr) (List (PA × Nat)) :=
  let a := fPtr q.f
  if q.c.host then
    if a.toNat + n ≤ 768 * 2 ^ 30 then (s, .ok [(⟨.hbm, a.toNat⟩, n)]) else (s, .error (a, ⟨0x21, 0⟩))
  else
    let r := if needW then xlPieces (cmdRt s q.c) q.unit (pieces (n / 64 + 2) a.toNat n) s []
      else match resolve s (cmdRt s q.c) q.unit a n true false with
        | (s1, .ok segs) => (s1, .ok segs)
        | (s1, .error e) => (s1, .error (a, e))
    match r with
    | (s1, .ok segs) => (meterSegs s1 q.c.rid segs, .ok segs)
    | x => x

/-! ### What is saved (R358) -/

/-- The shore offsets of the SHORE bytes of a residency's cells. -/
def bankOffs (r : Residency) : List Nat := r.region.cells.flatMap fun ce => span (65536 * ce) r.ent.shore

/-- The jobs of a residency. -/
def jobsOf (s : State) (rid : Nat) : Tab Job := s.jobs.filter fun e => e.2.rid == rid

/-- Whether a command is one of a residency's own. -/
def ownCmd (rid : Nat) (c : Cmd) : Bool := c.rid == rid && !c.host && c.gone.isNone

/-- Whether a scoreboard's frozen head is a command of a residency. -/
def frozenHead (s : State) (rid sb : Nat) : Bool := match sbCmds s sb with | c :: _ => ownCmd rid c | [] => false

/-- The clock of the die of a coupled channel's producer. -/
def coupClock (s : State) (k : Coup) : Nat := dieClock s (dieOf (cvOfNode k.prod))

/-- The clocks of a regulator's period that have passed, in place of its start; or, from them, its start again. -/
def Coup.turned (s : State) (k : Coup) : Coup := { k with start := coupClock s k - k.start }

/-- What PARK saves of a residency; its counts of clocks (R323, R326) as what has passed. -/
def savedOf (s : State) (rid : Nat) (r : Residency) (area : Word) (hdr : List PA) : Saved where
  res := { r with parking := false, placedAt := taskClocks s r, winStart := dieClock s (nth 0 r.region.dies 0) - r.winStart, coups := r.coups.map (Coup.turned s) }
  coves := r.region.coves.map fun cv => (cv, s.cove cv)
  cells := r.region.cells.map fun ce => (ce, s.cell ce)
  banks := (bankOffs r).foldl (fun m o => Memory.wr m o (Memory.rd s.shore o)) []
  psn := s.poison.shore.filter fun w => r.region.hasCell (w / 8192) && decide (8 * w % 65536 < r.ent.shore)
  accs := s.accs.filter fun a => a.rid == rid
  arrs := s.arrs.filter fun a => a.rid == rid
  jobs := jobsOf s rid
  sbs := (s.sbs.map fun e => (e.1, e.2.filter (ownCmd rid))).filter fun e => !e.2.isEmpty
  sbFz := s.sbFz.filter fun e => frozenHead s rid e.1
  area := area
  hdr := hdr
  why := whyParked s rid r
  held := []
  evts := []

/-- The scoreboards, accesses, jobs and walks without a residency's own; a checkpoint of it begins again when it is
restored (log entry 60). -/
def stripRes (s : State) (rid : Nat) : State :=
  { s with
    sbFz := s.sbFz.filter fun e => !frozenHead s rid e.1
    sbs := (s.sbs.map fun e => (e.1, e.2.filter fun c => !ownCmd rid c)).filter fun e => !e.2.isEmpty
    accs := s.accs.filter fun a => a.rid != rid
    jobs := s.jobs.filter fun e => e.2.rid != rid
    walks := s.walks.filter fun w => ridOfAgent s w.ag != some rid
    ckpt := match s.ckpt with | some k => if k.rid = rid ∧ frozenHead s rid k.sb then none else some k | none => none
    ckptQ := s.ckptQ.filter fun sb => !frozenHead s rid sb }

/-! ### PARK -/

/-- Whether nothing of the region is in flight (R358 step 2): packets, the token and reverse counters of R55, issued accesses, credits. -/
def parkQuiet (s : State) (rid : Nat) (r : Residency) : Bool :=
  !(s.wire.any fun p => r.region.hasCell (p.ch / 32))
    && detSum r (·.fs) == detSum r (·.fr) && detSum r (·.rs) == detSum r (·.rr)
    && !(s.accs.any fun a => a.rid == rid && a.issued)
    && !(s.credits.any fun c => r.region.ownsUnit c.cv c.bar 64)
    && !(r.st == .dying)

/-- Suspend the jobs of a residency to their cursors. -/
def suspendJobs (s : State) (rid : Nat) : State := (jobsOf s rid).foldl (fun t e => if e.2.ended then t else writeCursor t e.1 e.2 1) s

/-- The last turn of PARK, its area translated: everything saved and written, the coves free. -/
def parkInto (s : State) (q : CmdCx) (rid : Nat) (r : Residency) (segs : List (PA × Nat)) : State :=
  let pas := segPAs segs
  let n := pas.length
  let s1 := suspendJobs s rid
  let p := savedOf s1 rid r (fPtr q.f) (pas.take 64)
  let bs := saveHeader s1 rid r p.why 2 ++ (span s1.free (n - 64)).map Config.freeByte
  let s2 := writeBytes { s1 with free := s1.free + n } (pas.zip bs)
  let s3 := vacate (stripRes (popCmd s2 q.sb) rid) rid r.region
  { s3 with parked := Tab.insert s3.parked rid { p with sbs := p.sbs.map fun e => (e.1, if e.1 = q.sb ∧ ownCmd rid q.c then e.2.drop 1 else e.2) } }

/-- PARK (R209, R358): firing, issue, walks and jobs stop at once; when nothing is in flight the residency is saved. A save that faults
leaves the residency as it was, with a record of kind 5. -/
def execPark (f : CmdW) (s : State) : Host.Outcome State Fault Refusal :=
  cmdStep f (!parking s (fPar f 64 13)) (fun q t =>
    let rid := fPar q.f 64 13
    match Tab.find? t.res rid with
    | none => popCmd t q.sb
    | some r =>
      if !r.parking then modRes t rid fun d => { d with parking := true }
      else if !parkQuiet t rid r then t
      else match areaSegs q t (saveSize r) true with
        | (t1, .error (va, e)) => accessError (modRes t1 rid fun d => { d with parking := false }) q 0 1 va e
        | (t1, .ok segs) => parkInto t1 q rid r segs) s

/-! ### UNPARK (R360) -/

/-- The contexts of a saved cove that were the residency's. -/
def savedCtxs (rid : Nat) (c : Cove) : Tab Ctx := c.ctxs.filter fun e => e.2.rid == rid

/-- Whether cove `cv` can take a parked residency: it is free, or for a half-cove its half and its contexts are. -/
def coveTakes (s : State) (rid : Nat) (p : Saved) (cv : Nat) : Bool :=
  let r := p.res.region
  if r.kind = 1 then
    (holderOf s cv r.half).isNone
      && (match holderOf s cv (1 - r.half) with | some h => h.region.kind == 1 | none => true)
      && (savedCtxs rid (Tab.get Cove.empty p.coves cv)).all fun e => (Tab.find? (s.cove cv).ctxs e.1).isNone
  else coveFree s cv

/-- Whether the coves of a parked residency are free; what must stand frozen at the head of a scoreboard waits for one that is not
(log entry 61). -/
def canReturn (s : State) (rid : Nat) (p : Saved) : Bool :=
  p.res.region.coves.all (coveTakes s rid p)
    && p.sbs.all fun e => (Tab.find? s.sbFz e.1).isNone

/-- A table with the entries that `own` names taken from what was saved. -/
def mergeTab {V : Type} (own : Nat → Bool) (cur old : Tab V) : Tab V :=
  (old.filter fun e => own e.1).foldl (fun t e => Tab.insert t e.1 e.2) (cur.filter fun e => !own e.1)

/-- A cove with a residency's units as they were saved; matrix slots, flags and sampling parameters are the cove's own. -/
def mergeCove (rid : Nat) (r : Region) (cv : Nat) (cur old : Cove) : Cove :=
  { cur with
    bars := mergeTab (fun u => r.ownsUnit cv u 64) cur.bars old.bars
    tq := mergeTab (fun u => r.ownsUnit cv u 8) cur.tq old.tq
    fq := mergeTab (fun u => r.ownsUnit cv u 8) cur.fq old.fq
    fqEos := (cur.fqEos.filter fun u => !r.ownsUnit cv u 8) ++ old.fqEos.filter fun u => r.ownsUnit cv u 8
    fqIn := mergeTab (fun u => r.ownsUnit cv u 8) cur.fqIn old.fqIn
    ports := mergeTab (fun u => r.ownsUnit cv u 16) cur.ports old.ports
    cqs := mergeTab (fun u => r.ownsUnit cv u 64) cur.cqs old.cqs
    parb := { cur.parb with credit := mergeTab (fun u => r.ownsUnit cv u 16) cur.parb.credit old.parb.credit }
    qarb := { cur.qarb with credit := mergeTab (fun u => r.ownsUnit cv u 64) cur.qarb.credit old.qarb.credit }
    planes := mergeTab (fun u => r.kind != 1 || u == r.half) cur.planes old.planes
    mreq := cur.mreq ++ old.mreq.filter fun u => r.kind != 1 || u == r.half
    ctxs := (savedCtxs rid old).foldl (fun t e => Tab.insert t e.1 e.2) cur.ctxs }

/-- The SHORE bytes of the cells back in their banks, poisoned words marked again. -/
def restoreBanks (s : State) (p : Saved) : State :=
  let s1 := writeBytes s ((bankOffs p.res).map fun o => (⟨.shore, o⟩, Memory.rd p.banks o))
  { s1 with poison := { s1.poison with shore := p.psn.foldl insNat s1.poison.shore } }

/-- The residency as it goes on: its watchdog, its permit window and the periods of its regulators count from where they stood (R323, R326, R331). -/
def returned (s : State) (p : Saved) : Residency :=
  let now := dieClock s (nth 0 p.res.region.dies 0)
  { p.res with
    placedAt := now - p.res.placedAt, actAt := now, winStart := now - p.res.winStart, parking := false
    coups := p.res.coups.map (Coup.turned s) }

/-- Every saved state restored (R360 step 1). -/
def restore (s : State) (rid : Nat) (p : Saved) : State :=
  let r := p.res.region
  let s1 := r.coves.foldl (fun t cv => t.setCove cv (mergeCove rid r cv (t.cove cv) (Tab.get Cove.empty p.coves cv))) s
  let s2 := r.cells.foldl (fun t ce => t.setCell ce { Tab.get Cell.empty p.cells ce with flags := (t.cell ce).flags }) s1
  let s3 := clearFences (restoreBanks s2 p) r
  { s3 with
    parked := Tab.erase s3.parked rid
    res := Tab.insert s3.res rid (returned s3 p)
    accs := s3.accs ++ p.accs
    arrs := s3.arrs ++ p.arrs
    jobs := p.jobs.foldl (fun t e => Tab.insert t e.1 e.2) s3.jobs
    sbs := p.sbs.foldl (fun t e => Tab.insert t e.1 (e.2 ++ Tab.get [] t e.1)) s3.sbs
    sbFz := p.sbFz.foldl (fun t e => Tab.insert t e.1 e.2) s3.sbFz }

/-- A memory node whose access was not translated yet tries again, unless it is frozen. -/
def restartNode (s : State) (a : Acc) : State :=
  match a.ag with
  | .node n => if a.segs.isEmpty ∧ (s.node n).frozen.isNone then retryNode s n a else s
  | _ => s

/-- The steps of R360 after the header is found right: the state, STATE 3, the held resumes, the events, the restart. -/
def returnRes (s : State) (q : CmdCx) (rid : Nat) (p : Saved) (st : List (PA × Nat)) : State :=
  let s1 := writeBytes (restore (popCmd s q.sb) rid p) ((segPAs st).zip [3])
  let s2 := p.held.foldl (fun t e => resume t (e / 4) (e % 2 == 1) (e / 2 % 2 == 1)) s1
  let s3 := p.evts.foldl (fun t e => asyncTo t rid e.1 e.2) s2
  tryBars (p.accs.foldl restartNode s3)

/-- The first header field that does not match. -/
def headerMismatch (rid : Nat) (r : Residency) (h : List Byte) : Option Nat :=
  firstOff [(fld h 0 4 != 0x45564153, 0), (fld h 4 2 != rid, 4), (fld h 8 8 != saveSize r, 8)]

/-- The command with the pointer moved on by `n`. -/
def CmdCx.at_ (q : CmdCx) (n : Nat) : CmdCx := { q with f := { q.f with param := q.f.param + BitVec.ofNat 96 n } }

/-- UNPARK with SUB 0: it waits for the coves, reads the header, and restores. -/
def unparkBack (s : State) (q : CmdCx) (rid : Nat) (p : Saved) : State :=
  if !canReturn s rid p then s
  else match areaSegs q s 64 false with
    | (s1, .error (va, e)) => accessError s1 q 0 0 va e
    | (s1, .ok segs) =>
      let r := rdSegs s1 segs
      let o := openBytes r.1 r.2.1 r.2.2
      match headerMismatch rid p.res o.2 with
      | some off => fieldError o.1 q off
      | none =>
        match areaSegs (q.at_ 16) o.1 1 true with
        | (s2, .error (va, e)) => accessError s2 q 0 1 va e
        | (s2, .ok st) => returnRes s2 q rid p st

/-- Free the records of a residency, those that wait for one too. -/
def freeRecords (s : State) (rid : Nat) : State :=
  let mine := s.recs.live.filter fun e => e.2.rid == rid && recState s e.1 != 0
  let s1 := mine.foldl (fun t e => setRecState t e.1 0) s
  { s1 with recs := { s1.recs with
    owner := s1.recs.owner.filter fun e => !(mine.any fun m => m.1 == e.1)
    live := s1.recs.live.filter fun e => e.2.rid != rid
    wait := s1.recs.wait.filter fun e => e.1.rid != rid } }

/-- An engine without a residency's steps: the step at its head stands frozen no more where it goes. -/
def dropSteps (rid : Nat) (u : Umx) : Umx :=
  { u with
    steps := u.steps.filter fun st => st.rid != rid
    frozen := if u.steps.head?.any fun st => st.rid == rid then none else u.frozen }

/-- UNPARK with SUB 1: the task is discarded, its steps at the engines with it. -/
def discardRes (s : State) (q : CmdCx) (rid : Nat) (p : Saved) : State :=
  let s1 := freeRecords (popCmd s q.sb) rid
  let s2 := freeName { s1 with parked := Tab.erase s1.parked rid, umx := s1.umx.map fun e => (e.1, dropSteps rid e.2) } rid
  tryBars (openRec s2 (launchRec s2 rid 0x011E p.area) none [])

/-- UNPARK (R209, R360). -/
def execUnpark (f : CmdW) (s : State) : Host.Outcome State Fault Refusal :=
  cmdStep f true (fun q t =>
    let rid := fPar q.f 64 13
    match Tab.find? t.parked rid with
    | none => popCmd t q.sb
    | some p => if q.f.sub = 1 then discardRes t q rid p else unparkBack t q rid p) s

end Sys2Proof.Machine
end

