-- ==== Sys2Proof/Machine/Power.lean ====
section
/-!
DEFINITION. Time and power: the clocks that pass in a step, with the pulses a stretched die skips (R333) and what the coupling regulators
count (R326 to R328); the permit window and its gate (R331, R332); clock stretching and the thermal limits (R333, R399).
-/
namespace Sys2Proof.Machine

/-! ### The coupling regulator (R326 to R328) -/

/-- The period of a channel in clocks. -/
def Coup.period (k : Coup) : Nat := 2 ^ k.par.q

/-- Occupancy and credits at the producer endpoint. -/
def coupOcc (s : State) (k : Coup) : Nat × Nat :=
  match endpAt s k.ep with
  | some e => (e.depth - e.credits, e.credits)
  | none => (0, 0)

/-- Count `n` clocks at an occupancy and a number of credits. -/
def Coup.count (k : Coup) (o : Nat × Nat) (n : Nat) : Coup :=
  { k with
    sum := k.sum + o.1 * n
    fc := k.fc + (if o.2 = 0 then (n : Int) else 0)
    ec := k.ec + (if o.1 = 0 then (n : Int) else 0) }

/-- Count the clocks from `a` to `b` that lie in the period which stands. -/
def Coup.pass (k : Coup) (o : Nat × Nat) (a b : Nat) : Coup := k.count o (min b (k.start + k.period) - min a (k.start + k.period))

/-- An integer held between two bounds. -/
def holdInt (v lo hi : Int) : Int := if v < lo then lo else if hi < v then hi else v

/-- The difference that a period's counts give, and the new integral. -/
def Coup.delta (k : Coup) : Int × Int :=
  let p : Int := k.period
  let e := 16 * k.sum / p - 16 * k.par.s
  let i := if 2 * k.fc ≤ p ∧ 2 * k.ec ≤ p then holdInt (k.integ + e) (-32768) 32767 else k.integ
  let t := match k.par.i with | some n => i / (2 ^ n : Nat) | none => 0
  ((e / (2 ^ k.par.p : Nat) + t) / 16, i)

/-- The channel at the start of its next period: COUPLE's parameters govern from it, with a new integral (R328). -/
def Coup.next (k : Coup) (integ : Int) : Coup :=
  { k with
    par := k.nxt.getD k.par
    nxt := none
    sum := 0
    fc := 0
    ec := 0
    integ := if k.nxt.isSome then 0 else integ
    start := k.start + k.period }

/-- A node's weight moved by a difference. -/
def moveWeight (s : State) (n : Nat) (d : Int) (p : CoupPar) : State :=
  s.setNode n { s.node n with weight := (holdInt ((s.node n).weight + d) p.wmin p.wmax).toNat }

/-- The weights at the end of a period: moved by the parameters that governed it, then both held within the limits that a COUPLE sets (R201). -/
def coupWeights (s : State) (k : Coup) (d : Int) : State :=
  let s1 := if k.par.mode ≠ 2 then moveWeight s k.prod (-d) k.par else s
  let s2 := if k.par.mode ≠ 1 then moveWeight s1 k.cons d k.par else s1
  match k.nxt with
  | some p => moveWeight (moveWeight s2 k.prod 0 p) k.cons 0 p
  | none => s2

/-- Whether the period of a channel is over. -/
def periodOver (s : State) (k : Coup) : Bool := decide (k.start + k.period ≤ coupClock s k)

/-- REGULATOR_PERIOD (R326): channel `k` of the coupling table ends its period; those before it in the table go first (R327). Clocks that
have passed since count for the next period, at the occupancy that stands (log entry 63). -/
def execRegulatorPeriod (rid k : Nat) (s : State) : Host.Outcome State Fault Refusal :=
  match Tab.find? s.res rid with
  | none => .next s
  | some r =>
    match r.coups[k]? with
    | none => .next s
    | some c =>
      if !periodOver s c || (r.coups.take k).any (periodOver s) then .next s
      else
        let d := c.delta
        let s1 := coupWeights s c d.1
        let c1 := (c.next d.2).pass (coupOcc s c) (c.start + c.period) (coupClock s c)
        .next (modRes s1 rid fun q => { q with coups := setNth q.coups k c1 })

/-! ### The passing of clocks (R333) -/

/-- The pulses that a die skips of `n` clocks: none, unless it is stretched (log entry 8). -/
def skippedOf (s : State) (d n : Nat) : Nat :=
  if has s.power.stretched d then n - min n (Config.freePulses (s.free + d) n) else 0

/-- A residency with its regulators replaced. -/
def withCoups (r : Residency) (l : List Coup) : Residency := { r with coups := l }

/-! ### The escape lane (R61, R62) -/

/-- The place on the rings that a packet has once this clock is over, `moves d` saying whether die `d` has a pulse in it. -/
def Packet.ahead (moves : Nat → Bool) (p : Packet) : Option (Nat × Nat) :=
  p.lane.map fun l => if moves l.1 then (l.1, (l.2 + 1) % ringLen) else l

/-- One clock of the lanes for one packet: it advances one router; at its destination router it leaves; at the port router toward the die of its
destination it enters that die's lane, at the port router there, unless a packet on the lane comes to that place (then it goes round again). -/
def laneStep (s : State) (moves : Nat → Bool) (p : Packet) : Packet :=
  match p.ahead moves with
  | none => p
  | some l =>
    let dst := destOf s p
    if p.lane = some l then p
    else if l = (dieOf dst, coveNo dst) then { p with lane := none, router := dst, via := dst, since := dieClock s (dieOf dst) }
    else if l.2 = 192 + dieOf dst ∧ l.1 ≠ dieOf dst ∧ !(s.wire.any fun o => o.ahead moves == some (dieOf dst, 192 + l.1)) then
      { p with lane := some (dieOf dst, 192 + l.1) }
    else { p with lane := some l }

/-- `n` clocks of the lanes, of which die `d` has pulses in the first `pulses d`; nothing happens on empty lanes. -/
def laneRun (pulses : Nat → Nat) : Nat → Nat → State → State
  | 0, _, s => s
  | n + 1, i, s =>
    if s.wire.all fun p => p.lane.isNone then s
    else laneRun pulses n (i + 1) { s with wire := s.wire.map (laneStep s fun d => decide (i < pulses d)) }

/-! ### The clocks of a step -/

/-- `n` clocks pass: what has landed enters its windows (R74), the tokens that QPUSH has sent arrive (R38), the planes with work are noted in the order of its arrival (R203, R279), the
escape lanes and their tokens advance (R61, R62), regulators' counts follow, and the launch-port writes that have waited long enough are taken
(R385). -/
def tick (s : State) (n : Nat) : State :=
  if n = 0 then s
  else
    let pulses := fun d => n - skippedOf s d n
    let s0 := (span 0 8).foldl (fun t d => admitDie d (pulses d) (dieClock s d) t) s
    let sp := (s0.coves.map (·.1)).foldl (fun t cv => pushesIn (pulses (dieOf cv)) (dieClock s (dieOf cv)) cv t) s0
    let s1 := laneRun pulses n 0 ((sp.coves.map (·.1)).foldl noteWork sp)
    let sk := (span 0 8).foldl (fun t d => Tab.put 0 t d (Tab.get 0 t d + skippedOf s d n)) s.power.skipped
    let ll := (span 0 8).foldl (fun t d => Tab.put 0 t d ((Tab.get 0 t d + pulses d) % ringLen)) s.power.lifeline
    let fr := if s.power.stretched.isEmpty then s.free else s.free + 8
    let s2 := { s1 with clock := s.clock + n, power := { s.power with skipped := sk, lifeline := ll }, free := fr }
    servePorts s.tasks.portq { s2 with res := s2.res.map fun e => (e.1, withCoups e.2 (e.2.coups.map fun k =>
        k.pass (coupOcc s k) (coupClock s k) (coupClock s2 k))) }

/-! ### Permits (R331, R332) -/

/-- The draw of a task over a window of 1,024 clocks in units of 1/4,341,760 permit, the least in which each unit's share is whole (log
entry 66): a firing 1/16,384; a step of the matrix node 5/1,024 or, in SORT or TOPK mode, 1/1,024; a byte of a stack 7/40,960, of a link
35/108,544; a clock of an undertow engine 8/1,024. -/
def drawOf (a : Act) : Nat := 265 * a.fires + 21200 * a.mac + 4240 * a.sort + 742 * a.hbm + 1400 * a.link + 33920 * a.jobs

/-- The gate for the next window, in sixty-fourths. -/
def gateFor (held draw : Nat) : Nat :=
  if draw ≤ held * 4341760 then 64 else max 1 (64 * held * 4341760 / draw)

/-- PERMIT_WINDOW (R332): the end of a window of 1,024 clocks. -/
def execPermitWindow (rid : Nat) (s : State) : Host.Outcome State Fault Refusal :=
  match Tab.find? s.res rid with
  | none => .next s
  | some r =>
    if dieClock s (nth 0 r.region.dies 0) < r.winStart + 1024 then .next s
    else .next (modRes s rid fun q =>
      { q with gate := gateFor r.permits (drawOf r.act), act := ⟨0, 0, 0, 0, 0, 0, 0⟩, winStart := r.winStart + 1024 })

/-! ### Power and temperature (R333, R399) -/

/-- One eighth of the package limit of 3,200 W, in permits of 0.2 W. -/
def dieShare : Nat := 2000

/-- A die is stretched, with a class-3 event. -/
def stretch (s : State) (die power : Nat) : State :=
  raise { s with power := { s.power with stretched := insNat s.power.stretched die } } 3 die (BitVec.ofNat 64 power)

/-- POWER_STRETCH (R333): a measurement of a die's power, in permits; one above its share, sustained over 2^16 clocks, stretches it. -/
def execPowerStretch (die power : Nat) (s : State) : Host.Outcome State Fault Refusal :=
  if 8 ≤ die then .next s
  else if power ≤ dieShare then .next { s with power := { s.power with overSince := Tab.erase s.power.overSince die } }
  else match Tab.find? s.power.overSince die with
  | none => .next { s with power := { s.power with overSince := Tab.insert s.power.overSince die s.clock } }
  | some t =>
    if s.clock < t + 65536 ∨ has s.power.stretched die then .next s else .next (stretch s die power)

/-- CLOCK_STRETCHING_END (R333): the die's power is below the limit again. -/
def execClockStretchingEnd (die power : Nat) (s : State) : Host.Outcome State Fault Refusal :=
  if power < dieShare then
    .next { s with power := { s.power with
      stretched := s.power.stretched.filter fun d => d != die, overSince := Tab.erase s.power.overSince die } }
  else .next s

/-- THERMAL_THROTTLE (R399): the junction is at 100 °C; the hottest die is stretched. -/
def execThermalThrottle (die power : Nat) (s : State) : Host.Outcome State Fault Refusal :=
  if 8 ≤ die then .next s else .next (stretch s die power)

end Sys2Proof.Machine
end

