-- ==== Sys2Proof/Machine/Ras.lean ====
section
/-!
DEFINITION. Errors (R362 to R365): corrected errors and their report, uncorrected errors, the patrol scrub with row sparing, and the
peer links that go down (R391).
-/
namespace Sys2Proof.Machine

/-- A record of kind 14 (R342). -/
def errRec (s : State) (cause rid loc : Nat) (count aux : Nat) : Rec :=
  { Rec.zero with
    kind := 14, cause := cause, rid := rid, loc := loc, count := count, aux := BitVec.ofNat 64 aux, cycle := cycleOf s (cvOfCe loc) }

/-! ### Corrected errors (R362, R364) -/

/-- CORR_SUM (R362): every 2^24 clocks the corrected errors are reported in one record, when there are any. -/
def execCorrSum (s : State) : Host.Outcome State Fault Refusal :=
  if s.clock < s.ras.lastSum + 2 ^ 24 then .next s
  else
    let n := s.ras.corr.foldl (fun t e => t + e.2) 0
    let s1 := { s with ras := { s.ras with corr := [], lastSum := s.ras.lastSum + 2 ^ 24 } }
    .next (if n = 0 then s1 else openRec s1 (errRec s1 0x50 0 0 n 0) none [])

/-- The key of a row: stacks in turn, each row named by the offset of its first byte in its stack (log entry 67). -/
def rowKey (stack row : Nat) : Nat := stack * 48 * 2 ^ 30 + row

/-- A corrected error in a row: counted, and added to the row's bucket. -/
def corrected (s : State) (stack row : Nat) : State :=
  let k := rowKey stack row
  { s with ras := { s.ras with
    corr := Tab.insert s.ras.corr stack (Tab.get 0 s.ras.corr stack + 1)
    bucket := Tab.insert s.ras.bucket k (min 15 (Tab.get 0 s.ras.bucket k + 1)) } }

/-- A row whose bucket stands at 8 or more: sparing begins where it is armed and a spare row is left; else the repair is proposed, once. COUNT of
the record is the errors that stand in the bucket (log entry 142). -/
def weakRow (s : State) (stack row : Nat) (spare : Bool) : State :=
  let k := rowKey stack row
  if Tab.get 0 s.ras.bucket k < 8 ∨ has s.ras.sparing k then s
  else if bitOf s.host.raspol.toNat stack && spare then { s with ras := { s.ras with sparing := s.ras.sparing ++ [k] } }
  else if has s.ras.proposed k then s
  else openRec { s with ras := { s.ras with proposed := insNat s.ras.proposed k } } (errRec s 0x52 0 0 (Tab.get 0 s.ras.bucket k) k) none []

/-- A corrected error found in a row, and what the row's bucket then asks for. -/
def rowError (s : State) (stack row : Nat) (isBad spare : Bool) : State :=
  if 16 ≤ stack ∨ 48 * 2 ^ 30 ≤ row then s
  else weakRow (if isBad then corrected s stack row else s) stack row spare

/-- PATROL_SCRUB (R364): the scrub reads a row; `isBad` when the read was corrected, `spare` when the stack has a spare row left. -/
def execPatrolScrub (stack row : Nat) (isBad spare : Bool) (s : State) : Host.Outcome State Fault Refusal :=
  .next (rowError s stack row isBad spare)

/-- Take account of what the hardware has noticed: an error of a row or of another unit that it has corrected, or the retirement of a spare unit
to be proposed, which the host alone performs (R362, R364, R365), or the advance of a packet (R61). Units other than stacks are counted from key 16 on. -/
def sense (s : State) : Sensed → State
  | .row stack row spare => rowError s stack row true spare
  | .unit u => { s with ras := { s.ras with corr := Tab.insert s.ras.corr (16 + u) (Tab.get 0 s.ras.corr (16 + u) + 1) } }
  | .defect loc at_ => openRec s (errRec s 0x52 0 (loc % 32768) 0 at_) none []
  | .hop i r => hopPkt s i r

/-- Take account of all that a turn lists. -/
def senseAll (s : State) (l : List Sensed) : State := l.foldl sense s

/-- ROW_SPARED (R364): the copy of a row being spared has ended; the remap is committed and reported, with the
errors that stood in its bucket (log entry 142). The spare row begins with an empty bucket. -/
def execRowSpared (stack row : Nat) (s : State) : Host.Outcome State Fault Refusal :=
  let k := rowKey stack row
  if has s.ras.sparing k then
    let s1 := { s with ras := { s.ras with
      sparing := s.ras.sparing.filter fun r => r != k, spared := insNat s.ras.spared k, bucket := Tab.erase s.ras.bucket k
      proposed := s.ras.proposed.filter fun r => r != k } }
    .next (openRec s1 (errRec s1 0x51 0 0 (Tab.get 0 s.ras.bucket k) k) none [])
  else .next s

/-- BUCKET_DECAY (R364): every 2^24 clocks each bucket falls by 1; a fall that comes late leaves the next one where it was. -/
def execBucketDecay (s : State) : Host.Outcome State Fault Refusal :=
  if s.clock < s.ras.lastDec + 2 ^ 24 then .next s
  else
    let b := (s.ras.bucket.map fun e => (e.1, e.2 - 1)).filter fun e => e.2 != 0
    .next { s with ras := { s.ras with
      bucket := b, lastDec := s.ras.lastDec + 2 ^ 24, proposed := s.ras.proposed.filter fun k => decide (8 ≤ Tab.get 0 b k) } }

/-! ### Peer links (R362, R388, R391) -/

/-- A resolved address once link `l` has gone down: an access sent on it reaches no device. -/
def cutPA (l : Nat) (p : PA) : PA :=
  match p.sp with
  | .peer dev k => if k = some l then ⟨.peer dev none, p.adr⟩ else p
  | _ => p

/-- An access once link `l` has gone down: it reads POISON and loses its writes where it was in flight on it, a copy's source too. An access not yet
issued is not on the link; it takes one when it is sent. -/
def cutAcc (l : Nat) (a : Acc) : Acc :=
  if a.issued then
    { a with
      segs := a.segs.map fun e => (cutPA l e.1, e.2)
      kind := match a.kind with | .copy src n => .copy (src.map fun e => (cutPA l e.1, e.2)) n | k => k }
  else a

/-- A link goes down: it leaves every mask, accesses in flight on it read POISON and lose their writes, a record and an event follow. -/
def linkDown (s : State) (l : Nat) : State :=
  if 24 ≤ l ∨ has s.peersDown l then s
  else
    let s1 := { s with accs := s.accs.map (cutAcc l), peersDown := insNat s.peersDown l }
    raise (openRec s1 (errRec s1 0x4E 0 0 0 0) none []) 5 l 0

/-- LINK_DOWN (R391). -/
def execLinkDown (l : Nat) (s : State) : Host.Outcome State Fault Refusal := .next (linkDown s l)

/-- PEER_LINK_UP (R388). -/
def execPeerLinkUp (l : Nat) (s : State) : Host.Outcome State Fault Refusal :=
  if has s.peersDown l then .next (raise { s with peersDown := s.peersDown.filter fun k => k != l } 5 l 1) else .next s

/-! ### Uncorrected errors (R362) -/

/-- An uncorrected error that is fatal to a residency, at the first cell of its region: kind 10 for the state of the residency, which R343 marks
fatal, and kind 14 for a link (log entry 68). -/
def fatalErr (s : State) (cause rid : Nat) : State :=
  match Tab.find? s.res rid with
  | some r => raiseFatal s { errRec s cause rid (nth 0 r.region.cells 0) 0 0 with kind := if cause = 0x4D then 10 else 14 }
  | none => s

/-- UNCORRECTED_ERROR (R362): memory is poisoned; a link between coves or dies faults the residencies with tokens on it; a peer link goes
down; state of a residency faults it. -/
def execUncorrectedError (e : ErrSite) (s : State) : Host.Outcome State Fault Refusal :=
  match e with
  | .hbm pa => .next (if pa < 768 * 2 ^ 30 then psnMark s ⟨.hbm, pa⟩ else s)
  | .shore off => .next (psnMark s ⟨.shore, off⟩)
  | .mesh [] => .next (openRec s (errRec s 0x4E 0 0 0 0) none [])
  | .mesh rids => .next (rids.foldl (fun t r => fatalErr t 0x4E r) s)
  | .peerLink l => .next (linkDown s l)
  | .residency rid => .next (fatalErr s 0x4D rid)

end Sys2Proof.Machine
end

