-- ==== Sys2Proof/Machine/HostPort.lean ====
section
/-!
DEFINITION. What the host and other devices do to the machine: BAR0 registers (R383, R384, R386), the command mailbox (R387), the event
ring (R388, R389), the host's accesses to device memory (R293, R382), and accesses that arrive from peers (R18, R337).
-/
namespace Sys2Proof.Machine

/-! ### The event ring (R388, R389) -/

/-- The 16 bytes of an event entry. -/
def Ev.bytes (e : Ev) : List Byte := leBytes e.cls 1 ++ leBytes 0 1 ++ leBytes e.index 2 ++ leBytes 0 4 ++ leBytes e.value.toNat 8

/-- Where the next entry goes: the byte addresses in host memory. -/
def ringSlot (s : State) : PA := ⟨.host, s.host.evbase.toNat + 16 * (s.host.evhead.toNat % 2 ^ (s.host.evsize.toNat + 4))⟩

/-- EVENT_ENTRY (R388): the oldest event is written to the ring and its message sent; a full ring sets EVOVF and coalesces (R389). -/
def execEventEntry (s : State) : Host.Outcome State Fault Refusal :=
  match s.host.held with
  | [] => .next s
  | e :: t =>
    if ringFull s then .next { s with host := { s.host with evovf := true, held := coalesce s.host.held } }
    else
      let s1 := writeBytes s ((segPAs [(ringSlot s, 16)]).zip e.bytes)
      .next { s1 with host := { s1.host with
        held := t, evhead := s1.host.evhead + 1, msix := Tab.insert s1.host.msix e.cls (Tab.get 0 s1.host.msix e.cls + 1) } }

/-- A host write of EVTAIL. -/
def putEvtail (s : State) (v : Word) : State := { s with host := { s.host with evtail := v } }

/-- EVTAIL (R383, R389): space in the ring returns; EVENT_ENTRY writes what is held. -/
def execEvtail (v : BitVec 64) (s : State) : Host.Outcome State Fault Refusal := .next (putEvtail s v)

/-! ### The command mailbox (R387) -/

/-- The identifier that stands for the host, which is no residency. -/
def hostRid : Nat := 8192

/-- The cause with which a mailbox command fails, if it does. -/
def mailboxFault (s : State) (w : BitVec 128) : Option Nat :=
  let sop := cmdSop w
  if 16 ≤ (sbCmds s mailbox).length then some 0x1B
  else if !has [0x15, 0x16, 0x17, 0x18, 0x1C] sop then some 0x18
  else (Chk.mk s 0 hostRid .m true (fun _ => rdPA s) ((sbCmds s mailbox).map (·.w)) []).fails w

/-- A write of HCMD1: the command is checked and enters the device service scoreboard, or CAUSE is set. -/
def mailboxWrite (s : State) (v : Word) : State :=
  let w : BitVec 128 := v ++ s.host.hcmd0
  match mailboxFault s w with
  | some c => { s with host := { s.host with hcause := BitVec.ofNat 8 c } }
  | none => { s with sbs := Tab.insert s.sbs mailbox (sbCmds s mailbox ++ [Cmd.mk w 0 hostRid .m true [] none none]) }

/-- HCMD1_WRITE (R387). -/
def execHcmd1Write (v : BitVec 64) (s : State) : Host.Outcome State Fault Refusal := .next (mailboxWrite s v)

/-! ### Registers (R383, R384, R386) -/

/-- DEVSTAT.IDLE: no task is placed or parked. -/
def isIdle (s : State) : Bool := s.res.isEmpty && s.parked.isEmpty

/-- DEVSTAT (R384). -/
def devstat (s : State) : Word :=
  BitVec.ofNat 64 (s.host.boot + 8 * (isIdle s).toNat + 16 * (!s.peersDown.isEmpty).toNat + 32 * s.host.evovf.toNat + 256 * s.host.fail)

/-- HCMDST (R387). -/
def hcmdst (s : State) : Word := BitVec.ofNat 64 ((sbCmds s mailbox).length + 256 * s.host.hcause.toNat)

/-- A base register that is written only while the device is idle; a value that is not aligned is ignored (log entry 69). -/
def putBase (s : State) (v : Word) (align : Nat) (f : HostSt → HostSt) : State :=
  if isIdle s && v.toNat % align == 0 then { s with host := f s.host } else s

/-- Whether a descriptor's reserved bits are zero. -/
def qdescOk (v : Word) : Bool := bitsOf v.toNat 52 12 == 0 && bitsOf v.toNat 4 10 == 0

/-- The queue's record of candidacy after ENABLE is written (R315, R317). -/
def putCand (s : State) (q : Nat) (was : Bool) : State :=
  if qEnabled s q then
    if was || (Tab.get [] s.tasks.queues q).isEmpty then s
    else { s with tasks := { s.tasks with candAt := Tab.insert s.tasks.candAt q s.clock } }
  else { s with tasks := { s.tasks with candAt := Tab.erase s.tasks.candAt q, blocking := s.tasks.blocking.filter fun k => k != q } }

/-- A write of QDESC (R386). -/
def putQdesc (s : State) (q : Nat) (v : Word) : State :=
  if qdescOk v then putCand { s with host := { s.host with qdesc := Tab.put 0 s.host.qdesc q v } } q (qEnabled s q) else s

/-- A write of `v` to the register at `off` (R383). Values outside a register's field are ignored (log entry 69). -/
def putReg (s : State) (off : Nat) (v : Word) : State :=
  let h := s.host
  if off = 0x1000 then (if v.getLsbD 5 then { s with host := { h with evovf := false } } else s)
  else if off = 0x1008 then (if v.toNat < 1024 then { s with host := { h with devnum := v.setWidth 10 } } else s)
  else if off = 0x1010 then (if 2600 ≤ v.toNat ∧ v.toNat ≤ 65535 then { s with host := { h with pool := v.toNat } } else s)
  else if off = 0x1018 then putBase s v 65536 fun k => { k with ttbase := v }
  else if off = 0x1020 then putBase s v 65536 fun k => { k with frtbase := v }
  else if off = 0x1028 then putBase s v 4096 fun k => { k with peertab := v }
  else if off = 0x1030 then putBase s v 4096 fun k => { k with evbase := v }
  else if off = 0x1038 then (if v.toNat < 16 then putBase s v 1 fun k => { k with evsize := v.setWidth 4 } else s)
  else if off = 0x1048 then putEvtail s v
  else if off = 0x1050 then { s with host := { h with raspol := v } }
  else if off = 0x1060 then { s with host := { h with hcmd0 := v } }
  else if off = 0x1068 then mailboxWrite s v
  else if off = 0x1070 then { s with host := { h with hcause := h.hcause &&& ~~~(v.extractLsb' 8 8) } }
  else if 0x10000 ≤ off ∧ off < 0x10800 then launchPort s ((off - 0x10000) / 8) v
  else if 0x11000 ≤ off ∧ off < 0x11800 then putQdesc s ((off - 0x11000) / 8) v
  else s

/-- REGISTER_WRITE (R383): an aligned 8-byte write of a BAR0 register; a write to a launch port is LAUNCH (R385). -/
def execRegisterWrite (off : Nat) (v : BitVec 64) (s : State) : Host.Outcome State Fault Refusal :=
  if off % 8 = 0 then .next (putReg s off v) else .next s

/-! ### Memory (R293, R382) -/

/-- HOST_MEMORY_ACCESS (R293): the host writes device memory through CXL.mem, or reads it, which changes nothing. -/
def execHostMemoryAccess (write : Bool) (pa : Nat) (bytes : List Byte) (s : State) : Host.Outcome State Fault Refusal :=
  if write && decide (pa + bytes.length ≤ 768 * 2 ^ 30) then
    .next (writeBytes s ((segPAs [(⟨.hbm, pa⟩, bytes.length)]).zip bytes))
  else .next s

/-! ### Peers (R18, R337) -/

/-- The bytes that a peer's access writes, once read and translated: an atomic writes nothing where it meets poison. -/
def peerWrite (s : State) (segs : List (PA × Nat)) : PeerKind → State
  | .read _ => s
  | .write bs => writeBytes s ((segPAs segs).zip bs)
  | .atomic op v c =>
    let r := rdSegs s segs
    if r.2.2 then r.1
    else writeBytes r.1 ((segPAs segs).zip (leBytes (atomicNew op (BitVec.ofNat 64 (leNat r.2.1)) v c).toNat 8))

/-- Length and needed permissions of a peer's access. -/
def peerShape : PeerKind → Nat × Bool × Bool
  | .read n => (n, true, false)
  | .write bs => (bs.length, false, true)
  | .atomic _ _ _ => (8, true, true)

/-- PEER_REQUEST (R18, R337): an access of another device to a deep address here, translated under the root of the queue that it names and
performed. One that fails is reported to its issuer; nothing changes here. -/
def execPeerRequest (q : PeerReq) (s : State) : Host.Outcome State Fault Refusal :=
  if !deepPtr q.va || decide (65536 < (peerShape q.kind).1) then .next s
  else match resolve s ⟨hostRid, none, [], qRoot s q.root, false⟩ 0 q.va (peerShape q.kind).1 (peerShape q.kind).2.1 (peerShape q.kind).2.2 with
    | (s1, .error _) => .next s1
    | (s1, .ok segs) => .next (peerWrite s1 segs q.kind)

end Sys2Proof.Machine
end

