-- ==== Sys2Proof/Machine/Keccak.lean ====
section
/-!
DEFINITION. SHAKE256 (FIPS 202), the digest of R392 and R394, over lists of bytes: Keccak-f[1600] with rate 136.
-/
namespace Sys2Proof.Machine

/-- The round constants, first round first. -/
def keccakRc : List Word :=
  [0x0000000000000001, 0x0000000000008082, 0x800000000000808A, 0x8000000080008000, 0x000000000000808B, 0x0000000080000001,
    0x8000000080008081, 0x8000000000008009, 0x000000000000008A, 0x0000000000000088, 0x0000000080008009, 0x000000008000000A]
  ++ [0x000000008000808B, 0x800000000000008B, 0x8000000000008089, 0x8000000000008003, 0x8000000000008002, 0x8000000000000080,
    0x000000000000800A, 0x800000008000000A, 0x8000000080008081, 0x8000000000008080, 0x0000000080000001, 0x8000000080008008]

/-- The rotation of lane x + 5y. -/
def keccakRot : List Nat :=
  [0, 1, 62, 28, 27, 36, 44, 6, 55, 20, 3, 10, 43, 25, 39, 41, 45, 15, 21, 8, 18, 2, 61, 56, 14]

/-- Lane x + 5y of a state. -/
def kLane (a : List Word) (x y : Nat) : Word := nth 0 a (x % 5 + 5 * (y % 5))

/-- A state from its lanes. -/
def kMake (f : Nat → Nat → Word) : List Word := (span 0 25).map fun i => f (i % 5) (i / 5)

/-- Theta: each lane with the parities of two columns. -/
def kTheta (a : List Word) : List Word :=
  let c := (span 0 5).map fun x => kLane a x 0 ^^^ kLane a x 1 ^^^ kLane a x 2 ^^^ kLane a x 3 ^^^ kLane a x 4
  let d := (span 0 5).map fun x => nth 0 c ((x + 4) % 5) ^^^ (nth 0 c ((x + 1) % 5)).rotateLeft 1
  kMake fun x y => kLane a x y ^^^ nth 0 d x

/-- Rho and pi: lane (x, y) comes, rotated, from (x + 3y, x). -/
def kRhoPi (a : List Word) : List Word :=
  kMake fun x y => (kLane a (x + 3 * y) x).rotateLeft (nth 0 keccakRot ((x + 3 * y) % 5 + 5 * x))

/-- Chi and iota. -/
def kChi (a : List Word) (rc : Word) : List Word :=
  kMake fun x y => kLane a x y ^^^ (~~~(kLane a (x + 1) y) &&& kLane a (x + 2) y) ^^^ (if x + 5 * y = 0 then rc else 0)

/-- The permutation. -/
def keccakF (a : List Word) : List Word := keccakRc.foldl (fun s rc => kChi (kRhoPi (kTheta s)) rc) a

/-- A block of 136 bytes as lanes, the capacity zero. -/
def kBlock (b : List Byte) : List Word := (chunks 8 25 b).map fun l => BitVec.ofNat 64 (leNat l)

/-- Absorb blocks. -/
def kAbsorb : List (List Byte) → List Word → List Word
  | [], s => s
  | b :: t, s => kAbsorb t (keccakF (((s.zip (kBlock b)).map fun e => e.1 ^^^ e.2)))

/-- The input with SHAKE's padding: 0x1F, zeros, and 0x80 in the last byte of the last block. -/
def shakePad (m : List Byte) : List Byte :=
  let z := 135 - m.length % 136
  if z = 0 then m ++ [0x9F] else m ++ [0x1F] ++ List.replicate (z - 1) 0 ++ [0x80]

/-- The first 64 bytes of SHAKE256 of `m`. -/
def shake256 (m : List Byte) : List Byte :=
  let p := shakePad m
  ((kAbsorb (chunks 136 (p.length / 136) p) (List.replicate 25 0)).take 8).flatMap fun w => leBytes w.toNat 8

end Sys2Proof.Machine
end

