-- ==== Sys2Proof/Machine/Boot.lean ====
section
/-!
DEFINITION. Reset and boot (R392 to R394), attestation and recovery over the DOE mailbox (R395 to R397), the capability list (R25 to R27,
R398), and the thermal trip (R399).
-/
namespace Sys2Proof.Machine

/-! ### The capability list (R26, R27, R398) -/

/-- A capability record at `off`: its header with NEXT, and its body. Between records lie 4 bytes, since NEXT must be greater than the end
of its record (log entry 71). -/
def capRec (id : Nat) (last : Bool) (off : Nat) (body : List Byte) : List Byte :=
  let len := 2 + body.length / 4
  leBytes id 2 ++ leBytes 1 1 ++ leBytes len 1 ++ leBytes (if last then 0 else off + 4 * len + 4) 2 ++ leBytes 0 2 ++ body
    ++ leBytes 0 4

/-- Records laid one after another from `off` on. -/
def capRecs : Nat → List (Nat × List Byte) → List Byte
  | _, [] => []
  | off, e :: t => capRec e.1 t.isEmpty off e.2 ++ capRecs (off + 8 + e.2.length + 4) t

/-- The records of the part (R398). -/
def capList : List (Nat × List Byte) :=
  [(0x0001, leBytes 0x1536 4 ++ leBytes Config.partRevision.toNat 2 ++ leBytes 0 2 ++ leBytes Config.partSerial.toNat 8),
    (0x0002, [8, 12, 16, 16, 4, 4] ++ leBytes 192 2),
    (0x0010, [24, 8] ++ leBytes 212 2 ++ leBytes 1024 2 ++ leBytes 0 2),
    (0x0020, []), (0x0021, []),
    (0x0030, leBytes 103079 4 ++ leBytes 0 4)]

/-- The capability window, CAPWIN of BAR0 (R383): 4 KiB. -/
def capWindow : List Byte := let l := capRecs 0 capList; l ++ List.replicate (4096 - l.length) 0

/-! ### Reads of BAR0 (R383) -/

/-- What the register at `off` holds: DEVSTAT, HCMDST, the descriptors and the others that may be read; 0 for a register that is only written and for
an offset not listed (log entry 116). -/
def getReg (s : State) (off : Nat) : Word :=
  let h := s.host
  if off < 0x1000 then BitVec.ofNat 64 (leNat ((capWindow.drop off).take 8))
  else if off = 0x1000 then devstat s
  else if off = 0x1008 then h.devnum.setWidth 64
  else if off = 0x1010 then BitVec.ofNat 64 h.pool
  else if off = 0x1018 then h.ttbase
  else if off = 0x1020 then h.frtbase
  else if off = 0x1028 then h.peertab
  else if off = 0x1030 then h.evbase
  else if off = 0x1038 then h.evsize.setWidth 64
  else if off = 0x1040 then h.evhead
  else if off = 0x1048 then h.evtail
  else if off = 0x1050 then h.raspol
  else if off = 0x1058 then h.compl
  else if off = 0x1070 then hcmdst s
  else if 0x11000 ≤ off ∧ off < 0x11800 then Tab.get 0 h.qdesc ((off - 0x11000) / 8)
  else 0

/-- The bytes that a read of `n` bytes of BAR0 at `off` gives: those of a register to an aligned read of 8, zeros to every other read. A read
changes nothing. -/
def bar0Read (s : State) (off n : Nat) : List Byte :=
  if n = 8 ∧ off % 8 = 0 then leBytes (getReg s off).toNat 8 else List.replicate n 0

/-! ### Reset and boot (R392 to R394) -/

/-- A change of BOOT, with its class-6 event (R388). -/
def bootTo (s : State) (b fail : Nat) : State :=
  raise { s with host := { s.host with boot := b, fail := fail } } 6 b (BitVec.ofNat 64 fail)

/-- The bytes of the flash, 64 MiB, and those of an image's signature (R392). -/
def flashSize : Nat := 2 ^ 26
def sigSize : Nat := 29792

/-- The flash, of no more than its 64 MiB, and the repair map as they stand. -/
def flashOf (b : BootSt) : List Byte := (b.flash.getD Config.factoryFlash).take flashSize
def repairOf (b : BootSt) : List Byte := b.repair.getD Config.factoryRepairMap

/-- The 29,792 bytes of an image's signature, and the image less its signature (R392, R394). -/
def imageSig (img : List Byte) : List Byte := (img.drop (Config.sigAt img)).take sigSize
def imageBody (img : List Byte) : List Byte := img.take (Config.sigAt img) ++ img.drop (Config.sigAt img + sigSize)

/-- Step 1: the image fits the flash and holds a signature of its size, the public key's digest is the fused one, and the image verifies under it. -/
def imageVerifies (img : List Byte) : Bool :=
  let key := Config.imageKey img
  decide (img.length ≤ flashSize) && (imageSig img).length == sigSize && shake256 key == Config.fuseKeyDigest
    && Config.slhDsaAccepts key (imageBody img) (imageSig img)

/-- The component digests D1 to D4 (R394). -/
def bootDigests (b : BootSt) : List (List Byte) :=
  [shake256 Config.romCode, shake256 (imageBody (flashOf b)), shake256 (repairOf b), shake256 Config.fuseConfig]

/-- The chained measurement of digests, from 64 zero bytes (R394). -/
def chainDigests (l : List (List Byte)) : List Byte := l.foldl (fun m d => shake256 (m ++ d)) (List.replicate 64 0)

/-- The device as a reset leaves it: what outlives a reset is the flash, the repair map and host memory; the model's own counters go on. -/
def afterReset (s : State) : State :=
  { State.reset with
    agenda := s.agenda
    turns := s.turns
    free := s.free
    hostMem := s.hostMem
    poison := { State.reset.poison with host := s.poison.host }
    boot := { State.reset.boot with flash := s.boot.flash, repair := s.boot.repair } }

/-- The measurements kept (step 2). -/
def measured (s : State) : State :=
  let d := bootDigests s.boot
  { s with boot := { s.boot with digests := d, chain := chainDigests d } }

/-- Step 5: ready. The firmware has set XVECM, and the capability window stands in physical page 0 (R397). -/
def ready (s : State) : State :=
  bootTo { s with boot := { s.boot with xvecm := Config.fwXvecm }, hbm := Memory.wrN s.hbm 0 capWindow } 5 0

/-- Steps 3 to 5, by what the hardware finds. -/
def bootRest (s : State) (h : BootHw) : State :=
  let s3 := bootTo s 3 0
  if !h.mapOk then bootTo s3 7 0x02
  else if !h.stacksOk then bootTo s3 7 0x03
  else
    let s4 := bootTo s3 4 0
    if h.testOk then ready s4
    else openRec (bootTo s4 7 0x04) (errRec s4 0x52 0 0 0 0) none []

/-- RESET (R393): the reset and the boot that follows it. The first reset after a thermal trip leaves BOOT at 0 (R399, log entry 72). -/
def execReset (h : BootHw) (s : State) : Host.Outcome State Fault Refusal :=
  let s0 := afterReset s
  if !s.boot.powered then .next s0
  else
    let s1 := bootTo s0 1 0
    if imageVerifies (flashOf s1.boot) then .next (bootRest (measured (bootTo s1 2 0)) h)
    else .next (bootTo s1 6 0x01)

/-- THERMAL_TRIP (R399): the package powers down, with no record. -/
def execThermalTrip (s : State) : Host.Outcome State Fault Refusal :=
  let t := afterReset s
  .next { t with boot := { t.boot with powered := false } }

/-! ### The DOE mailbox (R395 to R397) -/

/-- Answer a request: the code of the response and its payload (log entry 12). -/
def answer (s : State) (code : Nat) (l : List Byte) : State := { s with boot := { s.boot with reply := some (code, l) } }

/-- SPDM's ERROR, UnsupportedRequest. -/
def unsupported (s : State) : State := answer s 0x7F [0x07]

/-- GET_VERSION (R395). -/
def execGetVersion (s : State) : Host.Outcome State Fault Refusal := .next (answer s 0x04 Config.spdmVersions)
/-- GET_CAPABILITIES (R395). -/
def execGetCapabilities (s : State) : Host.Outcome State Fault Refusal := .next (answer s 0x61 Config.spdmCapabilities)
/-- NEGOTIATE_ALGORITHMS (R395): SLH-DSA-SHAKE-256s, with SHAKE256 as the measurement hash. -/
def execNegotiateAlgorithms (s : State) : Host.Outcome State Fault Refusal :=
  .next (answer s 0x63 Config.spdmAlgorithms)
/-- GET_DIGESTS (R395). -/
def execGetDigests (s : State) : Host.Outcome State Fault Refusal := .next (answer s 0x01 Config.certDigest)
/-- GET_CERTIFICATE (R395): slot 0 holds the device identity chain; another slot holds none. -/
def execGetCertificate (slot : Nat) (s : State) : Host.Outcome State Fault Refusal :=
  .next (if slot = 0 then answer s 0x02 Config.certChain else unsupported s)
/-- CHALLENGE (R395): signed over the nonce and the chained measurement. -/
def execChallenge (slot : Nat) (nonce : List Byte) (s : State) : Host.Outcome State Fault Refusal :=
  .next (if slot = 0 then answer s 0x03 (Config.challengeAnswer slot nonce s.boot.chain) else unsupported s)
/-- GET_MEASUREMENTS (R395): index 1 to 4 returns Dk, index 5 returns M4. -/
def execGetMeasurements (idx : Nat) (s : State) : Host.Outcome State Fault Refusal :=
  .next (if 1 ≤ idx ∧ idx ≤ 4 then answer s 0x60 (nth [] s.boot.digests (idx - 1))
    else if idx = 5 then answer s 0x60 s.boot.chain else unsupported s)
/-- Every other request (R395): the request's code is not looked at. -/
def execUnsupportedRequest (_ : Byte) (s : State) : Host.Outcome State Fault Refusal := .next (unsupported s)

/-- IMAGE_TRANSFER (R396): in recovery the image is verified before the flash is written; the response says how that went. -/
def execImageTransfer (img : List Byte) (s : State) : Host.Outcome State Fault Refusal :=
  if s.host.boot ≠ 6 then .next (unsupported s)
  else if imageVerifies img then
    .next (answer { s with boot := { s.boot with flash := some img } } 0x7E [0])
  else .next (answer s 0x7E [1])

/-- REPAIR_MAP_REWRITE (R397): the map takes effect at the next reset, which reads it. -/
def execRepairMapRewrite (m : List Byte) (s : State) : Host.Outcome State Fault Refusal :=
  .next (answer { s with boot := { s.boot with repair := some m } } 0x7E [0])

end Sys2Proof.Machine
end

