-- ==== Sys2Proof/Machine/CtlFlow.lean ====
section
/-!
DEFINITION. The branch class and PUT (R162, R163, R169). A branch yields 0; where it leads takes effect at commit step 5.
-/
namespace Sys2Proof.Machine

/-- The target of the BR format (R110). -/
def brTarget (base : Word) (o : BitVec 16) : Word := base + (o.signExtend 64 <<< 4)

/-- A branch-class slot whose exit is known from its block. -/
def exitSlot (k : ExitKind) (p : Byte) (next : SlotCx → Word) (s : State) : Host.Outcome State Fault Refusal :=
  slotStep p (fun q t => (t, .done 0 (.exit k (next q)) 0)) s

/-- BR (R162). -/
def execBr (o : BitVec 16) (p : Byte) (s : State) := exitSlot .branch p (fun q => brTarget q.b.base o) s
/-- BRI (R162). -/
def execBri (a p : Byte) (s : State) := slot1T a p (fun _ _ u => .done 0 (.exit .branch u) 0) s
/-- RET (R162): as BRI. -/
def execRet (a p : Byte) (s : State) := slot1T a p (fun _ _ u => .done 0 (.exit .branch u) 0) s
/-- CALL (R162): next as BR, and g[D] receives c at step 1. -/
def execCall (o : BitVec 16) (p c d : Byte) (s : State) :=
  slot1T c p (fun q _ u => .done 0 (.call (brTarget q.b.base o) (d.toNat % 64) u) 0) s
/-- YIELD (R162). -/
def execYield (o : BitVec 16) (p : Byte) (s : State) := exitSlot .yield p (fun q => brTarget q.b.base o) s
/-- HALT (R162). -/
def execHalt (p : Byte) (s : State) := exitSlot .halt p (fun _ => 0) s
/-- ERET (R169): at privilege U it traps with PRIV. -/
def execEret (p : Byte) (s : State) :=
  slotStep p (fun q t => (t, if q.c.prv = .u then .trap 0x14 0 else .done 0 (.exit .eret q.c.xblock) 0)) s
/-- PUT (R163). -/
def execPut (a r p : Byte) (s : State) := slot1T a p (fun _ _ u => .done 0 (.put (r.toNat % 64) u) 0) s

end Sys2Proof.Machine
end

