-- ==== Sys2Proof/Machine/CtlFp.lean ====
section
/-!
DEFINITION. The FP32 instructions of the control core (R155 to R157).
-/
namespace Sys2Proof.Machine

/-- The FP32 value of an operand: bits [31:0] (R155). -/
def f32Of (u : Word) : FV := FF.f32.decI (u.toNat % 2 ^ 32)

/-- A slot's result from a code and its flags (R155). -/
def fpDone (r : Nat × Nat) : SlotRes := .done (BitVec.ofNat 64 r.1) .nothing (BitVec.ofNat 5 r.2)

/-- The rounding mode of the context as the block began (R135, R155). -/
def SlotCx.frm (q : SlotCx) : Nat := q.c.frm.toNat

/-- FADD (R155). -/
def execFadd (a b p : Byte) (s : State) :=
  slot2T a b p (fun q _ u v => fpDone (FF.f32.add q.frm 0 (f32Of u) (f32Of v))) s
/-- FSUB (R155). -/
def execFsub (a b p : Byte) (s : State) :=
  slot2T a b p (fun q _ u v => fpDone (FF.f32.add q.frm 0 (f32Of u) (f32Of v).neg)) s
/-- FMUL (R155). -/
def execFmul (a b p : Byte) (s : State) :=
  slot2T a b p (fun q _ u v => fpDone (FF.f32.mul q.frm 0 (f32Of u) (f32Of v))) s
/-- FFMA (R155): a · b + c with one rounding. -/
def execFfma (a b p c : Byte) (s : State) :=
  slot3T a b p c (fun q _ u v w => fpDone (FF.f32.fma q.frm 0 (f32Of u) (f32Of v) (f32Of w))) s
/-- FDIV (R155). -/
def execFdiv (a b p : Byte) (s : State) :=
  slot2T a b p (fun q _ u v => fpDone (FF.f32.div q.frm 0 (f32Of u) (f32Of v))) s
/-- FSQRT (R155). -/
def execFsqrt (a p : Byte) (s : State) := slot1T a p (fun q _ u => fpDone (FF.f32.sqrt q.frm (f32Of u))) s
/-- FMIN (R155): minimumNumber. -/
def execFmin (a b p : Byte) (s : State) :=
  slot2T a b p (fun _ _ u v => let r := fvMinMax false (f32Of u) (f32Of v); fpDone (FF.f32.out 0 0 r.1 r.2)) s
/-- FMAX (R155): maximumNumber. -/
def execFmax (a b p : Byte) (s : State) :=
  slot2T a b p (fun _ _ u v => let r := fvMinMax true (f32Of u) (f32Of v); fpDone (FF.f32.out 0 0 r.1 r.2)) s
/-- FCMP (R156): the condition in EXT M. -/
def execFcmp (a b p m : Byte) (s : State) :=
  slot2T a b p (fun _ _ u v =>
    let r := fvCond m.toNat (f32Of u) (f32Of v)
    fpDone (r.1.toNat, r.2)) s

/-- The conversion `m` of R157 of a value under a mode. -/
def fcvt (m rm : Nat) (u : Word) : Nat × Nat :=
  match m with
  | 0 => convLane 8 3 rm false (u.toNat % 2 ^ 32)
  | 1 => convLane 8 7 rm false (u.toNat % 2 ^ 32)
  | 2 => convLane 3 8 rm false u.toNat
  | 3 => convLane 7 8 rm false u.toNat
  | 4 => convLane 8 9 rm false (u.toNat % 2 ^ 32)
  | 5 => convLane 9 8 rm false (u.toNat % 2 ^ 16)
  | 6 => convLane 8 10 rm false (u.toNat % 2 ^ 32)
  | _ => convLane 10 8 rm false (u.toNat % 2 ^ 16)

/-- FCVT (R157): the conversion in EXT M, the rounding in b; a b above 4 traps with OPND_RANGE. -/
def execFcvt (a b p m : Byte) (s : State) :=
  slot2T a b p (fun q _ u v =>
    if v.toNat > 4 then .trap 0x13 0
    else fpDone (fcvt m.toNat (if v.toNat = 4 then q.frm else v.toNat) u)) s

/-- FCLASS (R155); it raises no flag. -/
def execFclass (a p : Byte) (s : State) :=
  slot1T a p (fun _ _ u => fpDone (fclass (u.toNat % 2 ^ 32), 0)) s

end Sys2Proof.Machine
end

