-- ==== Sys2Proof/Machine/Dispatch.lean ====
section
/-!
DEFINITION. The meaning of every instruction, one arm per constructor: a direct call of the instruction's own definition.
-/
namespace Sys2Proof.Machine

/-- What one instruction does. -/
def exec (i : Instr) (s : State) : Host.Outcome State Fault Refusal :=
  match i with
  | .add a b p => Sys2Proof.Machine.execAdd a b p s
  | .sub a b p => Sys2Proof.Machine.execSub a b p s
  | .mul a b p => Sys2Proof.Machine.execMul a b p s
  | .mulh a b p => Sys2Proof.Machine.execMulh a b p s
  | .mulhn a b p => Sys2Proof.Machine.execMulhn a b p s
  | .div a b p => Sys2Proof.Machine.execDiv a b p s
  | .divn a b p => Sys2Proof.Machine.execDivn a b p s
  | .rem a b p => Sys2Proof.Machine.execRem a b p s
  | .remn a b p => Sys2Proof.Machine.execRemn a b p s
  | .and a b p => Sys2Proof.Machine.execAnd a b p s
  | .or a b p => Sys2Proof.Machine.execOr a b p s
  | .xor a b p => Sys2Proof.Machine.execXor a b p s
  | .andn a b p => Sys2Proof.Machine.execAndn a b p s
  | .shl a b p => Sys2Proof.Machine.execShl a b p s
  | .shr a b p => Sys2Proof.Machine.execShr a b p s
  | .sar a b p => Sys2Proof.Machine.execSar a b p s
  | .rol a b p => Sys2Proof.Machine.execRol a b p s
  | .min a b p => Sys2Proof.Machine.execMin a b p s
  | .max a b p => Sys2Proof.Machine.execMax a b p s
  | .minn a b p => Sys2Proof.Machine.execMinn a b p s
  | .maxn a b p => Sys2Proof.Machine.execMaxn a b p s
  | .clz a p => Sys2Proof.Machine.execClz a p s
  | .popc a p => Sys2Proof.Machine.execPopc a p s
  | .sext a b p => Sys2Proof.Machine.execSext a b p s
  | .zext a b p => Sys2Proof.Machine.execZext a b p s
  | .bext a b p c => Sys2Proof.Machine.execBext a b p c s
  | .bins a b p c => Sys2Proof.Machine.execBins a b p c s
  | .sel a b p c => Sys2Proof.Machine.execSel a b p c s
  | .cmpEq a b p => Sys2Proof.Machine.execCmpEq a b p s
  | .cmpNe a b p => Sys2Proof.Machine.execCmpNe a b p s
  | .cmpLt a b p => Sys2Proof.Machine.execCmpLt a b p s
  | .cmpLe a b p => Sys2Proof.Machine.execCmpLe a b p s
  | .cmpLtn a b p => Sys2Proof.Machine.execCmpLtn a b p s
  | .cmpLen a b p => Sys2Proof.Machine.execCmpLen a b p s
  | .test a b p => Sys2Proof.Machine.execTest a b p s
  | .imm v => Sys2Proof.Machine.execImm v s
  | .immh a v => Sys2Proof.Machine.execImmh a v s
  | .rds r p => Sys2Proof.Machine.execRds r p s
  | .rdx a b p => Sys2Proof.Machine.execRdx a b p s
  | .fadd a b p => Sys2Proof.Machine.execFadd a b p s
  | .fsub a b p => Sys2Proof.Machine.execFsub a b p s
  | .fmul a b p => Sys2Proof.Machine.execFmul a b p s
  | .ffma a b p c => Sys2Proof.Machine.execFfma a b p c s
  | .fdiv a b p => Sys2Proof.Machine.execFdiv a b p s
  | .fsqrt a p => Sys2Proof.Machine.execFsqrt a p s
  | .fmin a b p => Sys2Proof.Machine.execFmin a b p s
  | .fmax a b p => Sys2Proof.Machine.execFmax a b p s
  | .fcmp a b p m => Sys2Proof.Machine.execFcmp a b p m s
  | .fcvt a b p m => Sys2Proof.Machine.execFcvt a b p m s
  | .fclass a p => Sys2Proof.Machine.execFclass a p s
  | .ldB a b p => Sys2Proof.Machine.execLdB a b p s
  | .ldH a b p => Sys2Proof.Machine.execLdH a b p s
  | .ldW a b p => Sys2Proof.Machine.execLdW a b p s
  | .ldD a b p => Sys2Proof.Machine.execLdD a b p s
  | .ldnB a b p => Sys2Proof.Machine.execLdnB a b p s
  | .ldnH a b p => Sys2Proof.Machine.execLdnH a b p s
  | .ldnW a b p => Sys2Proof.Machine.execLdnW a b p s
  | .stB a b p => Sys2Proof.Machine.execStB a b p s
  | .stH a b p => Sys2Proof.Machine.execStH a b p s
  | .stW a b p => Sys2Proof.Machine.execStW a b p s
  | .stD a b p => Sys2Proof.Machine.execStD a b p s
  | .ldr x p => Sys2Proof.Machine.execLdr x p s
  | .pref a p => Sys2Proof.Machine.execPref a p s
  | .aadd a b p d => Sys2Proof.Machine.execAadd a b p d s
  | .aand a b p d => Sys2Proof.Machine.execAand a b p d s
  | .aor a b p d => Sys2Proof.Machine.execAor a b p d s
  | .axor a b p d => Sys2Proof.Machine.execAxor a b p d s
  | .amin a b p d => Sys2Proof.Machine.execAmin a b p d s
  | .amax a b p d => Sys2Proof.Machine.execAmax a b p d s
  | .axchg a b p d => Sys2Proof.Machine.execAxchg a b p d s
  | .acas a b p c d => Sys2Proof.Machine.execAcas a b p c d s
  | .br o p => Sys2Proof.Machine.execBr o p s
  | .bri a p => Sys2Proof.Machine.execBri a p s
  | .call o p c d => Sys2Proof.Machine.execCall o p c d s
  | .ret a p => Sys2Proof.Machine.execRet a p s
  | .put a r p => Sys2Proof.Machine.execPut a r p s
  | .yield o p => Sys2Proof.Machine.execYield o p s
  | .halt p => Sys2Proof.Machine.execHalt p s
  | .fence r p => Sys2Proof.Machine.execFence r p s
  | .wait a p => Sys2Proof.Machine.execWait a p s
  | .signal a b p => Sys2Proof.Machine.execSignal a b p s
  | .bar a p => Sys2Proof.Machine.execBar a p s
  | .qpop a p => Sys2Proof.Machine.execQpop a p s
  | .qpush a b p c => Sys2Proof.Machine.execQpush a b p c s
  | .bbarm a b p => Sys2Proof.Machine.execBbarm a b p s
  | .scmd a b p => Sys2Proof.Machine.execScmd a b p s
  | .scmdk x p => Sys2Proof.Machine.execScmdk x p s
  | .sqry a p => Sys2Proof.Machine.execSqry a p s
  | .trap c p => Sys2Proof.Machine.execTrap c p s
  | .sys c p => Sys2Proof.Machine.execSys c p s
  | .rdcsr r p => Sys2Proof.Machine.execRdcsr r p s
  | .wrcsr a r p => Sys2Proof.Machine.execWrcsr a r p s
  | .eret p => Sys2Proof.Machine.execEret p s
  | .xlate a b p => Sys2Proof.Machine.execXlate a b p s
  | .blockFetch x => Sys2Proof.Machine.execBlockFetch x s
  | .blockCommit x => Sys2Proof.Machine.execBlockCommit x s
  | .asyncEventTake x => Sys2Proof.Machine.execAsyncEventTake x s
  | .yieldwaitEnd x => Sys2Proof.Machine.execYieldwaitEnd x s
  | .waitTimeout x k => Sys2Proof.Machine.execWaitTimeout x k s
  | .peerArrivalMessage phase level group dev => Sys2Proof.Machine.execPeerArrivalMessage phase level group dev s
  | .tidemarkCredit k => Sys2Proof.Machine.execTidemarkCredit k s
  | .bindAff c => Sys2Proof.Machine.execBindAff c s
  | .bindInd c => Sys2Proof.Machine.execBindInd c s
  | .bindScat c => Sys2Proof.Machine.execBindScat c s
  | .bindShore c => Sys2Proof.Machine.execBindShore c s
  | .unbind c => Sys2Proof.Machine.execUnbind c s
  | .unbindTakesEffect cv p => Sys2Proof.Machine.execUnbindTakesEffect cv p s
  | .armCopy c => Sys2Proof.Machine.execArmCopy c s
  | .disarmCopy c => Sys2Proof.Machine.execDisarmCopy c s
  | .cfgLoad c => Sys2Proof.Machine.execCfgLoad c s
  | .cfgSwap c => Sys2Proof.Machine.execCfgSwap c s
  | .cfgPred c => Sys2Proof.Machine.execCfgPred c s
  | .drain c => Sys2Proof.Machine.execDrain c s
  | .phase c => Sys2Proof.Machine.execPhase c s
  | .taskLaunch c => Sys2Proof.Machine.execTaskLaunch c s
  | .taskDep c => Sys2Proof.Machine.execTaskDep c s
  | .couple c => Sys2Proof.Machine.execCouple c s
  | .permitAdj c => Sys2Proof.Machine.execPermitAdj c s
  | .mslot c => Sys2Proof.Machine.execMslot c s
  | .sampleCfg c => Sys2Proof.Machine.execSampleCfg c s
  | .umxOpen c => Sys2Proof.Machine.execUmxOpen c s
  | .umxClose c => Sys2Proof.Machine.execUmxClose c s
  | .xinv c => Sys2Proof.Machine.execXinv c s
  | .fresume c => Sys2Proof.Machine.execFresume c s
  | .park c => Sys2Proof.Machine.execPark c s
  | .unpark c => Sys2Proof.Machine.execUnpark c s
  | .logDrain c => Sys2Proof.Machine.execLogDrain c s
  | .quiesce c => Sys2Proof.Machine.execQuiesce c s
  | .ckpt c => Sys2Proof.Machine.execCkpt c s
  | .shoreWin c => Sys2Proof.Machine.execShoreWin c s
  | .checkpointDone => Sys2Proof.Machine.execCheckpointDone s
  | .tokenArrive ch => Sys2Proof.Machine.execTokenArrive ch s
  | .antiTokenArrive ch => Sys2Proof.Machine.execAntiTokenArrive ch s
  | .creditReturn ch => Sys2Proof.Machine.execCreditReturn ch s
  | .cancelFiring n => Sys2Proof.Machine.execCancelFiring n s
  | .drainInject rid k => Sys2Proof.Machine.execDrainInject rid k s
  | .phaseEnd rid => Sys2Proof.Machine.execPhaseEnd rid s
  | .deadlockDetect rid => Sys2Proof.Machine.execDeadlockDetect rid s
  | .routerBlockedEscape die router => Sys2Proof.Machine.execRouterBlockedEscape die router s
  | .nodeAdd n => Sys2Proof.Machine.execNodeAdd n s
  | .nodeSub n => Sys2Proof.Machine.execNodeSub n s
  | .nodeMul n => Sys2Proof.Machine.execNodeMul n s
  | .nodeMulh n => Sys2Proof.Machine.execNodeMulh n s
  | .nodeMad n => Sys2Proof.Machine.execNodeMad n s
  | .nodeAbs n => Sys2Proof.Machine.execNodeAbs n s
  | .nodeNeg n => Sys2Proof.Machine.execNodeNeg n s
  | .nodeMin n => Sys2Proof.Machine.execNodeMin n s
  | .nodeMax n => Sys2Proof.Machine.execNodeMax n s
  | .nodeAnd n => Sys2Proof.Machine.execNodeAnd n s
  | .nodeOr n => Sys2Proof.Machine.execNodeOr n s
  | .nodeXor n => Sys2Proof.Machine.execNodeXor n s
  | .nodeNot n => Sys2Proof.Machine.execNodeNot n s
  | .nodeShl n => Sys2Proof.Machine.execNodeShl n s
  | .nodeShr n => Sys2Proof.Machine.execNodeShr n s
  | .nodeSar n => Sys2Proof.Machine.execNodeSar n s
  | .nodeClamp n => Sys2Proof.Machine.execNodeClamp n s
  | .nodeCmp n => Sys2Proof.Machine.execNodeCmp n s
  | .nodeSel n => Sys2Proof.Machine.execNodeSel n s
  | .nodeAdds n => Sys2Proof.Machine.execNodeAdds n s
  | .nodeSubs n => Sys2Proof.Machine.execNodeSubs n s
  | .nodeFadd n => Sys2Proof.Machine.execNodeFadd n s
  | .nodeFsub n => Sys2Proof.Machine.execNodeFsub n s
  | .nodeFmul n => Sys2Proof.Machine.execNodeFmul n s
  | .nodeFma n => Sys2Proof.Machine.execNodeFma n s
  | .nodeFmin n => Sys2Proof.Machine.execNodeFmin n s
  | .nodeFmax n => Sys2Proof.Machine.execNodeFmax n s
  | .frcp n => Sys2Proof.Machine.execFrcp n s
  | .frsq n => Sys2Proof.Machine.execFrsq n s
  | .fexp2 n => Sys2Proof.Machine.execFexp2 n s
  | .flog2 n => Sys2Proof.Machine.execFlog2 n s
  | .nodeFcmp n => Sys2Proof.Machine.execNodeFcmp n s
  | .nodeFdiv n => Sys2Proof.Machine.execNodeFdiv n s
  | .cvt n => Sys2Proof.Machine.execCvt n s
  | .packb n => Sys2Proof.Machine.execPackb n s
  | .unpackb n => Sys2Proof.Machine.execUnpackb n s
  | .perm n => Sys2Proof.Machine.execPerm n s
  | .reduce n => Sys2Proof.Machine.execReduce n s
  | .acc n => Sys2Proof.Machine.execAcc n s
  | .scan n => Sys2Proof.Machine.execScan n s
  | .hdr n => Sys2Proof.Machine.execHdr n s
  | .splat n => Sys2Proof.Machine.execSplat n s
  | .fork n => Sys2Proof.Machine.execFork n s
  | .steer n => Sys2Proof.Machine.execSteer n s
  | .merge n => Sys2Proof.Machine.execMerge n s
  | .mux n => Sys2Proof.Machine.execMux n s
  | .join n => Sys2Proof.Machine.execJoin n s
  | .gate n => Sys2Proof.Machine.execGate n s
  | .drop n => Sys2Proof.Machine.execDrop n s
  | .source n => Sys2Proof.Machine.execSource n s
  | .sink n => Sys2Proof.Machine.execSink n s
  | .cchain n => Sys2Proof.Machine.execCchain n s
  | .carry n => Sys2Proof.Machine.execCarry n s
  | .exit n => Sys2Proof.Machine.execExit n s
  | .tile n => Sys2Proof.Machine.execTile n s
  | .isect n => Sys2Proof.Machine.execIsect n s
  | .union n => Sys2Proof.Machine.execUnion n s
  | .ctxsel n => Sys2Proof.Machine.execCtxsel n s
  | .ande n => Sys2Proof.Machine.execAnde n s
  | .ore n => Sys2Proof.Machine.execOre n s
  | .squash n => Sys2Proof.Machine.execSquash n s
  | .sync n => Sys2Proof.Machine.execSync n s
  | .ld n => Sys2Proof.Machine.execLd n s
  | .st n => Sys2Proof.Machine.execSt n s
  | .atom n => Sys2Proof.Machine.execAtom n s
  | .pin n => Sys2Proof.Machine.execPin n s
  | .pout n => Sys2Proof.Machine.execPout n s
  | .gather n => Sys2Proof.Machine.execGather n s
  | .scatter n => Sys2Proof.Machine.execScatter n s
  | .copyfire n => Sys2Proof.Machine.execCopyfire n s
  | .dirty n => Sys2Proof.Machine.execDirty n s
  | .ord n => Sys2Proof.Machine.execOrd n s
  | .mma n => Sys2Proof.Machine.execMma n s
  | .mxseq n => Sys2Proof.Machine.execMxseq n s
  | .sortce n => Sys2Proof.Machine.execSortce n s
  | .topk n => Sys2Proof.Machine.execTopk n s
  | .cumthr n => Sys2Proof.Machine.execCumthr n s
  | .accept n => Sys2Proof.Machine.execAccept n s
  | .resid n => Sys2Proof.Machine.execResid n s
  | .umrank n => Sys2Proof.Machine.execUmrank n s
  | .headmask n => Sys2Proof.Machine.execHeadmask n s
  | .matrixCommandPerform cv plane => Sys2Proof.Machine.execMatrixCommandPerform cv plane s
  | .matrixEmit cv plane => Sys2Proof.Machine.execMatrixEmit cv plane s
  | .matrixTurnEnd cv => Sys2Proof.Machine.execMatrixTurnEnd cv s
  | .waveAccept ce => Sys2Proof.Machine.execWaveAccept ce s
  | .memoryReply id => Sys2Proof.Machine.execMemoryReply id s
  | .portElementIssue cv p => Sys2Proof.Machine.execPortElementIssue cv p s
  | .copyQueueToken cv q => Sys2Proof.Machine.execCopyQueueToken cv q s
  | .gatherElement job => Sys2Proof.Machine.execGatherElement job s
  | .scatterElement job => Sys2Proof.Machine.execScatterElement job s
  | .umxStep eng => Sys2Proof.Machine.execUmxStep eng s
  | .translationWalk k => Sys2Proof.Machine.execTranslationWalk k s
  | .recordRelease idx => Sys2Proof.Machine.execRecordRelease idx s
  | .fatalFault k => Sys2Proof.Machine.execFatalFault k s
  | .dispatchDecision => Sys2Proof.Machine.execDispatchDecision s
  | .priorityAging q => Sys2Proof.Machine.execPriorityAging q s
  | .candidateBlocking q => Sys2Proof.Machine.execCandidateBlocking q s
  | .taskRetire rid => Sys2Proof.Machine.execTaskRetire rid s
  | .watchdogExpiry rid => Sys2Proof.Machine.execWatchdogExpiry rid s
  | .regulatorPeriod rid k => Sys2Proof.Machine.execRegulatorPeriod rid k s
  | .permitWindow rid => Sys2Proof.Machine.execPermitWindow rid s
  | .powerStretch die power => Sys2Proof.Machine.execPowerStretch die power s
  | .thermalThrottle die power => Sys2Proof.Machine.execThermalThrottle die power s
  | .thermalTrip => Sys2Proof.Machine.execThermalTrip s
  | .corrSum => Sys2Proof.Machine.execCorrSum s
  | .uncorrectedError e => Sys2Proof.Machine.execUncorrectedError e s
  | .patrolScrub stack row corrected spare => Sys2Proof.Machine.execPatrolScrub stack row corrected spare s
  | .rowSpared stack row => Sys2Proof.Machine.execRowSpared stack row s
  | .bucketDecay => Sys2Proof.Machine.execBucketDecay s
  | .linkDown l => Sys2Proof.Machine.execLinkDown l s
  | .peerLinkUp l => Sys2Proof.Machine.execPeerLinkUp l s
  | .peerRequest q => Sys2Proof.Machine.execPeerRequest q s
  | .hostMemoryAccess write pa bytes => Sys2Proof.Machine.execHostMemoryAccess write pa bytes s
  | .launch q a => Sys2Proof.Machine.execLaunch q a s
  | .evtail v => Sys2Proof.Machine.execEvtail v s
  | .eventEntry => Sys2Proof.Machine.execEventEntry s
  | .registerWrite off v => Sys2Proof.Machine.execRegisterWrite off v s
  | .reset h => Sys2Proof.Machine.execReset h s
  | .getVersion => Sys2Proof.Machine.execGetVersion s
  | .getCapabilities => Sys2Proof.Machine.execGetCapabilities s
  | .negotiateAlgorithms => Sys2Proof.Machine.execNegotiateAlgorithms s
  | .getDigests => Sys2Proof.Machine.execGetDigests s
  | .getCertificate slot => Sys2Proof.Machine.execGetCertificate slot s
  | .challenge slot nonce => Sys2Proof.Machine.execChallenge slot nonce s
  | .getMeasurements idx => Sys2Proof.Machine.execGetMeasurements idx s
  | .unsupportedRequest code => Sys2Proof.Machine.execUnsupportedRequest code s
  | .imageTransfer img => Sys2Proof.Machine.execImageTransfer img s
  | .repairMapRewrite m => Sys2Proof.Machine.execRepairMapRewrite m s
  | .hcmd1Write v => Sys2Proof.Machine.execHcmd1Write v s
  | .clockStretchingEnd die power => Sys2Proof.Machine.execClockStretchingEnd die power s

end Sys2Proof.Machine
end

