-- ==== Sys2Proof/Machine/Fetch.lean ====
section
/-!
DEFINITION. What a turn executes: the turn itself, and the instruction that its agent has before it, read from the block in flight, from
the node that a cell's arbitration picks, or from the head of a scoreboard.
-/
namespace Sys2Proof.Machine

/-- The next turn: the first of the agenda, or with none a turn left open (log entry 1); turns are counted. -/
def takeTurn (s : State) : State × Turn :=
  match s.agenda with
  | t :: r => ({ s with agenda := r, turns := s.turns + 1 }, t)
  | [] => ({ s with turns := s.turns + 1 }, Config.freeTurn s.turns)

/-- What an agent has before it: nothing to do, bits that decode to nothing, an instruction, or what no agent can be. -/
inductive Fetched where
  | idle
  | bad
  | instr (i : Instr)
  | wrong
  deriving DecidableEq, Repr

/-- The instruction of slot `k` of the block in flight of context `x`, with the EXT word that may follow it (R104, R111). -/
def fetchSlot (s : State) (x k : Nat) : Fetched :=
  match (s.ctx x).blk with
  | none => .idle
  | some b =>
    match b.body[k]? with
    | none => .idle
    | some w =>
      if b.isExt k then .idle
      else match decodeSlot w b.body[k + 1]? with
        | .ok i => .instr i
        | .error _ => .bad

/-- The command at the head of a scoreboard (R177). -/
def fetchCmd (s : State) (sb : Nat) : Fetched :=
  match sbCmds s sb with
  | [] => .idle
  | c :: _ =>
    match decodeCmd c.w with
    | .ok i => .instr i
    | .error _ => .bad

/-- Whether an instruction is an event. -/
def isEvent (i : Instr) : Bool :=
  match encode i with
  | .event => true
  | _ => false

/-- Whether a turn of slot `k` would execute it: it has not begun, and its turn changes the block in flight. -/
def slotGoes (s : State) (x k : Nat) : Bool :=
  match (s.ctx x).blk with
  | none => false
  | some b =>
    (b.slot k).isNone && (match fetchSlot s x k with
      | .instr i => (match exec i { s with focus := .slot x k } with | .next t => decide ((t.ctx x).blk ≠ some b) | _ => false)
      | _ => false)

/-- Whether a context is ready to issue (R130). -/
def ctxGoes (s : State) (x : Nat) : Bool :=
  match (s.ctx x).st, (s.ctx x).blk with
  | .run, some b => (span 0 b.body.length).any (slotGoes s x)
  | _, _ => false

/-- Whether context `x` is the one whose slots its core issues in this clock (R130): the one that has issued in it, or, with none, the first after
the last one in turn that is ready. How many of its slots a context issues in its clock is left open (log entry 111). -/
def coreTurn (s : State) (x : Nat) : Bool :=
  let v := s.cove (cvOfX x)
  if v.issueAt = some (cycleOf s (cvOfX x)) then decide (v.lastCtx = x % 4)
  else (span 1 ((x + 3 - v.lastCtx) % 4)).all fun i => !ctxGoes s (4 * cvOfX x + (v.lastCtx + i) % 4)

/-- A slot that would execute is issued when it is its context's turn; a slot that has begun is there already. -/
def issueSlot (s : State) (x k : Nat) : State × Bool :=
  if !slotGoes s x k then (s, true)
  else if coreTurn s x then
    let v := s.cove (cvOfX x)
    (s.setCove (cvOfX x) { v with lastCtx := x % 4, issueAt := some (cycleOf s (cvOfX x)) }, true)
  else (s, false)

/-- What a turn's agent executes, with the state in which it does: its focus set, a core's turn taken (R130), a cell's credits moved (R325). -/
def fetch (s : State) : Who → State × Fetched
  | .slot x k =>
    match issueSlot s x k with
    | (s1, true) => ({ s1 with focus := .slot x k }, fetchSlot s1 x k)
    | (s1, false) => ({ s1 with focus := .slot x k }, .idle)
  | .cmd sb => ({ s with focus := .cmd sb }, fetchCmd s sb)
  | .event i => ({ s with focus := .none }, if isEvent i then .instr i else .wrong)
  | .cell ce =>
    match arbitrate s ce with
    | (s1, some (n, i)) => ({ s1 with focus := .node n }, .instr i)
    | (s1, none) => (s1, .idle)

/-- Whether the device takes the turn: a package without power takes a reset alone (R399). -/
def takes (s : State) (w : Who) : Bool :=
  s.boot.powered || (match w with | .event (.reset _) => true | _ => false)

/-- A block of three words in flight: IMM 1 in slot 0, which has yielded 1, and the words of an instruction after it. -/
def oneBlock (w : Nat) : Blk where
  base := 0
  body := [0x28000001, BitVec.ofNat 32 w, BitVec.ofNat 32 (w / 2 ^ 32)]
  pool := []
  apend := false
  slots := [(0, .done 1 .nothing 0)]

/-- Context 0 runs a block whose slot 1 is this instruction, the turn to issue is its, and the next turn is that slot's. -/
def withSlot (s : State) (w : Nat) : State :=
  let t := s.setCtx 0 { s.ctx 0 with st := .run, blk := some (oneBlock w) }
  { t.setCove 0 { t.cove 0 with lastCtx := 3, issueAt := none } with agenda := [⟨0, .slot 0 1, []⟩] }

/-- A command of the host at the head of the mailbox, and the next turn is its. -/
def withCmd (s : State) (w : Nat) : State :=
  { s with
    sbs := Tab.insert s.sbs mailbox [Cmd.mk (BitVec.ofNat 128 w) 0 hostRid .m true [] none none]
    agenda := [⟨0, .cmd mailbox, []⟩] }

end Sys2Proof.Machine
end

