-- ==== Sys2Proof/Machine/Step.lean ====
section
/-!
DEFINITION. One step of the device: a turn is taken, its clocks pass, and its agent executes the one instruction that it has before it.
-/
namespace Sys2Proof.Machine

/-- The step once the turn is taken and its clocks have passed. -/
def stepAs (s : State) (w : Who) : Host.Outcome State Fault Refusal :=
  match fetch s w with
  | (t, .instr i) => exec i t
  | (t, .idle) => .next t
  | (_, .bad) => .refused .noDecode
  | (_, .wrong) => .fault .notAnEvent

/-- One step of the machine: the turn's clocks pass, what the hardware has corrected in them is counted (R362), and its agent executes. -/
def step (s : State) : Host.Outcome State Fault Refusal :=
  let t := takeTurn s
  if takes t.1 t.2.who then stepAs (senseAll (tick t.1 t.2.dt) t.2.sensed) t.2.who else .next t.1

/-- `s` with an instruction of `nbits` bits where the very next step executes it (log entry 15). -/
def State.withFetchWord (s : State) (nbits w : Nat) : State := if nbits ≤ 64 then withSlot s w else withCmd s w

end Sys2Proof.Machine
end

