-- ==== Sys2Proof/Certificates/Slice0/Terms.lean ====
section
/-!
DEFINITION. The terms of the statements: when a slot, a node or a command is ready, what it then does, and what stays as it was.
-/
namespace Sys2Proof.Machine

/-! ### Slots -/

/-- Slot `k` of context `x` executes in this step: the focus is on it, the context runs block `b`, the slot has not executed, and its
predicate byte `p` lets it (R109, R137). -/
structure Executes (s : State) (x k : Nat) (b : Blk) (p : Byte) : Prop where
  focus : s.focus = .slot x k
  run   : (s.ctx x).st = .run
  blk   : (s.ctx x).blk = some b
  fresh : canRun b k = true
  pred  : predOf b p = some true

/-- The value that operand byte `o` has in block `b` of context `x` (R107). -/
def Operand (s : State) (x : Nat) (b : Blk) (o : Byte) (v : Word) : Prop := opnd s x (s.ctx x) b o = some v

/-- The state of slot `k` of the block in flight of context `x`. -/
def slotAt (s : State) (x k : Nat) : Option SlotSt := (s.ctx x).blk.bind fun b => b.slot k

/-- Every byte of memory of `t` reads as in `s`. -/
def SameMemory (s t : State) : Prop :=
  ∀ a, t.hbm.rd a = s.hbm.rd a ∧ t.hostMem.rd a = s.hostMem.rd a ∧ t.shore.rd a = s.shore.rd a

/-- A context without the block in flight: its registers, control and status registers, flags, mode and place in the program. -/
def Ctx.outside (c : Ctx) : Ctx := { c with blk := none }

/-- A block without what its slots have done. -/
def Blk.outside (b : Blk) : Blk := { b with slots := [] }

/-- `t` is `s` but for what slot `k` of context `x` has come to. -/
structure OnlySlot (s t : State) (x k : Nat) : Prop where
  memory : SameMemory s t
  regs   : ∀ y r, (t.ctx y).reg r = (s.ctx y).reg r
  ctxs   : ∀ y, (t.ctx y).outside = (s.ctx y).outside
  blocks : ∀ y, (t.ctx y).blk.map Blk.outside = (s.ctx y).blk.map Blk.outside
  slots  : ∀ y j, ¬(y = x ∧ j = k) → slotAt t y j = slotAt s y j
  coves  : ∀ cv, { t.cove cv with ctxs := [] } = { s.cove cv with ctxs := [] }
  rest   : { t with coves := [] } = { s with coves := [] }

/-- `t` is `s` but for what slot `k` of context `x` has come to, the translation caches, the read buffers, the count of free values, and what the
permit meter of the context's residency has counted (R331). -/
structure OnlySlotMetered (s t : State) (x k : Nat) : Prop where
  memory : SameMemory s t
  regs   : ∀ y r, (t.ctx y).reg r = (s.ctx y).reg r
  ctxs   : ∀ y, (t.ctx y).outside = (s.ctx y).outside
  blocks : ∀ y, (t.ctx y).blk.map Blk.outside = (s.ctx y).blk.map Blk.outside
  slots  : ∀ y j, ¬(y = x ∧ j = k) → slotAt t y j = slotAt s y j
  coves  : ∀ cv, { t.cove cv with ctxs := [], rbuf := [] } = { s.cove cv with ctxs := [], rbuf := [] }
  meter  : ∃ f : Act → Act, t.res = Tab.modify s.res (s.ctx x).rid fun r => { r with act := f r.act }
  rest   : { t with coves := [], tlb := [], free := 0, res := [] } = { s with coves := [], tlb := [], free := 0, res := [] }

/-- As `OnlySlotMetered`, where the permit meters stay too. -/
structure OnlySlotCached (s t : State) (x k : Nat) : Prop extends OnlySlotMetered s t x k where
  still : t.res = s.res

/-- `t` is `s` but for context `x`. -/
structure OnlyCtx (s t : State) (x : Nat) : Prop where
  memory : SameMemory s t
  others : ∀ y, y ≠ x → t.ctx y = s.ctx y
  coves  : ∀ cv, { t.cove cv with ctxs := [] } = { s.cove cv with ctxs := [] }
  rest   : { t with coves := [] } = { s with coves := [] }

/-- `t` has the contexts of `s`, its memory, its cells and its residencies. -/
structure SameOutside (s t : State) : Prop where
  memory : SameMemory s t
  ctxs   : ∀ y, t.ctx y = s.ctx y
  cells  : t.cells = s.cells
  res    : t.res = s.res

/-- Instruction `i` completes in slot `k` of context `x` with value `v`, effect at commit `e` and FP32 flags `fl`, and changes nothing
else. -/
def Does (i : Instr) (s : State) (x k : Nat) (v : Word) (e : Eff) (fl : BitVec 5) : Prop :=
  ∃ t, exec i s = .next t ∧ slotAt t x k = some (.done v e fl) ∧ OnlySlot s t x k

/-- As `Does`, where the caches may change too. -/
def DoesCached (i : Instr) (s : State) (x k : Nat) (v : Word) (e : Eff) (fl : BitVec 5) : Prop :=
  ∃ t, exec i s = .next t ∧ slotAt t x k = some (.done v e fl) ∧ OnlySlotCached s t x k

/-- As `DoesCached`, where the permit meter counts what is read. -/
def DoesMetered (i : Instr) (s : State) (x k : Nat) (v : Word) (e : Eff) (fl : BitVec 5) : Prop :=
  ∃ t, exec i s = .next t ∧ slotAt t x k = some (.done v e fl) ∧ OnlySlotMetered s t x k

/-- Instruction `i` completes in slot `k` with value `v`, has no effect at commit and raises no flag. -/
def Yields (i : Instr) (s : State) (x k : Nat) (v : Word) : Prop := Does i s x k v .nothing 0

/-- Instruction `i` traps in slot `k` with a cause and an address; the trap is taken as R140 says. -/
def TrapsWith (i : Instr) (s : State) (x k : Nat) (cause : BitVec 8) (addr : Word) : Prop :=
  exec i s = .next (settle (setSlot s x k (.trapped cause addr)) x)

/-! ### Blocks -/

/-- The block of context `x` can commit: every slot has executed or is predicated off, and the executed ones are slot `k` with effect `e` and
flags `fl` and then a branch to `nx`; no arrival stands at a level barrier. -/
structure Commits (s : State) (x k : Nat) (b : Blk) (e : Eff) (fl : BitVec 5) (nx : Word) : Prop where
  run  : (s.ctx x).st = .run
  blk  : (s.ctx x).blk = some b
  fin  : b.finished = true
  done : ∃ m, b.doneSlots = [⟨k, e, fl⟩, ⟨m, .exit .branch nx, 0⟩]
  arrs : s.arrs = []

/-- The finished block of context `x` traps at commit, for the command of slot `k`, with the cause of the first condition of the list that holds; with
none it passes the checks (R119, R178). -/
def CheckedAs (s : State) (x k : Nat) (b : Blk) : List (Prop × Nat) → Prop
  | [] => commitTrap s x (s.ctx x) b b.doneSlots = none
  | (p, cause) :: l =>
    (p → exec (.blockCommit x) s = .next (takeTrap s x cause k b.base 0)) ∧ (¬p → CheckedAs s x k b l)

/-- Context `c` after the commit of a block with FP32 flags `fl` that goes on at `nx`. -/
def Ctx.committed (c : Ctx) (fl : BitVec 5) (nx : Word) : Ctx :=
  { c with ff := c.ff ||| fl, commits := c.commits + 1, blk := none, next := nx }

/-! ### Nodes -/

/-- The step is node `n`'s, its word is `w`, its outputs have space, and the inputs `l` have the heads that `hd` gives (R40). -/
structure NodeAt (s : State) (n : Nat) (w : NodeW) (l : List Nat) (hd : Nat → Tok) : Prop where
  focus : s.focus = .node n
  rooms : (ncx s n w).rooms = true
  tops  : ∀ i ∈ l, (ncx s n w).hd i = some (hd i)

/-- As `NodeAt`, where the heads of `l` are operands: no delimiter, HDR or DRAIN is due (R34). -/
structure NodeReady (s : State) (n : Nat) (w : NodeW) (l : List Nat) (hd : Nat → Tok) : Prop extends NodeAt s n w l hd where
  due : heads (ncx s n w) true l = .data

/-- A node that is ready on DATA, and on a CTRL token at the control input of a two-entry node (R71). -/
structure LaneReady (s : State) (n : Nat) (w : NodeW) (l : List Nat) (hd : Nat → Tok) : Prop extends NodeReady s n w l hd where
  kinds : ∀ i ∈ l, (hd i).k = if w.t = true ∧ i = 2 then 6 else 0

/-- A token that is an operand: no delimiter, HDR, DRAIN or reserved kind (R33). -/
def Tok.operand (t : Tok) : Prop := t.k = 0 ∨ t.k = 6 ∨ t.k = 7 ∨ t.k = 8 ∨ t.k = 9

/-- Instruction `i` at node `n` makes the firing `f`. -/
def Fires (i : Instr) (s : State) (n : Nat) (w : NodeW) (f : Fire) : Prop := exec i s = .next (applyFire (ncx s n w) f)

/-- Instruction `i` at node `n` is not ready: nothing changes. -/
def Stalls (i : Instr) (s : State) : Prop := exec i s = .next s

/-! ### Commands -/

/-- Command `c` with fields `f` heads scoreboard `sb` and its target performs it in this step: its target is not frozen, what it is released
after is performed, its residency runs on, and where it reads or writes memory the gate would let a deep or peer request of it (R177, R179, R332). -/
structure CmdReady (s : State) (sb : Nat) (c : Cmd) (f : CmdW) : Prop where
  focus : s.focus = .cmd sb
  head  : ∃ rest, sbCmds s sb = c :: rest
  thaw  : Tab.find? s.sbFz sb = none
  free  : ∀ i ∈ c.rel, ∀ a ∈ s.accs, a.id ≠ i
  gate  : gated s c = false
  lives : cmdLives s c = true

/-- The cove that a scoreboard belongs to; the host mailbox counts as cove 0. -/
def coveOfSb (sb : Nat) : Nat := if sb = mailbox then 0 else cvOfSb sb

/-- The check of R119 still passes for the command (R181). -/
def StillPasses (s : State) (sb : Nat) (c : Cmd) : Prop :=
  (Chk.mk s (coveOfSb sb) c.rid c.prv c.host (fun _ => rdPA s) [] []).fails c.w = none

/-- The parameter block that PARAM names is read as `b`, leaving `t`: now, or it has been read already (R182). -/
def BlockReads (s : State) (sb : Nat) (c : Cmd) (f : CmdW) (b : List Byte) (t : State) : Prop :=
  c.block = some b ∧ t = s ∨
    c.block = none ∧ rdVa s (cmdRt s c) (dieOf (coveOfSb sb)) (fPtr f) 64 = (t, .ok b none)

/-- The state with a command of scoreboard `sb` in the checkpoint engine's queue, where no other is (R400). -/
def queued (s : State) (sb : Nat) : State := if s.ckptQ = [] then { s with ckptQ := [sb] } else s

/-! ### The invariant -/

/-- The memories are in canonical form, and physical page 0 reads as boot wrote it (R397): the capability window once the device is ready. That it
reads as memory that nothing has written before BOOT 5, at power-on (log entry 2) and again after a reset or a trip (log entry 72), and 0 beyond the
window's 4 KiB (log entry 2), is the model's choice. -/
def Inv (s : State) : Prop :=
  s.hbm.wf = true ∧ s.hostMem.wf = true ∧ s.shore.wf = true ∧
    ∀ a, a < 65536 → s.hbm.rd a = if s.host.boot = 5 then nth 0 capWindow a else Memory.unlisted

/-! ### Dispatch decisions -/

/-- The decision's look at the head of queue `q` leads from `d` to `e` and goes on: its type refuses it, or it has not its permits or a region
(R317, R318). -/
def Passed (q : Nat) (d e : State) : Prop :=
  ∃ t rest, Tab.get [] d.tasks.queues q = t :: rest ∧
    let x := readEnt d (bitsOf t.bits.toNat 112 12)
    (∃ c, entryCode x.1.host.pool x.2 = some c ∧ e = refuse (popTask x.1 q) c (t.bits.extractLsb' 64 64)) ∨
    (entryCode x.1.host.pool x.2 = none ∧ (freePermits x.1 < x.2.permits ∨ place x.1 x.2 = none) ∧ e = x.1)

/-- The decision looks at the heads of the queues in order and goes on after each. -/
def Passes : List Nat → State → State → Prop
  | [], d, e => e = d
  | q :: l, d, e => ∃ m, Passed q d m ∧ Passes l m e

end Sys2Proof.Machine
end

