-- ==== Sys2Proof/Certificates/Slice0/Obligations.lean ====
section
/-!
DEFINITION. The statements for the provers.
-/
open Sys2Proof Sys2Proof.Machine


/-! ### Integer instructions of the control core (R148 to R150) -/

/-- R148: the arithmetic, logical and shift instructions, the smaller and the larger of two values, for every value of their operands; shifts use bits
[5:0] of the amount; nothing traps and no flag is raised. -/
def Obligations.IntegerResults : Prop :=
  -- R148
  (∀ (s : State) (x k : Nat) (b : Blk) (p a c : Byte) (u v : Word),
    Executes s x k b p → Operand s x b a u → Operand s x b c v →
      Yields (.add a c p) s x k (u + v) ∧
      Yields (.sub a c p) s x k (u - v) ∧
      Yields (.mul a c p) s x k (u * v) ∧
      Yields (.mulh a c p) s x k (BitVec.ofInt 64 (u.toInt * v.toInt / 2 ^ 64)) ∧
      Yields (.mulhn a c p) s x k (BitVec.ofNat 64 (u.toNat * v.toNat / 2 ^ 64)) ∧
      Yields (.div a c p) s x k
        (if v = 0 then BitVec.ofInt 64 (-1)
         else if u.toInt = -(2 ^ 63) ∧ v.toInt = -1 then BitVec.ofInt 64 (-(2 ^ 63))
         else BitVec.ofInt 64 (Int.tdiv u.toInt v.toInt)) ∧
      Yields (.divn a c p) s x k (if v = 0 then BitVec.ofNat 64 (2 ^ 64 - 1) else u / v) ∧
      Yields (.rem a c p) s x k
        (if v = 0 then u
         else if u.toInt = -(2 ^ 63) ∧ v.toInt = -1 then 0
         else BitVec.ofInt 64 (u.toInt - Int.tdiv u.toInt v.toInt * v.toInt)) ∧
      Yields (.remn a c p) s x k (if v = 0 then u else u % v)) ∧
  -- R148
  (∀ (s : State) (x k : Nat) (b : Blk) (p a c : Byte) (u v : Word),
    Executes s x k b p → Operand s x b a u → Operand s x b c v →
      Yields (.and a c p) s x k (u &&& v) ∧
      Yields (.or a c p) s x k (u ||| v) ∧
      Yields (.xor a c p) s x k (u ^^^ v) ∧
      Yields (.andn a c p) s x k (u &&& ~~~v) ∧
      Yields (.shl a c p) s x k (u <<< (v.extractLsb' 0 6).toNat) ∧
      Yields (.shr a c p) s x k (u >>> (v.extractLsb' 0 6).toNat) ∧
      Yields (.sar a c p) s x k (u.sshiftRight (v.extractLsb' 0 6).toNat) ∧
      Yields (.rol a c p) s x k (u.rotateLeft (v.extractLsb' 0 6).toNat)) ∧
  -- R148
  (∀ (s : State) (x k : Nat) (b : Blk) (p a c : Byte) (u v : Word),
    Executes s x k b p → Operand s x b a u → Operand s x b c v →
      Yields (.min a c p) s x k (if u.toInt ≤ v.toInt then u else v) ∧
      Yields (.max a c p) s x k (if u.toInt ≤ v.toInt then v else u) ∧
      Yields (.minn a c p) s x k (if u.toNat ≤ v.toNat then u else v) ∧
      Yields (.maxn a c p) s x k (if u.toNat ≤ v.toNat then v else u))

/-- R149, R150: CLZ, POPC, SEXT, ZEXT, and BEXT, BINS on a field of `n` bits at bit `lo`, named by the descriptor lo + 256 · (n - 1), and SEL; a width
or a descriptor out of range traps with OPND_RANGE. -/
def Obligations.BitAndFieldResults : Prop :=
  -- R149
  (∀ (s : State) (x k : Nat) (b : Blk) (p a : Byte) (u : Word), Executes s x k b p → Operand s x b a u →
    (∃ n : Nat, Yields (.clz a p) s x k (BitVec.ofNat 64 n) ∧ n ≤ 64 ∧ u.toNat < 2 ^ (64 - n) ∧ (n < 64 → 2 ^ (63 - n) ≤ u.toNat)) ∧
    Yields (.popc a p) s x k (BitVec.ofNat 64 ((List.range 64).filter fun i => u.getLsbD i).length)) ∧
  -- R149
  (∀ (s : State) (x k : Nat) (b : Blk) (p a c : Byte) (u v : Word),
    Executes s x k b p → Operand s x b a u → Operand s x b c v →
      (∀ n : Nat, v = BitVec.ofNat 64 n → 1 ≤ n → n ≤ 64 →
        Yields (.sext a c p) s x k ((u.setWidth n).signExtend 64) ∧ Yields (.zext a c p) s x k ((u.setWidth n).zeroExtend 64)) ∧
      (v = 0 ∨ 64 < v.toNat → TrapsWith (.sext a c p) s x k 0x13 0 ∧ TrapsWith (.zext a c p) s x k 0x13 0)) ∧
  -- R150
  (∀ (s : State) (x k : Nat) (b : Blk) (p a c e : Byte) (u v w : Word),
    Executes s x k b p → Operand s x b a u → Operand s x b c v → Operand s x b e w →
      Yields (.sel a c p e) s x k (if u ≠ 0 then v else w) ∧
      ∀ lo n : Nat, w = BitVec.ofNat 64 (lo + 256 * (n - 1)) → 1 ≤ n → lo + n ≤ 64 →
        Yields (.bext a c p e) s x k
          (if v = 0 then (u.extractLsb' lo n).zeroExtend 64 else (u.extractLsb' lo n).signExtend 64) ∧
        ∃ t, exec (.bins a c p e) s = .next t ∧ OnlySlot s t x k ∧
          ∃ r : Word, slotAt t x k = some (.done r .nothing 0) ∧
            ∀ i, i < 64 → r.getLsbD i = if lo ≤ i ∧ i < lo + n then v.getLsbD (i - lo) else u.getLsbD i) ∧
  -- R150
  (∀ (s : State) (x k : Nat) (b : Blk) (p a c e : Byte) (u v w : Word),
    Executes s x k b p → Operand s x b a u → Operand s x b c v → Operand s x b e w →
      w &&& ~~~0x3F3F ≠ 0 ∨ 64 < (w.extractLsb' 0 6).toNat + (w.extractLsb' 8 6).toNat + 1 →
        TrapsWith (.bext a c p e) s x k 0x13 0 ∧ TrapsWith (.bins a c p e) s x k 0x13 0)

/-- R151: the comparisons and TEST yield 1 or 0, raise no flag, and their words decode to them. -/
def Obligations.CompareAndTestResults : Prop :=
  (∀ (s : State) (x k : Nat) (b : Blk) (p a c : Byte) (u v : Word),
    Executes s x k b p → Operand s x b a u → Operand s x b c v →
      Yields (.cmpEq a c p) s x k (if u = v then 1 else 0) ∧
      Yields (.cmpNe a c p) s x k (if u ≠ v then 1 else 0) ∧
      Yields (.cmpLt a c p) s x k (if u.toInt < v.toInt then 1 else 0) ∧
      Yields (.cmpLe a c p) s x k (if u.toInt ≤ v.toInt then 1 else 0) ∧
      Yields (.cmpLtn a c p) s x k (if u.toNat < v.toNat then 1 else 0) ∧
      Yields (.cmpLen a c p) s x k (if u.toNat ≤ v.toNat then 1 else 0) ∧
      Yields (.test a c p) s x k (if u &&& v ≠ 0 then 1 else 0)) ∧
  ∀ a c p : Byte, a.toNat < 0xE8 → c.toNat < 0xE8 → p.toNat ≠ 0x7F →
    decodeSlot ((0x20 : Byte) ++ a ++ c ++ p) none = .ok (.cmpEq a c p) ∧
    decodeSlot ((0x21 : Byte) ++ a ++ c ++ p) none = .ok (.cmpNe a c p) ∧
    decodeSlot ((0x22 : Byte) ++ a ++ c ++ p) none = .ok (.cmpLt a c p) ∧
    decodeSlot ((0x23 : Byte) ++ a ++ c ++ p) none = .ok (.cmpLe a c p) ∧
    decodeSlot ((0x24 : Byte) ++ a ++ c ++ p) none = .ok (.cmpLtn a c p) ∧
    decodeSlot ((0x25 : Byte) ++ a ++ c ++ p) none = .ok (.cmpLen a c p) ∧
    decodeSlot ((0x26 : Byte) ++ a ++ c ++ p) none = .ok (.test a c p)

/-- R110, R152, R158: IMM sign-extends its 24 bits, IMMH shifts its 16 bits in from below, LDR yields 8 bytes of the pool, the lowest first. -/
def Obligations.ConstantResults : Prop :=
  ∀ (s : State) (x k : Nat) (b : Blk) (a p : Byte) (i : BitVec 24) (j : BitVec 16) (u : Word),
    (Executes s x k b 0xFF → Yields (.imm i) s x k (i.signExtend 64)) ∧
    (Executes s x k b 0xFF → Operand s x b a u → Yields (.immh a j) s x k (u.extractLsb' 0 48 ++ j)) ∧
    (Executes s x k b p → ∀ (q : List Byte) (b0 b1 b2 b3 b4 b5 b6 b7 : Byte) (r : List Byte),
      b.pool = q ++ [b0, b1, b2, b3, b4, b5, b6, b7] ++ r → q.length = 8 * j.toNat →
        Yields (.ldr j p) s x k (b7 ++ b6 ++ b5 ++ b4 ++ b3 ++ b2 ++ b1 ++ b0))

/-! ### Reads of the core's state (R153, R154, R173, R175) -/

/-- Whether a context above U, or one whose residency owns unit `n` of a bank of `m`, may name it (R132). -/
def MayName (s : State) (x n m : Nat) : Prop := (s.ctx x).prv ≠ .u ∨ ownsUnit s (s.ctx x).rid (cvOfX x) n m = true

/-- R132, R153, R154, R173: RDS reads a tidemark barrier, the tokens of a FIFO to the core, the free places of one from it, or the completion counter;
RDX a flag set; SQRY the snapshot of a port or a copy queue; what they may not name traps. That a token still on its way to a FIFO takes a place of it
is the model's choice (log entry 128); that bit 1 of SQRY covers the open record of the port's job is its reading (log entry 77); that an UNBIND which
waits to take effect has left the count of its scoreboard is its choice (log entry 135). -/
def Obligations.StatusReadResults : Prop :=
  -- R153, R132
  (∀ (s : State) (x k : Nat) (b : Blk) (p r : Byte), Executes s x k b p →
    (∀ n, r.toNat = n → n < 0x40 →
      (MayName s x n 64 → Yields (.rds r p) s x k ((s.bar (cvOfX x) n).zeroExtend 64)) ∧
      (¬MayName s x n 64 → TrapsWith (.rds r p) s x k 0x13 0)) ∧
    (∀ n, r.toNat = 0x40 + n → n < 8 →
      (MayName s x n 8 → Yields (.rds r p) s x k (BitVec.ofNat 64 (Tab.get [] (s.cove (cvOfX x)).tq n).length)) ∧
      (¬MayName s x n 8 → TrapsWith (.rds r p) s x k 0x13 0)) ∧
    (∀ n, r.toNat = 0x48 + n → n < 8 →
      (MayName s x n 8 → Yields (.rds r p) s x k (BitVec.ofNat 64 (16 - fqCount s (cvOfX x) n))) ∧
      (¬MayName s x n 8 → TrapsWith (.rds r p) s x k 0x13 0)) ∧
    (r.toNat = 0x50 → Yields (.rds r p) s x k s.host.compl)) ∧
  -- R154
  (∀ (s : State) (x k : Nat) (b : Blk) (p a c : Byte) (u v : Word),
    Executes s x k b p → Operand s x b a u → Operand s x b c v →
      (u = 16 → Yields (.rdx a c p) s x k ((s.cove (cvOfX x)).mflags.zeroExtend 64)) ∧
      (u.toNat < 16 → v.toNat < 16 → othersHalf s (s.ctx x).rid (16 * cvOfX x + u.toNat) = false →
        Yields (.rdx a c p) s x k ((Tab.get 0 (s.cell (16 * cvOfX x + u.toNat)).flags v.toNat).zeroExtend 64)) ∧
      (u.toNat < 16 → v = 16 → othersHalf s (s.ctx x).rid (16 * cvOfX x + u.toNat) = false →
        Yields (.rdx a c p) s x k
          (((s.cell (16 * cvOfX x + u.toNat)).flags.foldl (fun (f : BitVec 5) (e : Nat × BitVec 5) => f ||| e.2) 0).zeroExtend 64)) ∧
      (16 < u.toNat ∨ (u.toNat < 16 ∧ (16 < v.toNat ∨ othersHalf s (s.ctx x).rid (16 * cvOfX x + u.toNat) = true)) →
        TrapsWith (.rdx a c p) s x k 0x13 0)) ∧
  -- R173
  (∀ (s : State) (x k : Nat) (b : Blk) (p a : Byte) (u : Word), Executes s x k b p → Operand s x b a u →
    (0x40 ≤ u.toNat → u.toNat ≤ 0x8F → Yields (.sqry a p) s x k (sqryWord s (cvOfX x) u.toNat)) ∧
    (u.toNat < 0x40 ∨ 0x8F < u.toNat → TrapsWith (.sqry a p) s x k 0x13 0) ∧
    let opened := fun r : Option Nat => ∃ i, i < 4096 ∧ r = some i
    (∀ n, n < 16 → sbLen s (sbKey (cvOfX x) n) ≤ 16 →
      let w := sqryWord s (cvOfX x) (0x40 + n)
      (w.getLsbD 0 = (s.port (cvOfX x) n).bind.isSome) ∧ (w.getLsbD 2 = (s.port (cvOfX x) n).eos) ∧
      (w.getLsbD 1 = true ↔ opened (s.port (cvOfX x) n).frozen ∨ opened (Tab.find? s.sbFz (sbKey (cvOfX x) n)) ∨
        ∃ bd j d, (s.port (cvOfX x) n).bind = some bd ∧ bd.job = some j ∧ Tab.find? s.jobs j = some d ∧ opened d.record) ∧
      ((w.extractLsb' 3 5).toNat = sbLen s (sbKey (cvOfX x) n)) ∧ ((w.extractLsb' 8 8) = 0) ∧
      ((w.extractLsb' 16 32) = BitVec.ofNat 32 (s.port (cvOfX x) n).dlv) ∧ ((w.extractLsb' 48 16) = 0)) ∧
    (∀ n, n < 64 → sbLen s (sbKey (cvOfX x) (16 + n)) ≤ 16 →
      let w := sqryWord s (cvOfX x) (0x50 + n)
      (w.getLsbD 0 = (s.cq (cvOfX x) n).tmpl.isSome) ∧ (w.getLsbD 2 = false) ∧
      (w.getLsbD 1 = true ↔ opened (s.cq (cvOfX x) n).frozen ∨ opened (Tab.find? s.sbFz (sbKey (cvOfX x) (16 + n)))) ∧
      ((w.extractLsb' 3 5).toNat = sbLen s (sbKey (cvOfX x) (16 + n))) ∧ ((w.extractLsb' 8 8) = 0) ∧
      ((w.extractLsb' 16 32) = BitVec.ofNat 32 (s.cq (cvOfX x) n).dlv) ∧ ((w.extractLsb' 48 16) = 0)))

/-- R131, R133, R154, R175: RDCSR and WRCSR at a sufficient privilege yield the register, or are a write of commit step 1; below it, and with reserved
bits set, they trap, and WRCSR XFCLR on a flag set that it does not name or the context does not own. That PRIV wins over reserved bits that are set
is the model's choice (log entry 127), and so is that the bits of XCAUSE and XSLOT which R133 has zero are among the reserved ones (log entry 134). -/
def Obligations.CsrResults : Prop :=
  -- R131, R133, R175
  (∀ (s : State) (x k : Nat) (b : Blk) (p r : Byte), Executes s x k b p →
    let c := s.ctx x
    ((r.toNat ≤ 4 ∨ r.toNat = 7) ∧ c.prv = .u → TrapsWith (.rdcsr r p) s x k 0x14 0) ∧
    (r.toNat = 0x0B ∧ c.prv ≠ .m → TrapsWith (.rdcsr r p) s x k 0x14 0) ∧
    (c.prv ≠ .u →
      (r = 0 → Yields (.rdcsr r p) s x k c.xcause) ∧ (r = 1 → Yields (.rdcsr r p) s x k c.xblock) ∧
      (r = 2 → Yields (.rdcsr r p) s x k c.xslot) ∧ (r = 3 → Yields (.rdcsr r p) s x k c.xaddr) ∧
      (r = 4 → Yields (.rdcsr r p) s x k c.xvec) ∧ (r = 7 → Yields (.rdcsr r p) s x k c.xscratch)) ∧
    (c.prv = .m → r = 0x0B → Yields (.rdcsr r p) s x k c.xvecm) ∧
    (r = 5 → Yields (.rdcsr r p) s x k
      (BitVec.ofNat 64 (c.prv.code + 4 * c.pprv.code + 16 * c.intrap.toNat + 32 * c.aie.toNat + 64 * b.apend.toNat))) ∧
    (r = 6 → Yields (.rdcsr r p) s x k (BitVec.ofNat 64 (c.ff.toNat + 256 * c.frm.toNat))) ∧
    (r = 8 → Yields (.rdcsr r p) s x k (BitVec.ofNat 64 (cycleOf s (cvOfX x)))) ∧
    (r = 9 → Yields (.rdcsr r p) s x k (permitsWord s c.rid)) ∧
    (r = 10 → Yields (.rdcsr r p) s x k (ctxInfo s x c.rid)) ∧
    (r = 12 → Yields (.rdcsr r p) s x k 0)) ∧
  -- R131, R133, R175
  (∀ (s : State) (x k : Nat) (b : Blk) (p a r : Byte) (u : Word), Executes s x k b p → Operand s x b a u →
    let c := s.ctx x
    (c.prv ≠ .u → r.toNat ≤ 5 ∨ r.toNat = 7 → (r = 0 → u.toNat < 2 ^ 10) → (r = 2 → u.toNat < 2 ^ 8) → (r = 5 → u.toNat < 2 ^ 7) →
      Does (.wrcsr a r p) s x k 0 (.wrcsr r.toNat u) 0) ∧
    (c.prv = .m → r = 0x0B → Does (.wrcsr a r p) s x k 0 (.wrcsr 0x0B u) 0) ∧
    (r = 6 → u.toNat < 2 ^ 10 → u.extractLsb' 5 3 = 0 → Does (.wrcsr a r p) s x k 0 (.wrcsr 6 u) 0) ∧
    (r = 12 → u.extractLsb' 5 3 = 0 → u.extractLsb' 13 3 = 0 → u.extractLsb' 32 32 = 0 →
      (u.extractLsb' 8 5).toNat = 16 ∨ ((u.extractLsb' 8 5).toNat < 16 ∧
        othersHalf s c.rid (16 * cvOfX x + (u.extractLsb' 8 5).toNat) = false) →
      Does (.wrcsr a r p) s x k 0 (.wrcsr 12 u) 0) ∧
    (c.prv = .u → r.toNat ≤ 5 ∨ r.toNat = 7 → TrapsWith (.wrcsr a r p) s x k 0x14 0) ∧
    (c.prv ≠ .m → r = 0x0B → TrapsWith (.wrcsr a r p) s x k 0x14 0) ∧
    (8 ≤ r.toNat → r.toNat ≤ 10 → TrapsWith (.wrcsr a r p) s x k 0x14 0) ∧
    (c.prv ≠ .u → (r = 0 ∧ 2 ^ 10 ≤ u.toNat) ∨ (r = 2 ∧ 2 ^ 8 ≤ u.toNat) ∨ (r = 5 ∧ 2 ^ 7 ≤ u.toNat) →
      TrapsWith (.wrcsr a r p) s x k 0x13 0) ∧
    (r = 6 → 2 ^ 10 ≤ u.toNat ∨ u.extractLsb' 5 3 ≠ 0 → TrapsWith (.wrcsr a r p) s x k 0x13 0) ∧
    (r = 12 → u.extractLsb' 5 3 ≠ 0 ∨ u.extractLsb' 13 3 ≠ 0 ∨ u.extractLsb' 32 32 ≠ 0 ∨ 16 < (u.extractLsb' 8 5).toNat ∨
      ((u.extractLsb' 8 5).toNat < 16 ∧ othersHalf s c.rid (16 * cvOfX x + (u.extractLsb' 8 5).toNat) = true) →
      TrapsWith (.wrcsr a r p) s x k 0x13 0))

/-! ### FP32 (R155 to R157) -/

/-- R155 to R157: the FP32 instructions yield their results with their flags, rounded under FRM, and what they give at the special values; FCVT with a
rounding above 4 traps. -/
def Obligations.FloatResults : Prop :=
  -- R155 to R157
  (∀ (s : State) (x k : Nat) (b : Blk) (p a c e m : Byte) (u v w : Word),
    Executes s x k b p → Operand s x b a u → Operand s x b c v → Operand s x b e w →
      let rm := (s.ctx x).frm.toNat
      let fp := fun (i : Instr) (r : Nat × Nat) => Does i s x k (BitVec.ofNat 64 r.1) .nothing (BitVec.ofNat 5 r.2)
      let f := fun y : Word => FF.f32.decI (y.toNat % 2 ^ 32)
      fp (.fadd a c p) (FF.f32.add rm 0 (f u) (f v)) ∧
      fp (.fsub a c p) (FF.f32.add rm 0 (f u) (f v).neg) ∧
      fp (.fmul a c p) (FF.f32.mul rm 0 (f u) (f v)) ∧
      fp (.ffma a c p e) (FF.f32.fma rm 0 (f u) (f v) (f w)) ∧
      fp (.fdiv a c p) (FF.f32.div rm 0 (f u) (f v)) ∧
      fp (.fsqrt a p) (FF.f32.sqrt rm (f u)) ∧
      fp (.fmin a c p) (FF.f32.out 0 0 (fvMinMax false (f u) (f v)).1 (fvMinMax false (f u) (f v)).2) ∧
      fp (.fmax a c p) (FF.f32.out 0 0 (fvMinMax true (f u) (f v)).1 (fvMinMax true (f u) (f v)).2) ∧
      fp (.fcmp a c p m) ((fvCond m.toNat (f u) (f v)).1.toNat, (fvCond m.toNat (f u) (f v)).2) ∧
      fp (.fclass a p) (fclass (u.toNat % 2 ^ 32), 0) ∧
      (v.toNat ≤ 3 → fp (.fcvt a c p m) (fcvt m.toNat v.toNat u)) ∧
      (v = 4 → fp (.fcvt a c p m) (fcvt m.toNat rm u)) ∧
      (4 < v.toNat → TrapsWith (.fcvt a c p m) s x k 0x13 0)) ∧
  -- R155, R156 at the special values
  ((∀ rm < 4, ∀ v : FV, FF.f32.add rm 0 (FF.f32.decI 0x7FA00000) v = (0x7FC00000, 16) ∧
    FF.f32.mul rm 0 (FF.f32.decI 0x7FA00000) v = (0x7FC00000, 16)) ∧
  (∀ rm < 4, FF.f32.div rm 0 (FF.f32.decI 0x3F800000) (FF.f32.decI 0x80000000) = (0xFF800000, 8) ∧
    FF.f32.sqrt rm (FF.f32.decI 0xBF800000) = (0x7FC00000, 16) ∧ FF.f32.sqrt rm (FF.f32.decI 0x80000000) = (0x80000000, 0)) ∧
  (fvCond 0 (FF.f32.decI 0x80000000) (FF.f32.decI 0)).1 = true ∧
  [0xFF800000, 0xBF800000, 0x80000001, 0x80000000, 0, 1, 0x3F800000, 0x7F800000, 0x7FA00000, 0x7FC00000].map fclass =
    (List.range 10).map fun i => 2 ^ i)

/-! ### Loads, stores and atomics of the control core (R138, R158 to R161) -/

/-- The byte at `q`, byte `i` of an access that begins at `q0`, as a load in slot `k` sees it where no slot below stores it: for the deep
class the buffered line, or the stores in flight of the core over memory (that a line fill sees
them is the model's reading, log entry 98); for another class the context's own stores in flight over memory, where a byte of another device is a
free value (log entry 6). -/
def LoadSees (s : State) (x : Nat) (deep : Bool) (q0 q : PA) (i : Nat) : Byte :=
  if deep then
    match rbufLine s (cvOfX x) (lineOf q0) with
    | some l => nth 0 l.data (q0.adr % 64 + i)
    | none => (inFlight (fun y => cvOfX y == cvOfX x) q s.accs).getD (rdPA s q)
  else (inFlight (fun y => y == x) q s.accs).getD (match q.sp with | .peer _ _ => Config.freeByte (s.free + i) | _ => rdPA s q)

/-- R138, R141, R158, R159, R161, R355: a load at an aligned address that translates yields its bytes, the lowest first, sign- or zero-extended; a
store or an atomic there yields 0 and writes no memory when it executes: the write is its effect at commit. A load or an atomic of bytes that a fatal
fault fences traps with 0x48. That a line is filled as the stores in flight of its core leave it is the model's choice (log entry 98); that a store in
flight over the whole of a poisoned word hides its poison from the context's own load is its reading (log entry 131); whether another device has
fenced its bytes is a free value (log entry 6). -/
def Obligations.MemoryInstructionsExecute : Prop :=
  -- R138, R158, R159
  (∀ (s t : State) (x k : Nat) (b : Blk) (p a c : Byte) (u v : Word) (n : Nat) (q0 : PA) (bs : List Byte)
    (ld : Instr) (sg : Bool),
    (ld, n, sg) ∈ [(.ldB a c p, 1, true), (.ldH a c p, 2, true), (.ldW a c p, 4, true), (.ldD a c p, 8, true),
      (.ldnB a c p, 1, false), (.ldnH a c p, 2, false), (.ldnW a c p, 4, false)] →
    Executes s x k b p → Operand s x b a u → Operand s x b c v →
    (∀ j < k, passedSync b j = true ∧ addrReady s x (s.ctx x) b j = true) →
    (u + v).toNat % n = 0 →
    resolve s (ctxRt s (s.ctx x)) (dieOf (cvOfX x)) (u + v) n true false = (t, .ok [(q0, n)]) →
    (∀ j < k, ∀ e ∈ pendSegs s (ctxRt s (s.ctx x)) x (s.ctx x) b j, meets e (q0, n) = false) →
    let u1 := (peerFenced t [(q0, n)]).1
    let fwd := ∀ i < n, (forwarded b ⟨q0.sp, q0.adr + i⟩ (span 0 k).reverse).isSome = true
    (∀ fr, fencedBy t (s.ctx x).rid [(q0, n)] = some fr →
      exec ld s = .next (settle (setSlot (tellFenced t (s.ctx x).rid fr (16 * cvOfX x)) x k (.trapped 0x48 0)) x)) ∧
    (fencedBy t (s.ctx x).rid [(q0, n)] = none →
    (gateLets s (s.ctx x).rid = true ∨ fwd ∨
      (if isDeep (u + v) = true then (rbufLine t (cvOfX x) (lineOf q0)).isSome = true else q0.sp = .shore)) →
    (¬fwd → (peerFenced t [(q0, n)]).2 = true → exec ld s = .next (settle (setSlot u1 x k (.trapped 0x48 0)) x)) ∧
    ((¬fwd → (peerFenced t [(q0, n)]).2 = false ∧
      (isDeep (u + v) = true → rbufLine t (cvOfX x) (lineOf q0) = none → psnAt t q0 = false) ∧
      (isDeep (u + v) = false → q0.sp = .shore → ∀ i < n, psnAt t ⟨.shore, q0.adr + i⟩ = true → wordCovered t x ⟨.shore, q0.adr + i⟩ = true) ∧
      (isDeep (u + v) = false → q0.sp ≠ .shore → (rdSegs u1 [(q0, n)]).2.2 = false)) →
    bs.length = n →
    (∀ i < n, bs[i]? = some
      (let q : PA := ⟨q0.sp, q0.adr + i⟩
       match forwarded b q (span 0 k).reverse with
       | some w => w
       | none => LoadSees u1 x (isDeep (u + v)) q0 q i)) →
    DoesMetered ld s x k (if sg then BitVec.ofInt 64 (sext (8 * n) (leNat bs)) else BitVec.ofNat 64 (leNat bs)) .nothing 0))) ∧
  -- R141, R158, R161
  (∀ (s : State) (x k : Nat) (b : Blk) (p a c d e : Byte) (u v w : Word),
    Executes s x k b p → Operand s x b a u →
    (gateLets s (s.ctx x).rid = true ∨ isDeep u = false → DoesMetered (.pref a p) s x k 0 .nothing 0) ∧
    (Operand s x b c v → Operand s x b e w →
      let at_ := fun (n : Nat) (rd : Bool) => resolve s (ctxRt s (s.ctx x)) (dieOf (cvOfX x)) u n rd true
      (∀ t q m segs, u.toNat % 1 = 0 → at_ 1 false = (t, .ok ((q, m) :: segs)) →
        DoesCached (.stB a c p) s x k 0 (.store q u 1 v) 0) ∧
      (∀ t q m segs, u.toNat % 2 = 0 → at_ 2 false = (t, .ok ((q, m) :: segs)) →
        DoesCached (.stH a c p) s x k 0 (.store q u 2 v) 0) ∧
      (∀ t q m segs, u.toNat % 4 = 0 → at_ 4 false = (t, .ok ((q, m) :: segs)) →
        DoesCached (.stW a c p) s x k 0 (.store q u 4 v) 0) ∧
      (∀ t q m segs, u.toNat % 8 = 0 → at_ 8 false = (t, .ok ((q, m) :: segs)) →
        DoesCached (.stD a c p) s x k 0 (.store q u 8 v) 0) ∧
      (∀ t q m segs, u.toNat % 8 = 0 → at_ 8 true = (t, .ok ((q, m) :: segs)) → fencedBy t (s.ctx x).rid ((q, m) :: segs) = none →
        let r := d.toNat % 64
        let f := peerFenced t ((q, m) :: segs)
        (f.2 = true → ∀ i ∈ [Instr.aadd a c p d, .aand a c p d, .aor a c p d, .axor a c p d, .amin a c p d, .amax a c p d, .axchg a c p d,
          .acas a c p e d], exec i s = .next (settle (setSlot f.1 x k (.trapped 0x48 0)) x)) ∧
        (f.2 = false →
        DoesCached (.aadd a c p d) s x k 0 (.atomic 0 q u v 0 r) 0 ∧ DoesCached (.aand a c p d) s x k 0 (.atomic 1 q u v 0 r) 0 ∧
        DoesCached (.aor a c p d) s x k 0 (.atomic 2 q u v 0 r) 0 ∧ DoesCached (.axor a c p d) s x k 0 (.atomic 3 q u v 0 r) 0 ∧
        DoesCached (.amin a c p d) s x k 0 (.atomic 4 q u v 0 r) 0 ∧ DoesCached (.amax a c p d) s x k 0 (.atomic 5 q u v 0 r) 0 ∧
        DoesCached (.axchg a c p d) s x k 0 (.atomic 6 q u v 0 r) 0 ∧ DoesCached (.acas a c p e d) s x k 0 (.atomic 7 q u v w r) 0))))

/-- R13 to R20, R158, R161: loads, stores and atomics at an address that is no multiple of their size trap with MISALIGN; one that does not resolve
traps with the cause of R337, or with the lowest that applies of R19: ADDR_CLASS, ADDR_FORM, SHORE_RANGE, SHORE_PROT or PEER_ABSENT. Some of it is the
model's: that MISALIGN is reported before any of these (log entry 133, its choice); that a deep access which runs over the end of its class is given
ADDR_FORM (log entry 97, its reading), which is not said here; that a region-relative cell field which comes to 16 or more has SHORE_RANGE (log entry
17, its reading); that an access to a peer, or to this device by its own number, has no limit of length (log entry 118, its choice); and that XADDR
shows, of a pointer that resolves to no byte of a bank, the sum which each field comes to (log entry 96, its choice). -/
def Obligations.AccessTraps : Prop :=
  -- R158, R161
  (∀ (s : State) (x k : Nat) (b : Blk) (p a c d e : Byte) (u v w : Word),
    Executes s x k b p → Operand s x b a u → Operand s x b c v → Operand s x b e w →
    let rt := ctxRt s (s.ctx x)
    let fails := fun (i : Instr) (adr : Word) (n : Nat) (rd wr : Bool) =>
      (adr.toNat % n ≠ 0 → TrapsWith i s x k 0x12 (shownPtr rt adr)) ∧
      (adr.toNat % n = 0 → ∀ t err, resolve s rt (dieOf (cvOfX x)) adr n rd wr = (t, .error err) →
        exec i s = .next (settle (setSlot t x k (.trapped (BitVec.ofNat 8 err.cause) (shownPtr rt adr))) x))
    ((∀ j < k, passedSync b j = true ∧ addrReady s x (s.ctx x) b j = true) →
      fails (.ldB a c p) (u + v) 1 true false ∧ fails (.ldH a c p) (u + v) 2 true false ∧ fails (.ldW a c p) (u + v) 4 true false ∧
      fails (.ldD a c p) (u + v) 8 true false ∧ fails (.ldnB a c p) (u + v) 1 true false ∧
      fails (.ldnH a c p) (u + v) 2 true false ∧ fails (.ldnW a c p) (u + v) 4 true false) ∧
    fails (.stB a c p) u 1 false true ∧ fails (.stH a c p) u 2 false true ∧ fails (.stW a c p) u 4 false true ∧
    fails (.stD a c p) u 8 false true ∧
    fails (.aadd a c p d) u 8 true true ∧ fails (.aand a c p d) u 8 true true ∧ fails (.aor a c p d) u 8 true true ∧
    fails (.axor a c p d) u 8 true true ∧ fails (.amin a c p d) u 8 true true ∧ fails (.amax a c p d) u 8 true true ∧
    fails (.axchg a c p d) u 8 true true ∧ fails (.acas a c p e d) u 8 true true) ∧
  -- R13 to R20
  (∀ (s : State) (rt : Rt) (a : Word) (n : Nat) (w : Bool),
    let f := fun lo len : Nat => a.toNat / 2 ^ lo % 2 ^ len
    let at_ := fun off : Nat =>
      (65536 < off % 65536 + n → classify s rt a n w = .error 0x22) ∧
      (off % 65536 + n ≤ 65536 →
        let may := rt.priv = true ∨ (∃ r, rt.reg = some r ∧ r.hasCell (off / 65536) = true) ∨
          ∃ e ∈ rt.wins,
            let g := fun lo len : Nat => e.2.toNat / 2 ^ lo % 2 ^ len
            g 21 1 = 1 ∧ g 16 3 = off / 2 ^ 28 ∧ (w = true → g 20 1 = 1) ∧
            g 0 4 ≤ off / 2 ^ 20 % 16 ∧ off / 2 ^ 20 % 16 ≤ g 0 4 + g 8 4 ∧ g 4 4 ≤ off / 2 ^ 24 % 16 ∧ off / 2 ^ 24 % 16 ≤ g 4 4 + g 12 4
        (may → classify s rt a n w = .ok (.shore off)) ∧ (¬may → classify s rt a n w = .error 0x23))
    (f 62 2 = 3 → classify s rt a n w = .error 0x20) ∧
    (f 62 2 = 0 → f 52 10 ≠ 0 → classify s rt a n w = .error 0x21) ∧
    (f 62 2 = 0 → f 52 10 = 0 → a.toNat + n ≤ 2 ^ 52 → classify s rt a n w = .ok (.deep a.toNat)) ∧
    (f 62 2 = 1 → f 31 30 ≠ 0 → classify s rt a n w = .error 0x21) ∧
    (f 62 2 = 1 → f 31 30 = 0 →
      (f 61 1 = 0 → (192 ≤ f 20 8 → classify s rt a n w = .error 0x22) ∧ (f 20 8 < 192 → at_ (f 0 31))) ∧
      (f 61 1 = 1 → (rt.reg = none → classify s rt a n w = .error 0x22) ∧
        (∀ r, rt.reg = some r →
          let up := if r.kind = 1 ∧ r.half = 1 then 8 else 0
          (r.die (f 28 3) = none ∨ 192 ≤ f 20 8 + r.org ∨ 16 ≤ f 16 4 + up → classify s rt a n w = .error 0x22) ∧
          (∀ d, r.die (f 28 3) = some d → f 20 8 + r.org < 192 → f 16 4 + up < 16 →
            at_ (d * 2 ^ 28 + (f 20 8 + r.org) * 2 ^ 20 + (f 16 4 + up) * 2 ^ 16 + f 0 16))))) ∧
    (f 62 2 = 2 → (f 52 10 = s.host.devnum.toNat → classify s rt a n w = .ok (.deep (f 0 52))) ∧
      (f 52 10 ≠ s.host.devnum.toNat →
        (peerEntry s (f 52 10) / 2 ^ 31 % 2 = 1 → classify s rt a n w = .ok (.peer (f 52 10) (f 0 52))) ∧
        (peerEntry s (f 52 10) / 2 ^ 31 % 2 = 0 → classify s rt a n w = .error 0x24))) ∧
    (∀ (u : Nat) (rd : Bool) (c : Nat), classify s rt a n w = .error c → resolve s rt u a n rd w = (s, .error ⟨c, 0⟩)) ∧
    (∀ (u : Nat) (rd : Bool) (off : Nat), classify s rt a n w = .ok (.shore off) → resolve s rt u a n rd w = (s, .ok [(⟨.shore, off⟩, n)])))

/-! ### Predicates, branches and traps of the control core (R109, R140, R144, R147, R162, R163, R169, R174) -/

/-- R109: a slot whose predicate does not hold is predicated off, whatever its operands are, and nothing else changes; one whose predicate has not
yielded yet leaves the state as it is. -/
def Obligations.PredicatedOffSlots : Prop :=
  ∀ (s : State) (x k : Nat) (b : Blk) (p a c d e : Byte) (o : BitVec 16) (i : Instr),
    i ∈ [.add a c p, .sub a c p, .mul a c p, .mulh a c p, .mulhn a c p, .div a c p, .divn a c p, .rem a c p, .remn a c p, .and a c p,
      .or a c p, .xor a c p, .andn a c p, .shl a c p, .shr a c p, .sar a c p, .rol a c p, .min a c p, .max a c p, .minn a c p,
      .maxn a c p, .clz a p, .popc a p, .sext a c p, .zext a c p, .bext a c p d, .bins a c p d, .sel a c p d, .cmpEq a c p,
      .cmpNe a c p, .cmpLt a c p, .cmpLe a c p, .cmpLtn a c p, .cmpLen a c p, .test a c p, .rds c p, .rdx a c p, .fadd a c p,
      .fsub a c p, .fmul a c p, .ffma a c p d, .fdiv a c p, .fsqrt a p, .fmin a c p, .fmax a c p, .fcmp a c p d, .fcvt a c p d,
      .fclass a p, .ldB a c p, .ldH a c p, .ldW a c p, .ldD a c p, .ldnB a c p, .ldnH a c p, .ldnW a c p, .stB a c p, .stH a c p,
      .stW a c p, .stD a c p, .ldr o p, .pref a p, .aadd a c p d, .aand a c p d, .aor a c p d, .axor a c p d, .amin a c p d,
      .amax a c p d, .axchg a c p d, .acas a c p e d, .br o p, .bri a p, .call o p e d, .ret a p, .put a c p, .yield o p, .halt p,
      .fence c p, .wait a p, .signal a c p, .bar a p, .qpop a p, .qpush a c p d, .bbarm a c p, .scmd a c p, .scmdk o p, .sqry a p,
      .trap o p, .sys o p, .rdcsr c p, .wrcsr a c p, .eret p, .xlate a c p] →
    s.focus = .slot x k → (s.ctx x).st = .run → (s.ctx x).blk = some b → canRun b k = true →
      (predOf b p = some false → ∃ t, exec i s = .next t ∧ slotAt t x k = some .off ∧ OnlySlot s t x k) ∧
      (predOf b p = none → exec i s = .next s)

/-- R110, R162, R163, R169: the branch class and PUT execute with value 0; where they lead and what they write are their effects at commit. ERET at
privilege U traps with PRIV. -/
def Obligations.BranchClassExecutes : Prop :=
  ∀ (s : State) (x k : Nat) (b : Blk) (p a c d : Byte) (o : BitVec 16) (u v : Word),
    Executes s x k b p → Operand s x b a u → Operand s x b c v →
      let to_ := b.base + (o.signExtend 64 <<< 4)
      Does (.br o p) s x k 0 (.exit .branch to_) 0 ∧
      Does (.bri a p) s x k 0 (.exit .branch u) 0 ∧
      Does (.ret a p) s x k 0 (.exit .branch u) 0 ∧
      Does (.call o p c d) s x k 0 (.call to_ (d.toNat % 64) v) 0 ∧
      Does (.yield o p) s x k 0 (.exit .yield to_) 0 ∧
      Does (.halt p) s x k 0 (.exit .halt 0) 0 ∧
      Does (.put a d p) s x k 0 (.put (d.toNat % 64) u) 0 ∧
      ((s.ctx x).prv ≠ .u → Does (.eret p) s x k 0 (.exit .eret (s.ctx x).xblock) 0) ∧
      ((s.ctx x).prv = .u → TrapsWith (.eret p) s x k 0x14 0)

/-- R140, R144, R147, R174: what trap entry writes, that the lowest slot that traps is reported, and that TRAP takes the trap with its code. -/
def Obligations.TrapsAreTaken : Prop :=
  -- R144, R174
  (∀ (s : State) (x k : Nat) (b : Blk) (p : Byte) (o : BitVec 16),
    Executes s x k b p → k < b.body.length → (∀ j < k, b.isExt j = true ∨ b.resolved j = true) →
    (∀ j < k, ∀ q w, b.slot j ≠ some (.trapped q w)) →
    let c := s.ctx x
    let h := if c.prv = .u then c.xvec else c.xvecm
    c.intrap = false → h ≠ 0 →
    ∃ t, exec (.trap o p) s = .next t ∧
      t.ctx x = { c with
        xcause := BitVec.ofNat 64 (0x15 + 256 * c.prv.code), xslot := BitVec.ofNat 64 k, xblock := b.base, xaddr := o.zeroExtend 64
        pprv := c.prv, intrap := true, prv := if c.prv = .u then .s else .m, next := h, blk := none } ∧
      OnlyCtx s t x) ∧
  -- R144, R147
  (∀ (s : State) (x cause slot : Nat) (blk addr : Word),
    let c := s.ctx x
    let h := if c.prv = .u then c.xvec else c.xvecm
    let noted : Ctx := { c with
      xcause := BitVec.ofNat 64 (cause + 256 * c.prv.code), xslot := BitVec.ofNat 64 slot, xblock := blk, xaddr := addr }
    (c.intrap = false → h ≠ 0 → takeTrap s x cause slot blk addr = s.setCtx x { noted with
      pprv := c.prv, intrap := true, prv := if c.prv = .u then .s else .m, st := .run, next := h, blk := none }) ∧
    (c.intrap = true → takeTrap s x cause slot blk addr = haltDouble s x) ∧
    (c.intrap = false → h = 0 → takeTrap s x cause slot blk addr = haltDouble (s.setCtx x noted) x) ∧
    (s.arrs = [] → freeRec s = none →
      let t := haltDouble s x
      t.ctx x = { c with st := .halted, blk := none, back := none } ∧ SameMemory s t ∧ t.recs.lost = s.recs.lost + 1) ∧
    (s.arrs = [] → s.recs.wait = [] → s.recs.lost = 0 → ∀ n, freeRec s = some n →
      let t := haltDouble s x
      t.ctx x = { c with st := .halted, blk := none, back := none } ∧
      ∃ r, Tab.find? t.recs.live n = some r ∧ r.kind = 13 ∧ r.cause = 0x4B ∧ r.rid = c.rid ∧ r.loc = 16 * cvOfX x ∧ r.ctx = x % 4 ∧
        r.va = shownPtr (ctxRt s c) c.xblock ∧ ∃ e ∈ t.host.held, e.cls = 0 ∧ e.index = n)) ∧
  -- R140
  (∀ (s : State) (x k : Nat) (b : Blk) (cause : BitVec 8) (addr : Word),
    (s.ctx x).blk = some b → k < b.body.length → b.slot k = some (.trapped cause addr) → (∀ j < k, ∀ q w, b.slot j ≠ some (.trapped q w)) →
      ((∀ j < k, b.isExt j = true ∨ b.resolved j = true ∨ waitsPop s x (s.ctx x) b j = true) →
        settle s x = takeTrap s x cause.toNat k b.base addr) ∧
      ((∃ j < k, b.isExt j = false ∧ b.resolved j = false ∧ waitsPop s x (s.ctx x) b j = false) → settle s x = s) ∧
      ((s.ctx x).st = .run → exec (.blockCommit x) s = .next (settle s x)))

/-! ### Synchronisation, token FIFOs, commands and system instructions of the control core (R110, R164 to R176) -/

/-- Instruction `i` in slot `k` waits: its slot keeps the clock since which it waits, and nothing else changes. -/
def Waits (i : Instr) (s : State) (x k : Nat) (b : Blk) : Prop :=
  ((∃ c, b.slot k = some (.wait c)) → exec i s = .next s) ∧
  (b.slot k = none → ∃ t, exec i s = .next t ∧ slotAt t x k = some (.wait (dieClock s (dieOf (cvOfX x)))) ∧ OnlySlot s t x k)

/-- R159, R164, R165: FENCE completes with 0 once no earlier store or atomic of the context is in flight, and empties the core's read buffer; WAIT
completes with 0 when its barrier reads 0, and traps with OPND_RANGE on a number that is none of its barriers. Until then they wait. That FENCE does
the same at every scope, and waits until the stores are performed for all, is the model's choice (log entry 14). What the block cache shows of its
lines after FENCE is what memory holds then (R105), a poisoned line its poison (log entry 45), and the cache itself is empty. -/
def Obligations.FenceAndWaitResults : Prop :=
  ∀ (s : State) (x k : Nat) (b : Blk) (p a r : Byte) (u : Word), Executes s x k b p →
    ((∀ c ∈ s.accs, c.ag ≠ .ctx x) → ∃ t, exec (.fence r p) s = .next t ∧ slotAt t x k = some (.done 0 .nothing 0) ∧
      (t.cove (cvOfX x)).rbuf = [] ∧ (t.cove (cvOfX x)).bcache = [] ∧
      (t.ctx x).seen = ((s.ctx x).seen.map fun e =>
        (e.1, if (cacheLine e.1).any (psnAt s) = true then none else some ((cacheLine e.1).map (rdPA s)))) ∧
      SameMemory s t ∧ (∀ y q, (t.ctx y).reg q = (s.ctx y).reg q) ∧
      (∀ y, { (t.ctx y).outside with seen := [] } = { (s.ctx y).outside with seen := [] }) ∧
      { t with coves := [] } = { s with coves := [] }) ∧
    ((∃ c ∈ s.accs, c.ag = .ctx x) → Waits (.fence r p) s x k b) ∧
    (Operand s x b a u →
      (u.toNat < 64 → MayName s x u.toNat 64 →
        (s.bar (cvOfX x) u.toNat = 0 → DoesCached (.wait a p) s x k 0 .nothing 0 ∧
          ∀ t, exec (.wait a p) s = .next t → (t.cove (cvOfX x)).rbuf = []) ∧
        (s.bar (cvOfX x) u.toNat ≠ 0 → Waits (.wait a p) s x k b)) ∧
      (64 ≤ u.toNat ∨ ¬MayName s x u.toNat 64 → TrapsWith (.wait a p) s x k 0x13 0))

/-- R116, R166 to R168, R170 to R172, R174: BBARM, SIGNAL, BAR, QPOP, QPUSH, SCMD, SCMDK and SYS execute with their values and act at commit; QPOP
waits for its token; operands out of range, and units that a context at U does not own, trap. That fields of a pushed token which R33 has zero for its
kind go as they are given is the model's choice (log entry 109). -/
def Obligations.EffectInstructionsExecute : Prop :=
  -- R166 to R168
  (∀ (s : State) (x k : Nat) (b : Blk) (p a c : Byte) (u v : Word),
    Executes s x k b p → Operand s x b a u → Operand s x b c v →
      (u.toNat < 64 → v.toNat < 2 ^ 32 → MayName s x u.toNat 64 →
        Does (.bbarm a c p) s x k 0 (.bbarm u.toNat v.toNat) 0 ∧ Does (.signal a c p) s x k 0 (.signal u.toNat v.toNat) 0) ∧
      (64 ≤ u.toNat ∨ 2 ^ 32 ≤ v.toNat ∨ ¬MayName s x u.toNat 64 →
        TrapsWith (.bbarm a c p) s x k 0x13 0 ∧ TrapsWith (.signal a c p) s x k 0x13 0) ∧
      (2 ≤ u.toNat → u.toNat ≤ 7 → Does (.bar a p) s x k 0 (.bar u.toNat) 0) ∧
      (u.toNat < 2 ∨ 7 < u.toNat → TrapsWith (.bar a p) s x k 0x13 0)) ∧
  -- R170, R171
  (∀ (s : State) (x k : Nat) (b : Blk) (p a c d : Byte) (u v w : Word), Executes s x k b p → Operand s x b a u →
    (∀ f part : Nat, u.toNat = f + 8 * part → f < 8 → part < 3 → MayName s x f 8 →
      let n := ((span 0 k).filter (popsFrom b f)).length
      ((∀ j < k, popSettled s ⟨x, k, s.ctx x, b⟩ f j = true) → ∀ tok, (Tab.get [] (s.cove (cvOfX x)).tq f)[n]? = some tok →
        (part = 0 → DoesCached (.qpop a p) s x k (tok.pay.extractLsb' 0 64) (.pop f) 0) ∧
        (part = 1 → DoesCached (.qpop a p) s x k (tok.pay.extractLsb' 64 64) .nothing 0) ∧
        (part = 2 → DoesCached (.qpop a p) s x k ((0 : BitVec 32) ++ tok.sb ++ (0 : BitVec 12) ++ tok.kind) .nothing 0)) ∧
      ((Tab.get [] (s.cove (cvOfX x)).tq f)[n]? = none → Waits (.qpop a p) s x k b)) ∧
    (32 ≤ u.toNat ∨ u.toNat / 8 % 4 = 3 ∨ ¬MayName s x (u.toNat % 8) 8 → TrapsWith (.qpop a p) s x k 0x13 0) ∧
    (Operand s x b c v → Operand s x b d w →
      (∀ (f code : Nat) (sb : BitVec 16), w = (0 : BitVec 32) ++ sb ++ BitVec.ofNat 16 (f + 8 * code) → f < 8 → code < 7 → MayName s x f 8 →
        let kind := nth 0 [(0 : BitVec 4), 6, 2, 3, 4, 7, 8] code
        let side := if code = 0 ∧ sb = 0 then 0xFFFF else sb
        Does (.qpush a c p d) s x k 0 (.push f ⟨kind, v ++ u, side⟩) 0) ∧
      (w.extractLsb' 3 3 = 7 ∨ w.extractLsb' 6 10 ≠ 0 ∨ w.extractLsb' 32 32 ≠ 0 ∨ ¬MayName s x (w.toNat % 8) 8 →
        TrapsWith (.qpush a c p d) s x k 0x13 0))) ∧
  -- R116, R172, R174
  (∀ (s : State) (x k : Nat) (b : Blk) (p a c : Byte) (o : BitVec 16) (u v : Word), Executes s x k b p →
    (Operand s x b a u → Operand s x b c v → Does (.scmd a c p) s x k 0 (.scmd (u ++ v)) 0) ∧
    (∀ q bs r : List Byte, b.pool = q ++ bs ++ r → q.length = 16 * o.toNat → bs.length = 16 →
      Does (.scmdk o p) s x k 0 (.scmd (BitVec.ofNat 128 (leNat bs))) 0) ∧
    ((∀ j, isSys b j = false) → Does (.sys o p) s x k 0 (.sys o.toNat) 0) ∧
    ((∃ j < k, isSys b j = true) → TrapsWith (.sys o p) s x k 0x13 0))

/-- R176: XLATE yields the cached translation of its address, or that of a walk, with its page size, memory type and frame; 0 where there is none with
the asked permission; and traps with OPND_RANGE on another class or kind; that a malformed deep address and a kind above 1 do so too is the model's
reading (log entry 84), and that the frame shown of a larger page is that of the address itself is its choice (log entry 125). -/
def Obligations.XlateResults : Prop :=
  ∀ (s : State) (x k : Nat) (b : Blk) (p a c : Byte) (u v : Word),
    Executes s x k b p → Operand s x b a u → Operand s x b c v →
      let root := (ctxRt s (s.ctx x)).root
      let held := tlbFind (Tab.get [] s.tlb (dieOf (cvOfX x))) root u.toNat
      let shows := fun e : TEnt => BitVec.ofNat 64 (1 + 2 * e.size + 8 * e.mt.toNat + (e.pa u.toNat).adr / 65536 * 65536)
      (u.toNat < 2 ^ 52 → v.toNat ≤ 1 →
        (∀ e, held = some e → e.permits (v == 0) (v == 1) = true → DoesCached (.xlate a c p) s x k (shows e) .nothing 0) ∧
        (∀ e, held = some e → e.permits (v == 0) (v == 1) = false → DoesCached (.xlate a c p) s x k 0 .nothing 0) ∧
        (∀ e, held = none → walk s root u.toNat (v == 0) (v == 1) = .ok e → DoesCached (.xlate a c p) s x k (shows e) .nothing 0) ∧
        (∀ e, held = none → walk s root u.toNat (v == 0) (v == 1) = .error e → DoesCached (.xlate a c p) s x k 0 .nothing 0)) ∧
      (2 ^ 52 ≤ u.toNat ∨ 1 < v.toNat → TrapsWith (.xlate a c p) s x k 0x13 0)

/-! ### Fetch and commit of blocks (R102 to R105, R137, R139, R141, R160 to R163, R166 to R169, R174, R175) -/

/-- R102 to R105, R115, R137, R142, R363: a block whose rights, translation, alignment, header and slots pass is in flight after its fetch, with its
words; what a fetch traps on, in the order of precedence: the format faults of its slots (R104, R115) and poison in a line (R363) among them. That the
block cache shows a line as it was when the context first read it, its poison with it (log entry 45), and that the lines are translated and read one
by one, the poison of an earlier one before the translation of a later one (log entry 123), are the model's choices. -/
def Obligations.BlocksAreFetched : Prop :=
  -- R137, R102, R103
  (∀ (s s1 s2 s3 : State) (x : Nat) (c1 c2 : Cls) (pa : PA) (hd bs : List Byte),
    let c := s.ctx x
    let rt := ctxRt s c
    let h := leNat hd
    c.st = .run → c.blk = none → c.next.toNat % 16 = 0 → isDeep c.next = true →
    classify s rt c.next 4 false = .ok c1 → xlateDeep s (dieOf (cvOfX x)) rt.root c.next.toNat true false = (s1, .ok pa) →
    fetchBytes s1 x rt.root c.next 4 = (s2, .ok hd) → headerBad h = false →
    classify s2 rt c.next (poolOff h + 16 * poolLen h) false = .ok c2 →
    fetchBytes s2 x rt.root c.next (poolOff h + 16 * poolLen h) = (s3, .ok bs) →
    (gateLets s c.rid = false → asked s s3 c.rid = true → exec (.blockFetch x) s = .next s) ∧
    (gateLets s c.rid = true ∨ asked s s3 c.rid = false →
      (formatFault (wordsOf (bodyLen h) (bs.drop 4)) (poolLen h) = none →
        ∃ t, exec (.blockFetch x) s = .next t ∧
          (t.ctx x).blk = some ⟨c.next, wordsOf (bodyLen h) (bs.drop 4), bs.drop (poolOff h), !c.evts.isEmpty, []⟩ ∧
          (∀ r, (t.ctx x).reg r = c.reg r) ∧ { t.ctx x with blk := none, seen := [] } = { c with blk := none, seen := [] } ∧ SameMemory s t ∧
          ∀ y, y ≠ x → { t.ctx y with seen := [] } = { s.ctx y with seen := [] }) ∧
      (∀ k cause, formatFault (wordsOf (bodyLen h) (bs.drop 4)) (poolLen h) = some (k, cause) →
        exec (.blockFetch x) s = .next (takeTrap s3 x cause k c.next 0)))) ∧
  -- R104, R112, R115
  (∀ (body : List (BitVec 32)) (n : Nat),
    let op := fun k : Nat => slotOp (nth 0 body k)
    let many := 16 < (body.filter fun w => decide (0x47 ≤ slotOp w ∧ slotOp w ≤ 0x4A ∨ 0x50 ≤ slotOp w ∧ slotOp w ≤ 0x57)).length ∨
      8 < (body.filter fun w => decide (slotOp w = 0x68 ∨ slotOp w = 0x69)).length
    let named := fun (k : Nat) (o : Byte) => o.toNat < 0x80 ∧ (k ≤ o.toNat ∨ op o.toNat = 0x78)
    (many → formatFault body n = some (0x80, 0x03)) ∧
    (¬many → (∀ k < body.length, slotCauses body n k = []) → formatFault body n = none) ∧
    (¬many → ∀ k < body.length, (∀ j < k, slotCauses body n j = []) → ∀ c ∈ slotCauses body n k, (∀ d ∈ slotCauses body n k, c ≤ d) →
      formatFault body n = some (k, c)) ∧
    ∀ k,
      (op k = 0 → slotCauses body n k = [0x04]) ∧
      (op k ≠ 0 → op k ≠ 0x78 → slotRow (op k) = none → slotCauses body n k = [0x05]) ∧
      (∀ r, op k ≠ 0 → op k ≠ 0x78 → slotRow (op k) = some r →
        let f := slotFields (nth 0 body k) (nth 0 body (k + 1))
        ∀ c, c ∈ slotCauses body n k ↔
          (c = 0x06 ∧ ∃ o ∈ r.operands f, 0xE8 ≤ o.toNat) ∨ (c = 0x07 ∧ ∃ o ∈ r.operands f, named k o) ∨
          (c = 0x08 ∧ r.fmt.hasPred = true ∧ f.p ≠ 0xFF ∧ (f.p = 0x7F ∨ k ≤ f.p.toNat % 128 ∨ op (f.p.toNat % 128) = 0x78)) ∨
          (c = 0x09 ∧ r.ext ≠ none ∧ op (k + 1) ≠ 0x78) ∨ (c = 0x0B ∧ r.fieldsOk f = false) ∨
          (c = 0x0C ∧ r.fmt = .pool ∧ (if op k = 0x69 then n ≤ f.o.toNat else 2 * n ≤ f.o.toNat))) ∧
      (op k = 0x78 →
        (k = 0 ∨ (slotRow (op (k - 1))).bind (·.ext) = none → slotCauses body n k = [0x0A]) ∧
        (∀ u, 0 < k → (slotRow (op (k - 1))).bind (·.ext) = some u →
          let f := slotFields (nth 0 body (k - 1)) (nth 0 body k)
          ∀ c, c ∈ slotCauses body n k ↔
            (c = 0x06 ∧ u.c = true ∧ 0xE8 ≤ f.c.toNat) ∨ (c = 0x07 ∧ u.c = true ∧ named (k - 1) f.c) ∨ (c = 0x0B ∧ u.fieldsOk f = false)))) ∧
  -- R137, R104, R142, R363
  (∀ (s s1 : State) (x : Nat) (c1 : Cls) (pa : PA),
    let c := s.ctx x
    let b := c.next
    let rt := ctxRt s c
    let die := dieOf (cvOfX x)
    let held := fun (t : State) (q : PA) => has (t.cove (cvOfX x)).bcache (cacheKey q) = true ∧ ∃ r, Tab.find? (t.ctx x).seen (cacheKey q) = some r
    let reads := fun (t : State) (q : PA) => meterSegs (seeLine t x (cacheKey q) none) (t.ctx x).rid [(q, 64)]
    c.st = .run → c.blk = none →
      (∀ e, classify s rt b 4 false = .error e → exec (.blockFetch x) s = .next (takeTrap s x e 0x80 b (shownPtr rt b))) ∧
      (classify s rt b 4 false = .ok c1 → isDeep b = false → exec (.blockFetch x) s = .next (takeTrap s x 0x25 0x80 b (shownPtr rt b))) ∧
      (classify s rt b 4 false = .ok c1 → isDeep b = true →
        (∀ e, xlateDeep s die rt.root b.toNat true false = (s1, .error e) →
          exec (.blockFetch x) s = .next (takeTrap s1 x e 0x80 b b)) ∧
        (xlateDeep s die rt.root b.toNat true false = (s1, .ok pa) →
          (b.toNat % 16 ≠ 0 → exec (.blockFetch x) s = .next (takeTrap s1 x 0x02 0x80 b 0)) ∧
          (b.toNat % 16 = 0 →
            let line := b.toNat / 64 * 64
            (∀ s2 p1, xlateDeep s1 die rt.root line true false = (s2, .ok p1) →
              (held s2 p1 → Tab.get none (s2.ctx x).seen (cacheKey p1) = none →
                exec (.blockFetch x) s = .next (takeTrap s2 x 0x4C 0x80 b (BitVec.ofNat 64 line))) ∧
              (¬held s2 p1 → psnAt s2 p1 = true → gateLets s c.rid = true →
                exec (.blockFetch x) s = .next (takeTrap (reads s2 p1) x 0x4C 0x80 b (BitVec.ofNat 64 line)))) ∧
            (∀ s2 hd, fetchBytes s1 x rt.root b 4 = (s2, .ok hd) → gateLets s c.rid = true ∨ asked s s2 c.rid = false →
              (headerBad (leNat hd) = true → exec (.blockFetch x) s = .next (takeTrap s2 x 0x01 0x80 b 0)) ∧
              (headerBad (leNat hd) = false →
                let n := poolOff (leNat hd) + 16 * poolLen (leNat hd)
                (∀ e, classify s2 rt b n false = .error e → exec (.blockFetch x) s = .next (takeTrap s2 x e 0x80 b (shownPtr rt b))) ∧
                (∀ c2 s3 e a, classify s2 rt b n false = .ok c2 → fetchBytes s2 x rt.root b n = (s3, .trap e a) →
                  gateLets s c.rid = true ∨ asked s s3 c.rid = false →
                    exec (.blockFetch x) s = .next (takeTrap s3 x e 0x80 b a))))))) ∧
      (∀ l ls acc s2 p1, xlateDeep s1 die rt.root (64 * l) true false = (s2, .ok p1) →
        (held s2 p1 → (Tab.get none (s2.ctx x).seen (cacheKey p1) = none →
            fetchLines x rt.root b (l :: ls) s1 acc = (s2, .trap 0x4C (BitVec.ofNat 64 (64 * l)))) ∧
          ∀ bs, Tab.get none (s2.ctx x).seen (cacheKey p1) = some bs →
            fetchLines x rt.root b (l :: ls) s1 acc = fetchLines x rt.root b ls s2 (acc ++ bs)) ∧
        (¬held s2 p1 → psnAt s2 p1 = true →
          fetchLines x rt.root b (l :: ls) s1 acc = (reads s2 p1, .trap 0x4C (BitVec.ofNat 64 (64 * l))))))

/-- R139: a finished block whose executed slots hold no branch-class slot, or two or more, traps with NO_EXIT or DOUBLE_EXIT at XSLOT 0x80; with
exactly one it goes on to the checks of commit, waits for room in its scoreboards and FIFOs and, with a store or atomic to deep or peer memory, for
the permit gate (R332), and commits. -/
def Obligations.ExitCountTraps : Prop :=
  ∀ (s : State) (x : Nat) (b : Blk), (s.ctx x).st = .run → (s.ctx x).blk = some b → b.finished = true →
    ((exitsOf b.doneSlots).length = 0 → exec (.blockCommit x) s = .next (takeTrap s x 0x10 0x80 b.base 0)) ∧
    (2 ≤ (exitsOf b.doneSlots).length → exec (.blockCommit x) s = .next (takeTrap s x 0x11 0x80 b.base 0)) ∧
    (∀ e, exitsOf b.doneSlots = [e] → commitTrap s x (s.ctx x) b b.doneSlots = none →
      let gate := gateLets s (s.ctx x).rid = true ∨ ∀ d ∈ b.doneSlots, (∀ pa va n v, d.e = .store pa va n v → pa.sp = .shore) ∧
        ∀ op pa va v w r, d.e = .atomic op pa va v w r → pa.sp = .shore
      (commitRoom s (cvOfX x) b.doneSlots = true → gate → exec (.blockCommit x) s = .next (commitBlock s x b.doneSlots e)) ∧
      (commitRoom s (cvOfX x) b.doneSlots = false ∨ ¬gate → exec (.blockCommit x) s = .next s))

/-- R134, R135, R141, R162, R163, R175: commit step 1. PUT and the link of CALL write their register, WRCSR the fields of its register that a write
reaches; then the block's flags are ORed into XFFLAGS, and the context goes on at the exit's address. -/
def Obligations.CommitWritesRegisters : Prop :=
  ∀ (s : State) (x k : Nat) (b : Blk) (fl : BitVec 5) (nx : Word),
    let c := s.ctx x
    let to_ := fun (c1 : Ctx) => ∃ t, exec (.blockCommit x) s = .next t ∧ t.ctx x = c1.committed fl nx ∧ OnlyCtx s t x
    (∀ r v, Commits s x k b (.put r v) fl nx → to_ { c with g := Tab.put 0 c.g r v }) ∧
    (∀ v, (Commits s x k b (.wrcsr 0 v) fl nx → to_ { c with xcause := v }) ∧
      (Commits s x k b (.wrcsr 1 v) fl nx → to_ { c with xblock := v }) ∧
      (Commits s x k b (.wrcsr 2 v) fl nx → to_ { c with xslot := v }) ∧
      (Commits s x k b (.wrcsr 3 v) fl nx → to_ { c with xaddr := v }) ∧
      (Commits s x k b (.wrcsr 4 v) fl nx → to_ { c with xvec := v }) ∧
      (Commits s x k b (.wrcsr 5 v) fl nx → to_ { c with
        aie := v.getLsbD 5, intrap := v.getLsbD 4
        pprv := if v.extractLsb' 2 2 = 0 then .u else if v.extractLsb' 2 2 = 1 then .s else if v.extractLsb' 2 2 = 3 then .m else c.pprv }) ∧
      (Commits s x k b (.wrcsr 6 v) fl nx → to_ { c with ff := c.ff &&& ~~~(v.extractLsb' 0 5), frm := v.extractLsb' 8 2 }) ∧
      (Commits s x k b (.wrcsr 7 v) fl nx → to_ { c with xscratch := v }) ∧
      (Commits s x k b (.wrcsr 11 v) fl nx → to_ { c with xvecm := v })) ∧
    (∀ r v, c.st = .run → c.blk = some b → b.finished = true → b.doneSlots = [⟨k, .call nx r v, fl⟩] → s.arrs = [] →
      to_ { c with g := Tab.put 0 c.g r v }) ∧
    (Tab.rising c.g = true → ∀ r v q, Tab.get 0 (Tab.put 0 c.g r v) q = if q = r then v else c.reg q)

/-- R162, R169, R174: commit step 5. A branch goes on; YIELD waits for the core's other running contexts; HALT halts; ERET restores the mode, clears
INTRAP and goes on at XBLOCK, back in the BARWAIT or YIELDWAIT that its event was taken from where that still stands; SYS traps with its code in place
of the exit, and beside a HALT or ERET exit with OPND_RANGE at its own slot. -/
def Obligations.ExitsTakeEffect : Prop :=
  ∀ (s : State) (x m : Nat) (b : Blk) (fl : BitVec 5) (nx : Word),
    let c := s.ctx x
    let exits := fun k => c.st = .run ∧ c.blk = some b ∧ b.finished = true ∧ b.doneSlots = [⟨m, .exit k nx, fl⟩] ∧ s.arrs = []
    let to_ := fun (c1 : Ctx) => ∃ t, exec (.blockCommit x) s = .next t ∧ t.ctx x = c1 ∧ OnlyCtx s t x
    let others := ((span (4 * cvOfX x) 4).filter fun y => y != x && decide ((s.ctx y).st = .run)).map fun y => (y, (s.ctx y).commits)
    (exits .branch → to_ (c.committed fl nx)) ∧
    (exits .yield → to_ { c.committed fl nx with st := .yieldwait (dieClock s (dieOf (cvOfX x))) others }) ∧
    (exits .halt → to_ { c.committed fl nx with st := .halted, back := none }) ∧
    let eret := { c.committed fl nx with prv := c.pprv, intrap := false, next := c.xblock, back := none }
    (exits .eret → (c.back = none ∨ ∃ l, c.back = some (.barwait l)) → to_ eret) ∧
    (exits .eret → ∀ t0 w, c.back = some (.yieldwait t0 w) → (∀ e ∈ w, e.1 ≠ x) →
      let met := t0 + 64 ≤ cycleOf s (cvOfX x) ∨ ∀ e ∈ w, e.2 < (s.ctx e.1).commits
      (met → to_ eret) ∧ (¬met → to_ { eret with st := .yieldwait t0 w })) ∧
    (∀ l, c.st = .run → c.blk = some b → b.finished = true → b.doneSlots = [⟨m, .exit .eret nx, fl⟩] → c.back = some (.barwait l) →
      (∃ ids, s.arrs = [⟨false, l, c.rid, cvOfX x, x, none, ids⟩]) → (∃ y ∈ barParts s c.rid l (cvOfX x), y ≠ x) →
      to_ { eret with st := .barwait l }) ∧
    (∀ k code, Commits s x k b (.sys code) fl nx → c.intrap = false → (if c.prv = .u then c.xvec else c.xvecm) ≠ 0 →
      to_ { c.committed fl nx with
        xcause := BitVec.ofNat 64 (0x16 + 256 * c.prv.code), xslot := BitVec.ofNat 64 k, xblock := nx, xaddr := BitVec.ofNat 64 code
        pprv := c.prv, intrap := true, prv := if c.prv = .u then .s else .m, next := if c.prv = .u then c.xvec else c.xvecm }) ∧
    (∀ k code e, c.st = .run → c.blk = some b → b.finished = true → exitsOf b.doneSlots = [e] → (e.kind = .halt ∨ e.kind = .eret) →
      sysOf b.doneSlots = some (k, code) → exec (.blockCommit x) s = .next (takeTrap s x 0x13 k b.base 0))

/-- R141, R154, R160, R166 to R168, R170 to R172, R302: commit steps 1 to 4 of BBARM, XFCLR, stores, commands, QPOP, QPUSH, SIGNAL and BAR. A store
goes on its way with its bytes, the lowest first, once the permit gate lets it (R332), and memory stays as it is until it is performed; each
instruction changes one barrier, queue, FIFO or scoreboard. The credits of an arm's own clock count against it, and a flag raised in the clock of a
clear stays (R97). A pushed token arrives at once where none is on its way before it and the FIFO can receive (R38), else later, one in each clock:
the rule gives no clock, and this is the model's choice (log entry 128). BAR arrives, and its context waits in BARWAIT while another participant has
not arrived; the last arrival lets them all go on, each an acquire. -/
def Obligations.CommitMovesData : Prop :=
  ∀ (s : State) (x k : Nat) (b : Blk) (fl : BitVec 5) (nx : Word),
    let c := s.ctx x
    let cv := cvOfX x
    let to_ := fun (P : State → Prop) => ∃ t, exec (.blockCommit x) s = .next t ∧ t.ctx x = c.committed fl nx ∧ P t ∧ SameMemory s t ∧
      ∀ y, y ≠ x → t.ctx y = s.ctx y
    (∀ n v, Commits s x k b (.bbarm n v) fl nx → Tab.rising (s.cove cv).bars = true →
      to_ fun t => ∀ m, t.bar cv m = if m = n then
        BitVec.ofNat 32 (v - match Tab.find? (s.cove cv).crd n with | some (t0, got) => if t0 = cycleOf s cv then got else 0 | none => 0) else s.bar cv m) ∧
    (∀ v, Commits s x k b (.wrcsr 12 v) fl nx →
      let keeps := fun (old : BitVec 5) (r : Nat × BitVec 5) => old &&& (~~~(v.extractLsb' 0 5) ||| if r.1 = cycleOf s cv then r.2 else 0)
      to_ fun t => (v.extractLsb' 8 5 = 16 → (t.cove cv).mflags = keeps (s.cove cv).mflags (s.cove cv).mraised ∧ t.cells = s.cells) ∧
        ∀ u < 16, (v.extractLsb' 8 5).toNat = u →
          let ce := s.cell (16 * cv + u)
          ∀ lane, Tab.get 0 (t.cell (16 * cv + u)).flags lane =
            if v.getLsbD (16 + lane) ∧ lane < 16 then keeps (Tab.get 0 ce.flags lane) (Tab.get (0, 0) ce.raised lane) else Tab.get 0 ce.flags lane) ∧
    (∀ n v, Commits s x k b (.signal n v) fl nx →
      to_ fun t => t.credits = s.credits ++ [⟨cv, n, v, (accsOf s (.ctx x)).map (·.id)⟩]) ∧
    (∀ pa va n v, Commits s x k b (.store pa va n v) fl nx → (pa.sp = .shore ∨ gateLets s c.rid = true) →
      to_ fun t => t.nextId = s.nextId + 1 ∧ ∃ a, t.accs = s.accs ++ [a] ∧ a.id = s.nextId ∧ a.ag = .ctx x ∧ a.rid = c.rid ∧ a.va = va ∧
        a.segs = [(match pa.sp with | .peer dev _ => ⟨.peer dev (linkOf s dev pa.adr), pa.adr⟩ | _ => pa, n)] ∧ a.issued = true ∧ ∃ bs, a.kind = .wr bs ∧ bs.length = n ∧
          ∀ i < n, bs[i]? = some (i, v.extractLsb' (8 * i) 8)) ∧
    (∀ w, Commits s x k b (.scmd w) fl nx → commitTrap s x c b b.doneSlots = none → sbLen s (sbKey cv (sbIndex w)) < 16 →
      to_ fun t => t.sbs = Tab.insert s.sbs (sbKey cv (sbIndex w))
        (sbCmds s (sbKey cv (sbIndex w)) ++ [Cmd.mk w x c.rid c.prv false ((accsOf s (.ctx x)).map (·.id)) none none])) ∧
    (∀ f, Commits s x k b (.pop f) fl nx →
      to_ fun t => ∀ g, Tab.get [] (t.cove cv).tq g = if g = f then (Tab.get [] (s.cove cv).tq f).drop 1 else Tab.get [] (s.cove cv).tq g) ∧
    (∀ f tok, Commits s x k b (.push f tok) fl nx → f < 8 → fqCount s cv f < 16 →
      let way := Tab.get [] (s.cove cv).fqIn f
      let now := way = [] ∧ canArrive s (16 * cv) (0xA8 + f) 0 = true
      (now → (s.fifo cv f).debt = 0 → (s.fifo cv f).closed = false → (s.fifo cv f).win = false →
        to_ fun t => (t.fifo cv f).toks = (s.fifo cv f).toks ++ [⟨tok, (s.fifo cv f).sticky + 1, 0⟩] ∧
          ∀ g, g ≠ f → t.fifo cv g = s.fifo cv g) ∧
      (¬now → to_ fun t => Tab.get [] (t.cove cv).fqIn f = way ++ [(c.rid, tok)] ∧ ∀ g, t.fifo cv g = s.fifo cv g)) ∧
    (∀ f rid tok rest clk, f < 8 → Tab.get [] (s.cove cv).fqIn f = (rid, tok) :: rest → (s.fifo cv f).debt = 0 → (s.fifo cv f).closed = false →
      (s.fifo cv f).win = false → Tab.rising (s.cove cv).fqIn = true →
      let t := pushIn cv f 1 clk s
      (t.fifo cv f).toks = (s.fifo cv f).toks ++ [⟨tok, (s.fifo cv f).sticky + 1, 0⟩] ∧ Tab.get [] (t.cove cv).fqIn f = rest ∧
        SameMemory s t ∧ ∀ y, t.ctx y = s.ctx y) ∧
    (∀ l, Commits s x k b (.bar l) fl nx → (∃ y ∈ barParts s c.rid l cv, y ≠ x) →
      ∃ t, exec (.blockCommit x) s = .next t ∧ t.ctx x = { c.committed fl nx with st := .barwait l } ∧ SameMemory s t ∧
        (∀ y, y ≠ x → t.ctx y = s.ctx y) ∧ t.arrs = [⟨false, l, c.rid, cv, x, none, (accsOf s (.ctx x)).map (·.id)⟩]) ∧
    (∀ (l m : Nat) (ys : List Nat), c.st = .run → c.blk = some b → b.finished = true →
      b.doneSlots = [⟨k, .bar l, fl⟩, ⟨m, .exit .branch nx, 0⟩] → groupOf s c.rid l = 0 → (∀ a ∈ s.accs, a.ag ≠ .ctx x) →
      s.arrs = ys.map (fun y => ⟨false, l, c.rid, cv, y, none, []⟩) → (∀ y, y ∈ barParts s c.rid l cv ↔ y = x ∨ y ∈ ys) →
      (∀ y ∈ ys, y ≠ x ∧ (s.ctx y).st = .barwait l) →
      ∃ t, exec (.blockCommit x) s = .next t ∧ t.ctx x = c.committed fl nx ∧ t.arrs = [] ∧ (t.cove cv).rbuf = [] ∧ SameMemory s t ∧
        (∀ y ∈ ys, t.ctx y = { s.ctx y with st := .run } ∧ (t.cove (cvOfX y)).rbuf = []) ∧ ∀ y, y ≠ x → y ∉ ys → t.ctx y = s.ctx y)

/-- R161: at commit an atomic whose bytes no store of the core in flight, no fence and no poison touches leaves its result in its 8 bytes, in no other
byte, and its old value in its register; the register file is otherwise as before. One to deep memory needs the permit gate (R332). -/
def Obligations.AtomicsAreOneAccess : Prop :=
  ∀ (s : State) (x k op d : Nat) (b : Blk) (fl : BitVec 5) (nx va v w : Word) (pa : PA),
    Commits s x k b (.atomic op pa va v w d) fl nx → op < 8 →
    (∀ a ∈ s.accs, ∀ y, a.ag = .ctx y → cvOfX y = cvOfX x → ∀ e ∈ a.segs, meets (pa, 8) e = false) →
    s.hbm.wf = true → s.hostMem.wf = true → s.shore.wf = true → Tab.rising (s.ctx x).g = true →
    (pa.sp = .hbm → 65536 ≤ pa.adr) → (∀ dev l, pa.sp ≠ .peer dev l) → fencedBy s (s.ctx x).rid [(pa, 8)] = none →
    (pa.sp = .shore ∨ gateLets s (s.ctx x).rid = true) →
    (∀ i < 8, psnAt s ⟨pa.sp, pa.adr + i⟩ = false) →
      let old := BitVec.ofNat 64 (leNat ((span pa.adr 8).map fun a => rdPA s ⟨pa.sp, a⟩))
      let new := nth 0 [old + v, old &&& v, old ||| v, old ^^^ v, if old.toInt ≤ v.toInt then old else v,
        if old.toInt ≤ v.toInt then v else old, v, if old = w then v else old] op
      ∃ t, exec (.blockCommit x) s = .next t ∧
        (∀ q : PA, (∀ dev l, q.sp ≠ .peer dev l) → rdPA t q =
          if q.sp = pa.sp ∧ pa.adr ≤ q.adr ∧ q.adr < pa.adr + 8 then new.extractLsb' (8 * (q.adr - pa.adr)) 8 else rdPA s q) ∧
        (∀ r, (t.ctx x).reg r = if r = d then old else (s.ctx x).reg r) ∧ ∀ y, y ≠ x → t.ctx y = s.ctx y

/-! ### Stream commands (R177 to R213) -/

/-- R183 to R189, R191: the commands of ports and copy queues. A BIND with a sound block to an unbound port that a node of the active context of the
port's residency uses binds it with the block's fields and counters at 0, a gather or scatter to a new job on the engine that R186 chooses; until then
it waits with the block it has read; UNBIND leaves its unbinding pending; ARM.COPY arms its queue with the block's template; DISARM.COPY of a queue
with nothing under way disarms it. That an arbitration credit starts at 0 at BIND and ARM.COPY, and that BIND clears what SQRY shows of EOS, are the
model's choices (log entries 103 and 112). -/
def Obligations.PortAndCopyCommandsPerform : Prop :=
  ∀ (s t : State) (sb n op : Nat) (c : Cmd) (f : CmdW) (w : NodeW) (b : List Byte), CmdReady s sb c f →
    let cv := coveOfSb sb
    let p := f.tgt.toNat - 0x40
    let q := f.tgt.toNat - 0x50
    let own := (ridOfUnit t cv p 16).getD c.rid
    let words := fun o : Nat => (span 0 4).map fun k => fld b (o + 4 * k) 4
    let bound := fun (u : State) (d : Bind) =>
      let x := (popCmd u sb).setPort cv p { u.port cv p with
        bind := some d, dlv := 0, rdy := none, lo := none, hi := none, eos := false, took := false
        old := !(u.port cv p).buf.isEmpty }
      x.setCove cv { x.cove cv with parb := (x.cove cv).parb.fresh p }
    let aff : Bind := {
      kind := 0, read := op % 2 == 1, base := fldPtr b 0, fmt := fld b 8 1, lanes := fld b 9 1
      eotl := if fld b 10 1 = 0xFF then none else some (fld b 10 1)
      dims := words 16, strs := (words 32).map (sext 32), bar := if f.flg.getLsbD 0 then some f.sub.toNat else none, idx := [0, 0, 0, 0]
      fin := false, rob := [], job := none }
    (BlockReads s sb c f b t → (t.port cv p).bind = none → portNode t own cv p = some (n, w, op) →
      (op = 0x83 ∨ op = 0x84 → w.mode.toNat = fld b 8 1 → (f.flg.getLsbD 0 = true → op % 2 = 0) →
        (firstOff (affFields false b) = none → exec (.bindAff f) s = .next (bound t aff)) ∧
        (firstOff (affFields true b) = none → exec (.bindShore f) s = .next (bound t { aff with kind := 1 }))) ∧
      (w.mode.toNat = fld b 36 1 → f.flg = 0 → ∀ (t2 : State) (pa : PA) (l : Nat) (segs : List (PA × Nat)),
        resolve t (rtOf t own false) (dieOf cv) (fldPtr b 8) 1 true false = (t2, .ok ((pa, l) :: segs)) →
        let eng := leastLoaded t2 (span (4 * (if pa.sp = .hbm then pa.adr / (48 * 2 ^ 30) % 16 else 0)) 4)
        let made := fun scat : Bool => { t2 with
          nextJob := t2.nextJob + 1, jobs := Tab.insert t2.jobs t2.nextJob (newJob scat cv p ((ridOfUnit t2 cv p 16).getD c.rid) eng b) }
        let ind : Bind := { aff with
          kind := 2, read := true, fmt := fld b 36 1, lanes := fld b 37 1, eotl := none, dims := [fld b 24 4], strs := [0], bar := none
          idx := [0], job := some t2.nextJob }
        (op = 0x85 → firstOff (jobFields false b) = none → exec (.bindInd f) s = .next (bound (made false) ind)) ∧
        (op = 0x86 → firstOff (jobFields true b) = none →
          exec (.bindScat f) s = .next (bound (made true) { ind with kind := 3, read := false })))) ∧
    (BlockReads s sb c f b t → (t.port cv p).bind.isSome = true ∨ portNode t own cv p = none →
      let waits := if c.block.isSome then t else { t with sbs := Tab.insert t.sbs sb ({ c with block := some b } :: (sbCmds t sb).drop 1) }
      (firstOff (affFields false b) = none → exec (.bindAff f) s = .next waits) ∧
      (firstOff (affFields true b) = none → exec (.bindShore f) s = .next waits) ∧
      (firstOff (jobFields false b) = none → exec (.bindInd f) s = .next waits) ∧
      (firstOff (jobFields true b) = none → exec (.bindScat f) s = .next waits)) ∧
    ((s.port cv p).bind.isSome = true → (s.port cv p).unb = none →
      exec (.unbind f) s = .next ((popCmd s sb).setPort cv p { s.port cv p with unb := some (f.flg.getLsbD 0) })) ∧
    (BlockReads s sb c f b t → firstOff (copyFields t ⟨sb, c, f⟩ b) = none →
      let x := (popCmd t sb).setCq cv q { CopyQ.empty with
        toks := (t.cq cv q).toks
        tmpl := some {
          src := fldPtr b 0, dst := fldPtr b 8, bytes := fld b 16 4, sstep := sext 32 (fld b 20 4), dstep := sext 32 (fld b 24 4)
          bar := if fld b 28 1 = 0xFF then none else some (fld b 28 1), trapm := bitOf (fld b 29 1) 0, trig := bitOf (fld b 29 1) 1
          layout := fldPtr b 32, ctx := c.x, rid := c.rid } }
      exec (.armCopy f) s = .next (x.setCove cv { x.cove cv with qarb := (x.cove cv).qarb.fresh q })) ∧
    ((s.cq cv q).cur = none → (∀ a ∈ s.accs, a.ag ≠ .copy cv q) → (s.cq cv q).lo = none →
      exec (.disarmCopy f) s = .next ((popCmd s sb).setCq cv q { CopyQ.empty with toks := (s.cq cv q).toks, dlv := (s.cq cv q).dlv })) ∧
    ((s.cq cv q).cur.isSome = true →
      exec (.disarmCopy f) s = .next (s.setCq cv q { s.cq cv q with disarm := true }))

/-- R192, R195 to R198, R201 to R204: the configuration commands. CFG.LOAD whose copies all pass the loader puts them into the selected coves and
credits its barrier with their number; CFG.SWAP, CFG.PRED, COUPLE and PERMIT.ADJ change the residency's entry; DRAIN leaves the sources of R52
pending, one injection in a phase; PHASE arrives; MSLOT and SAMPLE.CFG write the cove's tables; each leaves its scoreboard. That MSLOT takes effect at
once when no turn is in progress is the model's reading (log entry 80). -/
def Obligations.ConfigurationCommandsPerform : Prop :=
  ∀ (s t : State) (sb : Nat) (c : Cmd) (f : CmdW) (b : List Byte), CmdReady s sb c f →
    let cv := coveOfSb sb
    let v := f.param.toNat
    (StillPasses s sb c → BlockReads s sb c f b t → firstOff (loadFields t ⟨sb, c, f⟩ b) = none →
      ∀ (d : Residency) (t2 : State) (l : List (Option Nat × Loaded)), Tab.find? t.res c.rid = some d →
        let sel := d.region.coves.filter (maskSelects (fld b 20 1) (fld b 22 2) (fld b 24 2))
        let into := if fld b 26 1 = 1 then (if sel.isEmpty then (d.region.coves.take 1).map some else sel.map some) else [none]
        let kept := keptBits t f.tgt.toNat ((d.region.coves.filter fun x => !has sel x).flatMap d.region.cellsIn)
        loadCopies (cmdRt t c) (dieOf cv) (fun w => ⟨d.region, w, sel, kept, true⟩) b into t [] = (t2, .ok l) →
          let t3 := popCmd (putCopies t2 d.region f.tgt.toNat sel l) sb
          exec (.cfgLoad f) s = .next (if fld b 27 1 = 0xFF then t3 else creditBar t3 cv (fld b 27 1) sel.length)) ∧
    exec (.cfgSwap f) s = .next (modRes (popCmd s sb) c.rid fun r => { r with pend := some f.tgt.toNat }) ∧
    (∃ g : Tab (BitVec 3) → Tab (BitVec 3), exec (.cfgPred f) s = .next (modRes (popCmd s sb) c.rid fun r => { r with nct := g r.nct }) ∧
      ∀ nct, Tab.rising nct = true → ∀ e, Tab.get 4 (g nct) e =
        if e < 16 ∧ f.param.getLsbD (48 + e) then f.param.extractLsb' (3 * e) 3 else Tab.get 4 nct e) ∧
    (∀ d, Tab.find? s.res c.rid = some d →
      ((d.active = none ∨ d.drainOn = true) → exec (.drain f) s = .next (popCmd s sb)) ∧
      (∀ k, d.active = some k → d.drainOn = false → ∃ l,
        exec (.drain f) s = .next (modRes (popCmd s sb) c.rid fun r => { r with drainOn := true, drainSrc := l }) ∧
        ∀ src, src ∈ l ↔
          (∃ ce ∈ d.region.cells, ∃ e ∈ nodesAt s ce k, src = .node (16 * ce + e.1) ∧
            (nodeOpc e.2.1 = 0x83 ∨ nodeOpc e.2.1 = 0x85 ∨
              (nodeOpc e.2.1 = 0x67 ∨ nodeOpc e.2.1 = 0x69) ∧ chanId (nodeFields e.2.1).inA = 0xFF)) ∨
          ∃ cw ∈ d.region.coves, ∃ q < 8, src = .fifo cw q ∧
            ∃ ce ∈ d.region.cellsIn cw, ∃ e ∈ nodesAt s ce k, ∃ i ∈ insOfWords e.2, chanId i = 0xA8 + q)) ∧
    exec (.phase f) s = .next
      (let u := popCmd s sb
       tryPhase { u with arrs := u.arrs ++ [⟨true, f.tgt.toNat, c.rid, cv, c.x,
         if f.sub = 0xFF then none else some (f.sub.toNat, v % 2 ^ 32), []⟩] } c.rid f.tgt.toNat cv) ∧
    (StillPasses s sb c → exec (.couple f) s = .next (modRes (popCmd s sb) c.rid fun r => { r with
      coups := r.coups.map fun k => if coupEp r.region v = some k.ep then { k with nxt := some {
        s := v / 2 ^ 24 % 64 + 1, p := v / 2 ^ 30 % 8, i := if v / 2 ^ 33 % 32 = 31 then none else some (v / 2 ^ 33 % 32)
        q := v / 2 ^ 38 % 16 + 4, wmin := v / 2 ^ 42 % 256, wmax := v / 2 ^ 50 % 256, mode := v / 2 ^ 58 % 4 } } else k })) ∧
    (StillPasses s sb c → exec (.permitAdj f) s = .next (modRes (popCmd s sb) c.rid fun r => { r with permits := v % 2 ^ 16 })) ∧
    (BlockReads s sb c f b t →
      (firstOff (mslotFields t cv b) = none →
        let u := { (popCmd t sb).cove cv with mnew := some (mslotTab b) }
        exec (.mslot f) s = .next ((popCmd t sb).setCove cv (if (mxEntry u).isNone then u.nextTurn (cycleOf (popCmd t sb) cv) else u))) ∧
      (firstOff (sampFields b) = none →
        exec (.sampleCfg f) s = .next ((popCmd t sb).setCove cv { (popCmd t sb).cove cv with samp := {
          key0 := BitVec.ofNat 32 (fld b 0 4), key1 := BitVec.ofNat 32 (fld b 4 4), ctr := fldPtr b 8, k := fld b 16 2
          topp := BitVec.ofNat 32 (fld b 20 4), temp := BitVec.ofNat 32 (fld b 24 4), shard := BitVec.ofNat 32 (fld b 28 4)
          heads := BitVec.ofNat 8 (fld b 32 1) } })))

/-- R199, R200, R205 to R208, R210, R211, R213, R346 to R351: the task, unmasking and service commands, and what FRESUME does for each agent that is
frozen on a record. That QUIESCE answers from one moment, and that SHORE.WIN on a residency that does not exist does nothing, are the model's choices
(log entries 25 and 53). Of FRESUME these are its readings: a record of a residency that is not placed is closed alone (log entry 130); a copy trap's
record that freezes again raises its event again (log entry 20); and COUNT of a job's record is the length of its backwash queue (log entry 75). That
a remote cause is shown in AUX of the records of kinds 1 and 4 alone is its choice (log entry 143). -/
def Obligations.TaskAndServiceCommandsPerform : Prop :=
  -- R199, R200, R205 to R207, R210, R211, R213
  (∀ (s t : State) (sb : Nat) (c : Cmd) (f : CmdW) (b : List Byte), CmdReady s sb c f →
    let cv := coveOfSb sb
    let v := f.param.toNat
    let u := popCmd s sb
    let credits := fun (x : State) (n : Nat) => if f.sub = 0xFF then x else creditBar x cv f.sub.toNat n
    (∀ r, c.gone = none → Tab.find? s.res c.rid = some r → queueLen s f.tgt.toNat < 1024 →
      exec (.taskLaunch f) s = .next (enqueue u f.tgt.toNat ⟨launchBits f, r.lch, some (qRoot s f.tgt.toNat)⟩)) ∧
    (Tab.rising s.tasks.dep = true → ∃ d, exec (.taskDep f) s = .next { u with tasks := { u.tasks with dep := d } } ∧
      ∀ k, Tab.get 0 d k = if k = v % 2 ^ 12 then
        (if f.sub = 0 then BitVec.ofNat 32 (v / 2 ^ 32 % 2 ^ 32)
         else BitVec.ofNat 32 ((Tab.get 0 s.tasks.dep k).toNat - v / 2 ^ 32 % 2 ^ 32)) else Tab.get 0 s.tasks.dep k) ∧
    (StillPasses s sb c → BlockReads s sb c f b t → firstOff (umxFields t ⟨sb, c, f⟩ b) = none →
      exec (.umxOpen f) s = .next ((popCmd t sb).setRound (64 * dieOf cv + f.tgt.toNat) f.sub.toNat {
        isOpen := true, maskp := fldPtr b 0, dirtyp := fldPtr b 8, stalep := fldPtr b 16, npos := fld b 24 4, tau := BitVec.ofNat 32 (fld b 28 4)
        share := fld b 32 2, cmin := fld b 34 2, cmax := fld b 36 2, radius := fld b 38 1, stale := fld b 39 1, lgroups := fld b 40 1
        bar := if fld b 44 1 = 0xFF then none else some (fld b 44 1), barcove := fld b 46 2, root := (cmdRt t c).root, rid := c.rid
        closedAt := none })) ∧
    (StillPasses s sb c →
      let e := 64 * dieOf cv + f.tgt.toNat
      let k := f.sub.toNat
      ((∃ st ∈ (s.umxAt e).steps, st.round = k ∧ st.full = true) → exec (.umxClose f) s = .next s) ∧
      ((∀ st ∈ (s.umxAt e).steps, st.round = k → st.full = false) →
        ∃ x, exec (.umxClose f) s = .next x ∧ (x.round e k).isOpen = false ∧ (∀ st ∈ (x.umxAt e).steps, st.round ≠ k) ∧
          SameMemory s x ∧ x.coves = s.coves ∧ x.res = s.res)) ∧
    (s.walks = [] → exec (.xinv f) s = .next
      (let scope := v / 2 ^ 52 % 16
       let x := popCmd { s with tlb := s.tlb.map fun l => (l.1, l.2.filter fun e => !(if scope = 0 then decide (e.vpn = v % 2 ^ 52 / 2 ^ pageBits e.size)
         else if scope = 1 then decide (e.root = (cmdRt s c).root) else true)) } sb
       if v / 2 ^ 56 % 256 = 0xFF then x else creditBar x cv (v / 2 ^ 56 % 256) 1)) ∧
    (∀ segs r, (c.gone.orElse fun _ => Tab.find? s.res c.rid) = some r → r.logOvf = false →
      let n := v / 2 ^ 64 % 2 ^ 16
      let mine := ((Tab.get [] s.logs (dieOf cv)).filter fun e => decide (e.rid = c.rid)).take n
      let bs := (mine.flatMap fun e => leBytes e.lo.toNat 8 ++ leBytes e.hi.toNat 8) ++ (if mine.length < n then List.replicate 16 0xFF else [])
      xlPieces (cmdRt s c) (dieOf cv) (pieces (bs.length / 64 + 2) (fPtr f).toNat bs.length) s [] = (t, .ok segs) →
        let x := popCmd (writeBytes (meterSegs t c.rid segs) ((segPAs segs).zip bs)) sb
        exec (.logDrain f) s = .next
          (credits { x with logs := Tab.put [] x.logs (dieOf cv) (dropLog c.rid mine.length (Tab.get [] x.logs (dieOf cv))) } bs.length)) ∧
    (∀ segs r, Tab.find? s.res c.rid = some r →
      let quiet := balanced r && !resBusy s c.rid r
      let bs := leBytes (quiet.toNat + 2 * (r.reported && r.dlWrote).toNat) 8
      xlPieces (cmdRt s c) (dieOf cv) (pieces 2 (fPtr f).toNat 8) (quiesceTest s c.rid).1 [] = (t, .ok segs) →
        exec (.quiesce f) s = .next (credits (popCmd (writeBytes (meterSegs t c.rid segs) ((segPAs segs).zip bs)) sb) 8)) ∧
    exec (.shoreWin f) s = .next
      (let word := BitVec.ofNat 32 (v / 2 ^ 32 % 16 + 16 * (v / 2 ^ 36 % 16) + 2 ^ 8 * (v / 2 ^ 40 % 16) + 2 ^ 12 * (v / 2 ^ 44 % 16)
         + 2 ^ 16 * (v / 2 ^ 48 % 8) + 2 ^ 20 * (v / 2 ^ 52 % 2) + 2 ^ 21 * (v / 2 ^ 53 % 2))
       { modRes u (v % 2 ^ 13) (fun r => { r with wins := Tab.insert r.wins f.tgt.toNat word }) with
         parked := Tab.modify u.parked (v % 2 ^ 13) fun p => { p with res := { p.res with wins := Tab.insert p.res.wins f.tgt.toNat word } } })) ∧
  -- R208, R346, R348 to R351, R361, R379
  (∀ (s t : State) (sb idx : Nat) (c : Cmd) (f : CmdW) (r : Rec) (ag : Agent) (segs : List (PA × Nat)) (e : XErr), CmdReady s sb c f →
    StillPasses s sb c → idx = f.param.toNat % 2 ^ 12 → Tab.find? s.recs.owner idx = some ag → Tab.find? s.recs.live idx = some r →
    let u := popCmd s sb
    let to_ := fun x : State => exec (.fresume f) s = .next x
    let again := fun (x : State) (g : Rec → Rec) => to_ (writeRec x idx { g r with seq := (r.seq + 1) % 65536, st := 1 })
    let same := fun q : Rec => { q with cause := e.cause, aux := if q.kind = 4 ∨ q.kind = 1 then BitVec.ofNat 64 e.aux else q.aux }
    (∀ d, Tab.find? s.res r.rid = some d →
      (d.parking = true → to_ s) ∧
      (d.parking = false → d.st ≠ .placed → Tab.find? s.parked r.rid = none → (∀ n, ag ≠ .target n) → to_ (closeRec u idx))) ∧
    ((∀ d, Tab.find? s.res r.rid = some d → d.parking = false ∧ d.st = .placed) → Tab.find? s.parked r.rid = none →
      (f.sub = 0 →
        (∀ n a, ag = .node n → u.accs.find? (fun a => decide (a.ag = .node n) && a.segs.isEmpty) = some a →
          let at_ := resolve u (rtOf u a.rid false) (unitOf u a.ag) a.va a.len a.kind.needs.1 a.kind.needs.2
          (at_ = (t, .ok segs) → to_ (translated (closeRec t idx) a segs (liveNode u a.rid n).v)) ∧
          (at_ = (t, .error e) → 0x40 ≤ e.cause → again t same)) ∧
        (∀ cv p b rid, ag = .port cv p → (u.port cv p).bind = some b → ridOfUnit u cv p 16 = some rid →
          let at_ := resolve u (rtOf u rid false) (64 + 16 * cv + p) (elemAddr b) b.size b.read (!b.read)
          (at_ = (t, .ok segs) → to_ (closeRec t idx)) ∧ (at_ = (t, .error e) → 0x40 ≤ e.cause → again t same)) ∧
        (∀ cv q d off, ag = .copy cv q → (u.cq cv q).tmpl = some d → (u.cq cv q).cur = some off →
          let old := u.cq cv q
          let patch := leNat (Memory.rdN u.hbm (recAddr u idx + 32) 8)
          let k := if d.trapm = true ∧ patch ≠ 0 then
            (if old.wside then { old with dpatch := some (BitVec.ofNat 64 patch, off) } else { old with spatch := some (BitVec.ofNat 64 patch, off) })
            else old
          let ends := copyAddr k d off
          let va := if old.wside then ends.2 else ends.1
          let at_ := resolve u (rtOf u d.rid false) (dieOf cv) va (let n := min (8 - ends.2.toNat % 8) (d.bytes - off)
            if old.wside then n else min n (65536 - ends.1.toNat % 65536)) (!old.wside) old.wside
          (at_ = (t, .ok segs) → to_ (closeRec (t.setCq cv q k) idx)) ∧
          (at_ = (t, .error e) → 0x40 ≤ e.cause → (d.trapm = false ∨ c.host = true) →
            again t fun x => { x with cause := e.cause, va := shownPtr (rtOf t d.rid false) va }) ∧
          (at_ = (t, .error e) → 0x40 ≤ e.cause → d.trapm = true → c.host = false →
            to_ (asyncTo (writeRec t idx { r with
              cause := e.cause, va := shownPtr (rtOf t d.rid false) va, seq := (r.seq + 1) % 65536, st := 1 }) d.rid d.ctx idx))) ∧
        (∀ j d, ag = .job j → u.job j = some d → d.scat = false →
          (∀ va, d.wordVa = some va → d.bw = [] →
            let at_ := resolve u (rtOf u d.rid false) d.unit va (if d.lim = none ∨ d.idx64 = true then 8 else 4) true false
            (at_ = (t, .ok segs) → ∃ x, to_ (closeRec x idx) ∧ x.job j = some { d with wordVa := none, bw := [], susp := false } ∧
              { x with jobs := [] } = { t with jobs := [] }) ∧
            (at_ = (t, .error e) → 0x40 ≤ e.cause → ∃ x, x.job j = some { d with bw := [], susp := false } ∧
              { x with jobs := [] } = { t with jobs := [] } ∧
              again x fun q => { q with va := va, cause := e.cause, acc := 0, count := 0, dlv := d.deliv, aux := d.cursor })) ∧
          (∀ id a, d.wordVa = none → d.bw = [id] → u.accs.find? (fun a => a.id == id) = some a →
            let at_ := resolve u (rtOf u d.rid false) d.unit a.va a.len a.kind.needs.1 a.kind.needs.2
            (at_ = (t, .ok segs) → ∃ x, to_ (closeRec x idx) ∧
              { x with jobs := [] } = { translated t a segs (jobWave u d) with jobs := [] } ∧
              ∃ d2, x.job j = some d2 ∧ d2.bw = [] ∧ d2.susp = false) ∧
            (at_ = (t, .error e) → 0x40 ≤ e.cause → ∃ x, { x with jobs := [] } = { t with jobs := [] } ∧
              x.job j = some { d with susp := false } ∧
              again x fun q => { q with va := a.va, cause := e.cause, acc := d.acc, count := 1, dlv := d.deliv, aux := d.cursor }))) ∧
        (∀ n st l, ag = .umx n → (u.umxAt n).steps = st :: l →
          let d := u.round n st.round
          let a := stepNext st d
          let at_ := resolve u { rtOf u d.rid false with root := d.root } (n / 64) a.2.1 a.2.2.1 true a.2.2.2
          (at_ = (t, .ok segs) → to_ (closeRec t idx)) ∧ (at_ = (t, .error e) → 0x40 ≤ e.cause → again t same)) ∧
        (∀ n d l, ag = .target n → sbCmds u n = d :: l →
          let at_ := resolve u (cmdRt u d) (unitOf u (.target n)) r.va 1 (r.acc != 1) (r.acc == 1 || r.acc == 2)
          (at_ = (t, .ok segs) → to_ (closeRec t idx)) ∧ (at_ = (t, .error e) → 0x40 ≤ e.cause → again t same))) ∧
      (f.sub = 1 → ∀ cv q d off, ag = .copy cv q → (u.cq cv q).tmpl = some d → (u.cq cv q).cur = some off →
        let k := u.cq cv q
        let x := closeRec (u.setCq cv q { k with cur := none, f := k.f + 1, spatch := none, dpatch := none }) idx
        to_ (match d.bar with | some b => creditBar x cv b (d.bytes - off) | none => x))) ∧
    (∀ p, Tab.find? s.parked r.rid = some p → Tab.find? s.res r.rid = none → r.st = 1 → ∃ x, to_ x ∧
      (∃ p2, Tab.find? x.parked r.rid = some p2 ∧ p2 = { p with held := p.held ++ [4 * idx + 2 * c.host.toNat + (f.sub == 1).toNat] }) ∧
      ∃ r2, Tab.find? x.recs.live idx = some r2 ∧ r2 = { r with st := 2 }))

/-- R209, R212, R358 to R360, R400: PARK first stops its residency, and saves it once nothing of it is in flight and its area translates; UNPARK waits
for its coves, and then restores the residency whose header its area holds, or discards it; CKPT begins when the engine is free, waits in turn when it
is not, copies a piece at a time, and in MODE 1 takes its work from its list of entries. Three points are the model's choice: the residency is saved
when nothing of it is in flight at one moment, its contexts being left to run until then (log entry 62), what its save holds beyond the header is left
open, and a return waits for coves and scoreboards that are not free (log entry 61). -/
def Obligations.ParkingAndCheckpointPerform : Prop :=
  ∀ (s t : State) (sb : Nat) (c : Cmd) (f : CmdW) (b : List Byte), CmdReady s sb c f →
    let q : CmdCx := ⟨sb, c, f⟩
    let rid := f.param.toNat / 2 ^ 64 % 2 ^ 13
    (∀ r, Tab.find? s.res rid = some r →
      (r.parking = false → StillPasses s sb c → exec (.park f) s = .next (modRes s rid fun d => { d with parking := true })) ∧
      (r.parking = true → parkQuiet s rid r = false → exec (.park f) s = .next s) ∧
      (r.parking = true → parkQuiet s rid r = true → ∀ segs, areaSegs q s (saveSize r) true = (t, .ok segs) →
        exec (.park f) s = .next (parkInto t q rid r segs) ∧
        ∃ p, Tab.find? (parkInto t q rid r segs).parked rid = some p ∧ p.res.region = r.region ∧ p.res.parking = false ∧ p.area = fPtr f ∧
          p.hdr = (segPAs segs).take 64 ∧ p.held = [])) ∧
    (StillPasses s sb c → ∀ p, Tab.find? s.parked rid = some p →
      (f.sub = 1 → exec (.unpark f) s = .next (discardRes s q rid p)) ∧
      (f.sub ≠ 1 → canReturn s rid p = false → exec (.unpark f) s = .next s) ∧
      (f.sub ≠ 1 → canReturn s rid p = true → ∀ segs st t2 hdr, areaSegs q s 64 false = (t, .ok segs) →
        rdSegs t segs = (t, hdr, false) → headerMismatch rid p.res hdr = none →
        areaSegs (q.at_ 16) t 1 true = (t2, .ok st) → exec (.unpark f) s = .next (returnRes t2 q rid p st))) ∧
    (s.ckpt = none → (s.ckptQ = [] ∨ s.ckptQ.head? = some sb) → BlockReads (queued s sb) sb c f b t → firstOff (ckptFields b) = none → fld b 20 1 = 0 →
      exec (.ckpt f) s = .next { t with
        ckpt := some ⟨sb, c.rid, fldPtr b 0, [.phys 0 (768 * 2 ^ 30)], fldPtr b 24, 1, 0⟩, ckptQ := t.ckptQ.filter (· != sb) }) ∧
    (s.ckpt = none → (s.ckptQ = [] ∨ s.ckptQ.head? = some sb) → BlockReads (queued s sb) sb c f b t → firstOff (ckptFields b) = none → fld b 20 1 = 1 →
      ∀ t2 l, ckList q (fld b 16 4) (fldPtr b 8) t [] = (t2, .ok l) →
        let full := l.any fun e => e == (0, 2 ^ 64 - 1)
        let deep := l.filter fun e => decide (e.1 / 2 ^ 62 = 0)
        exec (.ckpt f) s = .next { t2 with
          ckpt := some ⟨sb, c.rid, fldPtr b 0,
            if full then [.phys 0 (768 * 2 ^ 30)] else deep.flatMap fun e =>
              [.lit (leBytes e.1 8 ++ leBytes e.2 8), .deep e.1 (e.2 + 1 - e.1), .lit (List.replicate ((16 - (e.2 + 1 - e.1) % 16) % 16) 0)],
            fldPtr b 24, if full then 2 else 1, if full then 0 else l.length - deep.length⟩, ckptQ := t2.ckptQ.filter (· != sb) }) ∧
    (∀ n a t2 bs acc, rdVa s (cmdRt s c) (dieOf (coveOfSb sb)) a 16 = (t2, .ok bs none) →
      ckList q (n + 1) a s acc = if fld bs 0 8 = 2 ^ 64 - 1 ∧ fld bs 8 8 = 2 ^ 64 - 1 then (t2, .ok acc)
        else ckList q n (a + 16) t2 (acc ++ [(fld bs 0 8, fld bs 8 8)])) ∧
    (∀ acc, ckList q 0 (fldPtr b 8) s acc = (s, .ok acc)) ∧
    (∀ k, s.ckpt = some k → k.sb ≠ sb →
      exec (.ckpt f) s = .next (if has s.ckptQ sb then s else { s with ckptQ := s.ckptQ ++ [sb] })) ∧
    (∀ k pa n todo segs, s.ckpt = some k → k.sb = sb → k.rid = c.rid → k.todo = .phys pa n :: todo → n ≠ 0 → has s.poison.hbm (pa / 64) = false →
      let u := meterSegs s c.rid [(⟨.hbm, pa⟩, 8)]
      xlPieces (cmdRt u c) (dieOf (coveOfSb sb)) (pieces 2 k.dest.toNat 8) u [] = (t, .ok segs) → (∀ e ∈ segs, e.1.sp = .host) →
      exec (.ckpt f) s = .next { writeBytes (meterSegs t c.rid segs) ((segPAs segs).zip (Memory.rdN s.hbm pa 8)) with
        ckpt := some { k with dest := k.dest + 8, todo := .phys (pa + 8) (n - 8) :: todo } })

/-- R119, R178, R181, R182: with which cause a command that fails a check traps at commit; one whose check would fail at its target leaves its
scoreboard with no other effect and no record; one whose block breaks a limit leaves it too, with a record of kind 7, cause 0x1F, that names the first
failing offset; one whose block does not translate stays, its target frozen on a record of kind 5. That LOC is the issuing cove's first cell and CTX
the issuing context, and that a unit of the block which is not owned is an error of its field, are the model's choices (log entries 79 and 78). -/
def Obligations.CommandsThatFail : Prop :=
  -- R181, R182
  (∀ (s t : State) (sb off idx : Nat) (c : Cmd) (f : CmdW) (b : List Byte) (va : Word) (e : XErr), CmdReady s sb c f →
    (¬StillPasses s sb c → ∀ i ∈ [Instr.cfgLoad f, .couple f, .permitAdj f, .umxOpen f, .umxClose f, .fresume f, .unpark f],
      exec i s = .next (popCmd s sb)) ∧
    (s.recs.wait = [] → s.recs.lost = 0 →
      let cv := coveOfSb sb
      let p := f.tgt.toNat - 0x40
      let stays := fun (x : State) =>
        (∀ a, x.hostMem.rd a = s.hostMem.rd a ∧ x.shore.rd a = s.shore.rd a) ∧
        (∀ a, a < recAddr s idx ∨ recAddr s idx + 64 ≤ a → x.hbm.rd a = s.hbm.rd a) ∧
        (∀ v, { x.cove v with ctxs := [] } = { s.cove v with ctxs := [] }) ∧ x.cells = s.cells ∧ x.jobs = s.jobs ∧ x.umx = s.umx ∧
        ∀ y, { x.ctx y with evts := [] } = { s.ctx y with evts := [] } ∧ (y ≠ c.x → x.ctx y = s.ctx y)
      (freeRec (popCmd t sb) = some idx → c.host = false → off < 2 ^ 16 → Tab.rising t.sbs = true →
        let told := fun (o : Nat) (i : Instr) => ∃ x, exec i s = .next x ∧ stays x ∧ sbCmds x sb = (sbCmds s sb).drop 1 ∧
          ∃ r, Tab.find? x.recs.live idx = some r ∧ r.kind = 7 ∧ r.cause = 0x1F ∧ r.rid = c.rid ∧ r.ctx = c.x % 4 ∧
            r.loc = 16 * cv ∧ r.aux = BitVec.ofNat 64 o ∧ ∃ v ∈ x.host.held, v.cls = 0 ∧ v.index = idx
        (BlockReads s sb c f b t →
          (firstOff (sampFields b) = some off → told off (.sampleCfg f)) ∧
          (firstOff (mslotFields t cv b) = some off → told off (.mslot f)) ∧
          (firstOff (copyFields t ⟨sb, c, f⟩ b) = some off → told off (.armCopy f)) ∧
          (firstOff (affFields false b) = some off → told off (.bindAff f)) ∧
          (firstOff (affFields true b) = some off → told off (.bindShore f)) ∧
          (firstOff (jobFields false b) = some off → told off (.bindInd f)) ∧
          (firstOff (jobFields true b) = some off → told off (.bindScat f)) ∧
          (StillPasses s sb c →
            (firstOff (umxFields t ⟨sb, c, f⟩ b) = some off → told off (.umxOpen f)) ∧
            (firstOff (loadFields t ⟨sb, c, f⟩ b) = some off → told off (.cfgLoad f))) ∧
          (∀ n w op, (t.port cv p).bind = none → portNode t ((ridOfUnit t cv p 16).getD c.rid) cv p = some (n, w, op) →
            (firstOff (affFields false b) = none →
              ((op ≠ 0x83 ∧ op ≠ 0x84) ∨ (f.flg.getLsbD 0 = true ∧ op % 2 = 1) → told 0 (.bindAff f)) ∧
              (op = 0x83 ∨ op = 0x84 → f.flg.getLsbD 0 = false → w.mode.toNat ≠ fld b 8 1 → told 8 (.bindAff f))) ∧
            (firstOff (jobFields false b) = none →
              (op ≠ 0x85 → told 0 (.bindInd f)) ∧ (op = 0x85 → f.flg = 0 → w.mode.toNat ≠ fld b 36 1 → told 36 (.bindInd f))))) ∧
        (s.ckpt = none → (s.ckptQ = [] ∨ s.ckptQ.head? = some sb) → BlockReads (queued s sb) sb c f b t →
          firstOff (ckptFields b) = some off → told off (.ckpt f))) ∧
      (c.block = none → 0x40 ≤ e.cause → freeRec t = some idx → Tab.find? t.parked c.rid = none →
        let freezes := fun (i : Instr) => ∃ x, exec i s = .next x ∧ stays x ∧ sbCmds x sb = sbCmds s sb ∧ Tab.find? x.sbFz sb = some idx ∧
          ∃ r, Tab.find? x.recs.live idx = some r ∧ r.kind = 5 ∧ r.cause = e.cause ∧ r.st = 1
        (rdVa s (cmdRt s c) (dieOf cv) (fPtr f) 64 = (t, .err va e) →
          (∀ i ∈ [Instr.sampleCfg f, .mslot f, .armCopy f, .bindAff f, .bindShore f, .bindInd f, .bindScat f], freezes i) ∧
          (StillPasses s sb c → freezes (.umxOpen f) ∧ freezes (.cfgLoad f))) ∧
        (s.ckpt = none → (s.ckptQ = [] ∨ s.ckptQ.head? = some sb) →
          rdVa (queued s sb) (cmdRt (queued s sb) c) (dieOf cv) (fPtr f) 64 = (t, .err va e) → freezes (.ckpt f))))) ∧
  -- R117 to R119, R178, R180, and the statements of the commands, R183 to R213
  (∀ (s : State) (x k : Nat) (b : Blk) (fl : BitVec 5) (nx : Word) (w : BitVec 128), Commits s x k b (.scmd w) fl nx →
    let c := s.ctx x
    let cv := cvOfX x
    let f := cmdFields w
    let tgt := f.tgt.toNat
    let sub := f.sub.toNat
    let p := fun lo n : Nat => f.param.toNat / 2 ^ lo % 2 ^ n
    let form := p 64 32 ≠ 0 ∨ p 0 6 ≠ 0 ∨ p 62 2 = 3
    let plain := f.flg ≠ 0 ∨ sub ≠ 0
    let owns := fun n m : Nat => c.prv ≠ .u ∨ ownsUnit s c.rid cv n m = true
    let noBar := fun n : Nat => n ≠ 0xFF ∧ (64 ≤ n ∨ ¬owns n 64)
    let below := fun need : Priv => (c.prv.admits need = false, 0x19)
    let bound := (s.port cv (tgt - 0x40)).bind.isSome = true ∧ (s.port cv (tgt - 0x40)).unb = none
    let armed := (s.cq cv (tgt - 0x50)).tmpl.isSome = true
    let isOpen := (s.round (64 * dieOf cv + tgt) sub).isOpen = true
    let noPort := tgt < 0x40 ∨ 0x50 ≤ tgt
    let noQueue := tgt < 0x50 ∨ 0x90 ≤ tgt
    let reads := fun n : Nat => match (s.port cv n).bind with
      | some d => d.read = true
      | none => portUse s ((ridOfUnit s cv n 16).getD c.rid) cv n = 1
    let is := fun (sop : Nat) (l : List (Prop × Nat)) => cmdSop w = sop → CheckedAs s x k b l
    (cmdSop w = 0 ∨ 0x1D ≤ cmdSop w → exec (.blockCommit x) s = .next (takeTrap s x 0x18 k b.base 0)) ∧
    (sbCmds s (sbKey cv (sbIndex w)) = [] →
      (∀ sop ∈ [0x01, 0x04], is sop
        [(noPort ∨ form ∨ f.flg.toNat / 2 ≠ 0, 0x1A), (bound, 0x1B),
          (¬owns (tgt - 0x40) 16 ∨ (f.flg.getLsbD 0 = true ∧ (63 < sub ∨ ¬owns sub 64 ∨ reads (tgt - 0x40))) ∨
            (f.flg.getLsbD 0 = false ∧ sub ≠ 0), 0x1C)]) ∧
      (∀ sop ∈ [0x02, 0x03], is sop [(noPort ∨ form ∨ plain, 0x1A), (bound, 0x1B), (¬owns (tgt - 0x40) 16, 0x1C)]) ∧
      is 0x05 [(noPort ∨ f.flg.toNat / 2 ≠ 0 ∨ sub ≠ 0 ∨ f.param ≠ 0, 0x1A), (¬bound, 0x1B), (¬owns (tgt - 0x40) 16, 0x1C)] ∧
      is 0x06 [(noQueue ∨ form ∨ plain, 0x1A), (armed, 0x1B), (¬owns (tgt - 0x50) 64, 0x1C)] ∧
      is 0x07 [(noQueue ∨ plain ∨ f.param ≠ 0, 0x1A), (¬armed, 0x1B), (¬owns (tgt - 0x50) 64, 0x1C)] ∧
      is 0x08 [(3 < tgt ∨ form ∨ plain, 0x1A), (activeOf s c.rid = some tgt, 0x1B)] ∧
      is 0x09 [(3 < tgt ∨ plain ∨ f.param ≠ 0, 0x1A), (holdsImage s c.rid cv tgt = false, 0x1B)] ∧
      is 0x0A [(tgt ≠ 0 ∨ plain ∨ p 64 32 ≠ 0, 0x1A), (∃ v < 16, p (48 + v) 1 = 1 ∧ 5 ≤ p (3 * v) 3, 0x1C)] ∧
      is 0x0B [(tgt ≠ 0 ∨ plain ∨ f.param ≠ 0, 0x1A)] ∧
      is 0x0C [(tgt < 2 ∨ 7 < tgt ∨ f.flg ≠ 0 ∨ p 32 64 ≠ 0, 0x1A), (noBar sub, 0x1C)] ∧
      is 0x0D [(f.flg.toNat / 2 ≠ 0 ∨ sub / 8 ≠ 0, 0x1A), (4096 ≤ p 80 16, 0x1C),
        (Tab.find? s.res c.rid = none ∨
          (∃ r, Tab.find? s.res c.rid = some r ∧ (recLevel r ≤ sub % 8 ∨ levelOk r.lch (sub % 8) (p 64 16) (p 48 16) (p 32 16) = false)) ∨
          (hbmByte s (typeAddr s (p 80 16) + 49)).getLsbD 0 = false ∨ (p 20 12 ≠ 0 ∧ f.flg.getLsbD 0 = false), 0x1D)] ∧
      is 0x0E [(tgt ≠ 0 ∨ f.flg ≠ 0 ∨ p 12 20 ≠ 0 ∨ p 64 32 ≠ 0, 0x1A), (1 < sub, 0x1C)] ∧
      is 0x0F [(tgt ≠ 0 ∨ plain ∨ p 60 36 ≠ 0 ∨ p 23 1 ≠ 0, 0x1A),
        (¬∃ r ep, Tab.find? s.res c.rid = some r ∧ coupEp r.region f.param.toNat = some ep ∧
          let q := coupPar f.param.toNat
          (∃ y ∈ r.coups, y.ep = ep) ∧ q.ok = true ∧ q.stable = true ∧ q.s ≤ (match endpAt s ep with | some e => e.depth | none => 0) ∧
          hasCycle [] ((r.coups.filter fun y => (if y.ep = ep then q.mode else (y.nxt.getD y.par).mode) == 0).map fun y => (y.prod, y.cons)) =
            false, 0x1C)] ∧
      is 0x10 [(tgt ≠ 0 ∨ plain ∨ p 16 80 ≠ 0, 0x1A), (p 0 16 = 0, 0x1C),
        ((match Tab.find? s.res c.rid with | some r => r.permits | none => 0) < p 0 16, 0x1E)] ∧
      is 0x11 [below .s, (tgt ≠ 0 ∨ plain ∨ form, 0x1A)] ∧
      is 0x12 [(tgt ≠ 0 ∨ plain ∨ form, 0x1A)] ∧
      is 0x13 [(3 < tgt ∨ f.flg ≠ 0 ∨ form, 0x1A), (isOpen, 0x1B), (63 < sub, 0x1C)] ∧
      is 0x14 [(3 < tgt ∨ f.flg ≠ 0 ∨ f.param ≠ 0, 0x1A), (¬isOpen, 0x1B), (63 < sub, 0x1C)] ∧
      is 0x15 [below .s, (tgt ≠ 0 ∨ plain ∨ p 64 32 ≠ 0, 0x1A), (2 < p 52 4 ∨ noBar (p 56 8), 0x1C)] ∧
      is 0x16 [below .s, (tgt ≠ 0 ∨ f.flg ≠ 0 ∨ p 12 84 ≠ 0, 0x1A),
        (Tab.find? s.recs.owner (p 0 12) = none ∨ Tab.find? s.recs.live (p 0 12) = none, 0x1B),
        (1 < sub ∨ (sub = 1 ∧ (match Tab.find? s.recs.live (p 0 12) with | some r => r.kind | none => 0) ≠ 3), 0x1C)] ∧
      (let rid := p 64 13
       let placed := Tab.find? s.parked rid = none ∧ ∃ r, Tab.find? s.res rid = some r ∧ (r.wdFired = true ∨ frozenRes s rid r = true)
       let parked := ∃ q, Tab.find? s.parked rid = some q
       let fatal := ∃ r, anyRes s rid = some r ∧ r.st ≠ .placed
       is 0x17 [below .s, (tgt ≠ 0 ∨ f.flg ≠ 0 ∨ p 77 19 ≠ 0, 0x1A), (¬placed, 0x1B), (sub ≠ 0 ∨ p 0 16 ≠ 0 ∨ p 62 2 ≠ 0, 0x1C)] ∧
       is 0x18 [below .s, (tgt ≠ 0 ∨ f.flg ≠ 0 ∨ p 77 19 ≠ 0, 0x1A), (¬parked ∨ (sub = 0 ∧ fatal), 0x1B),
         (1 < sub ∨ p 0 16 ≠ 0 ∨ p 62 2 ≠ 0, 0x1C)]) ∧
      is 0x19 [(tgt ≠ 0 ∨ f.flg ≠ 0 ∨ p 80 16 ≠ 0, 0x1A),
        (p 0 4 ≠ 0 ∨ p 62 2 ≠ 0 ∨ p 64 16 = 0 ∨ 256 < p 64 16 ∨ noBar sub, 0x1C)] ∧
      is 0x1A [(tgt ≠ 0 ∨ f.flg ≠ 0 ∨ p 64 32 ≠ 0, 0x1A), (p 0 3 ≠ 0 ∨ p 62 2 ≠ 0 ∨ noBar sub, 0x1C)] ∧
      is 0x1B [below .m, (tgt ≠ 0 ∨ plain ∨ form, 0x1A)] ∧
      is 0x1C [below .s, (7 < tgt ∨ plain ∨ p 13 19 ≠ 0 ∨ p 51 1 ≠ 0 ∨ p 54 42 ≠ 0, 0x1A),
        (15 < p 32 4 + p 40 4 ∨ 11 < p 36 4 + p 44 4, 0x1C)]))

/-! ### Nodes of the fabric: lanes (R95 to R99, R215 to R226) -/

/-- R215, R216, R220 to R226: the integer and the floating-point lane nodes, ready on operands, fire with their results lane by lane. Four points are
the model's choice: that the scaled result of FMIN and FMAX, which ignore the rounding field, rounds to nearest even (log entry 85); that the result
of MIN, MAX, MULH, SHR, SAR, CLAMP, AND, OR, XOR and NOT, where a positive scale makes it overflow, wraps (log entry 132); that a node of three
operands under flag T has no third operand (log entry 28); and that an operand which is none, with no immediate, has no valid lane (log entry 137). -/
def Obligations.ArithmeticNodesFire : Prop :=
  -- R215, R220 to R223
  (∀ (s : State) (n : Nat) (w : NodeW) (hd : Nat → Tok),
    let c := ncx s n w
    let f := w.mode.toNat
    let imm := w.imm.toNat
    let lanes := fun (l : List Nat) (g : List Nat → Nat × Nat) =>
      let im := if l.length = 1 then none else some (if l.length = 2 then 1 else 2)
      dataFire c (laneNeeds c l im) (fmtWidth f) ((span 0 (fmtLanes f)).map (laneRes c f l im g))
    let ready := fun (l : List Nat) =>
      LaneReady s n w (laneNeeds c l (if l.length = 1 then none else some (if l.length = 2 then 1 else 2))) hd
    let wrap := fun (i : Instr) (l : List Nat) (op : Int → Int → Int → Int) =>
      ready l → Fires i s n w (lanes l (intLane w f false fun _ => op))
    let sat := fun (i : Instr) (l : List Nat) (op : Int → Int → Int → Int) =>
      ready l → Fires i s n w (lanes l (intLane w f true fun _ => op))
    let bitwise := fun (op : Nat → Nat → Nat) (a b : Int) => laneInt f (op (wrapT f a) (wrapT f b))
    let sh := fun b : Int => (2 ^ (wrapT f b % fmtWidth f) : Nat)
    wrap (.nodeAdd w) [0, 1] (fun a b _ => a + b) ∧ wrap (.nodeSub w) [0, 1] (fun a b _ => a - b) ∧
    wrap (.nodeMul w) [0, 1] (fun a b _ => a * b) ∧ wrap (.nodeMulh w) [0, 1] (fun a b _ => a * b / (2 ^ fmtWidth f : Nat)) ∧
    wrap (.nodeMad w) [0, 1, 2] (fun a b e => a * b + e) ∧ wrap (.nodeAbs w) [0] (fun a _ _ => (a.natAbs : Int)) ∧
    wrap (.nodeNeg w) [0] (fun a _ _ => -a) ∧ wrap (.nodeMin w) [0, 1] (fun a b _ => if b < a then b else a) ∧
    wrap (.nodeMax w) [0, 1] (fun a b _ => if a < b then b else a) ∧
    wrap (.nodeAnd w) [0, 1] (fun a b _ => bitwise (· &&& ·) a b) ∧ wrap (.nodeOr w) [0, 1] (fun a b _ => bitwise (· ||| ·) a b) ∧
    wrap (.nodeXor w) [0, 1] (fun a b _ => bitwise (· ^^^ ·) a b) ∧ wrap (.nodeNot w) [0] (fun a _ _ => laneInt f (wrapT f (-a - 1))) ∧
    wrap (.nodeShl w) [0, 1] (fun a b _ => a * sh b) ∧ wrap (.nodeShr w) [0, 1] (fun a b _ => (wrapT f a / sh b : Nat)) ∧
    wrap (.nodeSar w) [0, 1] (fun a b _ => sext (fmtWidth f) (wrapT f a) / sh b) ∧
    wrap (.nodeClamp w) [0, 1, 2] (fun a b e => let m := if a < b then b else a; if e < m then e else m) ∧
    sat (.nodeAdds w) [0, 1] (fun a b _ => a + b) ∧ sat (.nodeSubs w) [0, 1] (fun a b _ => a - b) ∧
    (w.n = false → f < 8 → ∀ (op : Int → Int → Int → Int) (x y z : Nat),
      intLane w f false (fun _ => op) [x, y, z] = (wrapT f (op (laneInt f x) (laneInt f y) (laneInt f z)), 0) ∧
      intLane w f true (fun _ => op) [x, y, z] = (satT f (op (laneInt f x) (laneInt f y) (laneInt f z)), 0)) ∧
    (let test := fun xs : List Nat => intCond (bitsOf imm 36 3) (laneInt f (nth 0 xs 0)) (laneInt f (nth 0 xs 1))
     let d := lanes [0, 1] fun xs => (if test xs then 2 ^ fmtWidth f - 1 else 0, 0)
     ready [0, 1] →
      (bitOf imm 35 = false → Fires (.nodeCmp w) s n w d) ∧
      (bitOf imm 35 = true → ∃ v, Fires (.nodeCmp w) s n w { d with out0 := some (ctrlTok v), out1 := some (ctrlTok v) } ∧
        v < 2 ^ fmtLanes f ∧ ∀ k < fmtLanes f, bitOf v k = ((srcLane c f (some 1) k 0).2 && (srcLane c f (some 1) k 1).2 &&
          test [(srcLane c f (some 1) k 0).1, (srcLane c f (some 1) k 1).1]))) ∧
    (let ns := laneNeeds c [0, 1, 2] (some 1)
     NodeReady s n w ns hd → 2 ∈ ns → 0 ∈ ns → (∀ i ∈ ns, i ≠ 2 → (hd i).k = 0) →
      ((hd 2).k = 6 → (hd 2).ctl ≠ 0 → Fires (.nodeSel w) s n w (Fire.both c ns (hd 0))) ∧
      ((hd 2).k = 6 → (hd 2).ctl = 0 → 1 ∈ ns → Fires (.nodeSel w) s n w (Fire.both c ns (hd 1))) ∧
      ((hd 2).k = 6 → (hd 2).ctl = 0 → useImm c = true → Fires (.nodeSel w) s n w (Fire.both c ns
        (dataTok (fmtWidth f) (List.replicate (fmtLanes f) (immLane f (bitsOf imm 0 32), true))))) ∧
      ((hd 2).k = 0 → w.t = false → Fires (.nodeSel w) s n w (dataFire c ns (fmtWidth f) ((span 0 (fmtLanes f)).map
        (laneRes c f [0, 1, 2] (some 1) fun xs => (if nth 0 xs 2 ≠ 0 then nth 0 xs 0 else nth 0 xs 1, 0))))))) ∧
  -- R215, R216, R224 to R226
  (∀ (s : State) (n : Nat) (w : NodeW) (hd : Nat → Tok),
    let c := ncx s n w
    let f := 8 + bitsOf w.mode.toNat 2 2
    let rm := bitsOf w.mode.toNat 0 2
    let F := ffOf f
    let im := fun l : List Nat => if l.length = 1 then none else some (if l.length = 2 then 1 else 2)
    let fires := fun (i : Instr) (l : List Nat) (op : Int → FV → FV → FV → Nat → Nat × Nat) =>
      LaneReady s n w (laneNeeds c l (im l)) hd →
        Fires i s n w (dataFire c (laneNeeds c l (im l)) (fmtWidth f) ((span 0 (fmtLanes f)).map
          (laneRes c f l (im l) (fpLane w fun _ _ k vs key => op k (fv vs 0) (fv vs 1) (fv vs 2) key))))
    fires (.nodeFadd w) [0, 1] (fun k a b _ _ => F.add rm k a b) ∧ fires (.nodeFsub w) [0, 1] (fun k a b _ _ => F.add rm k a b.neg) ∧
    fires (.nodeFmul w) [0, 1] (fun k a b _ _ => F.mul rm k a b) ∧ fires (.nodeFma w) [0, 1, 2] (fun k a b e _ => F.fma rm k a b e) ∧
    fires (.nodeFmin w) [0, 1] (fun k a b _ _ => F.out 0 k (fvMinMax false a b).1 (fvMinMax false a b).2) ∧
    fires (.nodeFmax w) [0, 1] (fun k a b _ _ => F.out 0 k (fvMinMax true a b).1 (fvMinMax true a b).2) ∧
    fires (.frcp w) [0] (fun k a _ _ _ => F.div rm k (.fin false 1 0) a) ∧ fires (.frsq w) [0] (fun k a _ _ _ => F.rsq rm k a) ∧
    fires (.fexp2 w) [0] (fun k a _ _ key => F.exp2 rm k a (8 * key)) ∧ fires (.flog2 w) [0] (fun k a _ _ key => F.log2 rm k a (8 * key + 1)) ∧
    fires (.nodeFdiv w) [0, 1] (fun k a b _ _ => F.div rm k a b) ∧
    (let g := fun xs : List Nat => fvCond (bitsOf w.imm.toNat 36 3) (F.decI (nth 0 xs 0)) (F.decI (nth 0 xs 1))
     let d := dataFire c (laneNeeds c [0, 1] (some 1)) (fmtWidth f) ((span 0 (fmtLanes f)).map
       (laneRes c f [0, 1] (some 1) fun xs => (if (g xs).1 then 2 ^ fmtWidth f - 1 else 0, (g xs).2)))
     LaneReady s n w (laneNeeds c [0, 1] (some 1)) hd →
      (bitOf w.imm.toNat 35 = false → Fires (.nodeFcmp w) s n w d) ∧
      (bitOf w.imm.toNat 35 = true → ∃ v, Fires (.nodeFcmp w) s n w { d with out0 := some (ctrlTok v), out1 := some (ctrlTok v) } ∧
        v < 2 ^ fmtLanes f ∧ ∀ k < fmtLanes f, bitOf v k = ((srcLane c f (some 1) k 0).2 && (srcLane c f (some 1) k 1).2 &&
          (g [(srcLane c f (some 1) k 0).1, (srcLane c f (some 1) k 1).1]).1))) ∧
    (w.n = false → ∀ (op : FF → Nat → Int → List FV → Nat → Nat × Nat) (x y z : Nat), ∃ key,
      fpLane w op [x, y, z] = op F rm 0 [F.decI x, F.decI y, F.decI z] key))

/-! ### Formats, lanes and flow (R63 to R77, R218, R227 to R253) -/

/-- R86 to R90, R218, R228 to R238: the format and lanes nodes. Each takes its operand and emits what its rule gives: CVT a group of converted lanes,
or an element group under its block's scale; CVT into MX and PACKB gather 32 values and then emit their block; UNPACKB holds the tokens of a block and
emits its groups; PERM, REDUCE, SCAN and ACC work lane by lane; HDR inserts, removes or forwards headers, and takes a delimiter of both inputs
together, also while it holds a token at a sticky count of 15; SPLAT fills every lane. That the firing of UNPACKB which takes a block's last token
also emits its first group (log entry 29), and that the flags of the step that forms the carry of an exclusive SCAN go to byte lane 0 (log entry 31),
are the model's readings; that a POISON which ACC emits has the payload zero (log entry 32), and that a CVT out of MX puts a copy of its result on
OUT_1 and its flags in the set of byte lane 0 (log entry 138), are its choices. -/
def Obligations.FormatNodesFire : Prop :=
  ∀ (s : State) (n : Nat) (w : NodeW) (hd : Nat → Tok),
    let c := ncx s n w
    let d := s.node n
    let m := w.mode.toNat
    let imm := w.imm.toNat
    let dst := bitsOf imm 0 4
    let k := min (fmtLanes m) (fmtLanes dst)
    let groups := fmtLanes m / k
    let data := NodeReady s n w [0] hd ∧ (hd 0).k = 0
    let lanesOf := fun t : Tok => (span 0 (fmtLanes m)).map fun j => (lane (fmtWidth m) t.pay j, laneOk (fmtWidth m) t j)
    d.pend = [] →
    (bitOf imm 7 = false → data →
      let g := (cvtSt d).1
      Fires (.cvt w) s n w ((dataFire c (if g + 1 = groups then [0] else []) (fmtWidth dst)
        (cvtLanes c g (convLane m dst (bitsOf imm 4 2) (bitOf imm 6)) (hd 0))).op (if g + 1 = groups then .none else .cvt (g + 1) none false))) ∧
    (bitOf imm 7 = true → m = 11 ∨ m = 13 →
      let g := (cvtSt d).1
      let total := groups * (if m = 11 then 2 else 1)
      let group := fun (x : Byte) (takes : List Nat) => (onByte0 (dataFire c takes (fmtWidth dst)
        (cvtLanes c (g % groups) (mxLane m dst (bitsOf imm 4 2) x) (hd 0)))).op (if g + 1 = total then .none else .cvt (g + 1) (some x) false)
      let taken := if (g + 1) % groups = 0 then [0] else []
      ((cvtSt d).2.1 = none → NodeReady s n w [0, 1] hd → (hd 0).k = 0 → (hd 1).k = 0 → laneOk 8 (hd 1) 0 = true →
        Fires (.cvt w) s n w (group ((hd 1).pay.extractLsb' 0 8) (taken ++ [1]))) ∧
      (∀ x, (cvtSt d).2 = (some x, false) → data → Fires (.cvt w) s n w (group x taken))) ∧
    (let gather := fun (i : Instr) (blk : List FV → (Option Tok × Option Tok) × List (Option Tok × Option Tok) × Nat) =>
      data →
        let vs := gathered d ++ valuesOf m (hd 0)
        let b := blk ((vs.take 32).map fun v => (ffOf m).decI v.toNat)
        (vs.length < 32 → Fires i s n w ((Fire.of c [0] none none).op (.gather vs false))) ∧
        (32 ≤ vs.length → Fires i s n w ((((Fire.of c [0] b.1.1 b.1.2).pending b.2.1).op .none).flag0 b.2.2))
     (bitOf imm 7 = true → m ≠ 11 → m ≠ 13 → gather (.cvt w) (mxBlock dst)) ∧
     gather (.packb w) (deBlock (bitOf imm 0) (!bitOf imm 1) (bitsOf imm 2 4))) ∧
    (∀ held k, unpackSt d = (held, k) →
      let full := if bitOf imm 0 then 1 else 2
      (data → k = 0 → held.length + 1 = full → Fires (.unpackb w) s n w (unpackGroup c [0] (held ++ [hd 0]) 0)) ∧
      (data → k = 0 → held.length + 1 < full → Fires (.unpackb w) s n w ((Fire.of c [0] none none).op (.unpack (held ++ [hd 0]) 0))) ∧
      (NodeAt s n w [] hd → held.length = full → Fires (.unpackb w) s n w (unpackGroup c [] held k))) ∧
    (let lw := 8 * 2 ^ bitsOf m 0 2
     let nl := 128 / lw
     let ns := c.needed [0, 1, 2]
     let pick := fun j : Nat =>
       if j < nl then (if 0 ∈ ns then (lane lw (hd 0).pay j, 0, laneOk lw (hd 0) j) else (0, 0, false))
       else if 1 ∈ ns then (lane lw (hd 1).pay (j - nl), 0, laneOk lw (hd 1) (j - nl)) else (0, 0, false)
     NodeReady s n w ns hd → (∀ i ∈ ns, (hd i).k = 0) → 0 ∈ ns →
      (2 ∉ ns →
        Fires (.perm w) s n w (dataFire c ns lw ((span 0 nl).map fun j => pick (permPlace (bitsOf imm 0 4) (bitsOf imm 4 5) nl j)))) ∧
      (2 ∈ ns → Fires (.perm w) s n w (dataFire c ns lw ((span 0 nl).map fun j =>
        let b := lane 8 (hd 2).pay j
        if bitOf b 7 then (0, 0, true) else pick (b % 32 % (2 * nl)))))) ∧
    (data →
      let l := ((lanesOf (hd 0)).filter (·.2)).map (·.1)
      let r := foldLanes m (bitsOf imm 32 3) l
      (l = [] → Fires (.reduce w) s n w (Fire.both c [0] (bare 0))) ∧
      (l ≠ [] → Fires (.reduce w) s n w ((Fire.both c [0] (dataTok (fmtWidth m) [(r.1, true)])).flag0 r.2))) ∧
    (data →
      let start := immLane m (bitsOf imm 0 32)
      let r := scanLanes m (bitsOf imm 32 3) (bitOf imm 35) (lanesOf (hd 0)) (match bitOf imm 36, d.op with | true, .scan v => v.toNat | _, _ => start)
      (bitOf imm 35 = false ∨ bitOf imm 36 = false →
        Fires (.scan w) s n w ((dataFire c [0] (fmtWidth m) r.1).op (if bitOf imm 36 then .scan (BitVec.ofNat 64 r.2) else .none))) ∧
      (bitOf imm 35 = true → bitOf imm 36 = true →
        (∀ l e l2, r.1 = l ++ e :: l2 → e.2.2 = true → (∀ x ∈ l2, x.2.2 = false) → Fires (.scan w) s n w
          (((dataFire c [0] (fmtWidth m) (l ++ (e.1, 0, true) :: l2)).flag0 e.2.1).op (.scan (BitVec.ofNat 64 r.2)))) ∧
        ((∀ x ∈ r.1, x.2.2 = false) → Fires (.scan w) s n w ((dataFire c [0] (fmtWidth m) r.1).op (.scan (BitVec.ofNat 64 r.2)))))) ∧
    (∀ (a : List Nat) (p any : Bool), accSt c = (a, p, any) →
      (d.op = .none → a = List.replicate (fmtLanes m) (immLane m (bitsOf imm 0 32)) ∧ p = false ∧ any = false) ∧
      (data → ∃ (a' : List Nat) (fl : List (Nat × Nat)), a'.length = a.length ∧
        (∀ j < a.length, nth 0 a' j = if laneOk (fmtWidth m) (hd 0) j then
          (redOp m (bitsOf imm 32 3) (nth 0 a j) (lane (fmtWidth m) (hd 0).pay j)).1 else nth 0 a j) ∧
        Fires (.acc w) s n w { (Fire.of c [0] none none).op (.accum (a'.map (BitVec.ofNat 64)) p true) with flags := fl }) ∧
      (NodeAt s n w [0] hd → (hd 0).k = (if bitOf imm 35 then 3 else 2) → ∀ takes, heads c true [0] = .delim (hd 0).k takes (hd 0) →
        let out := if p then poisonTok else dataTok (fmtWidth m) (a.map fun v => (v, true))
        Fires (.acc w) s n w ((({ Fire.both c [] out with takes := takes }).pending
          (if bitOf imm 36 then [(some (hd 0), some (hd 0))] else [])).op .none))) ∧
    (let head := fun scale : Nat => mkTok 1
       (BitVec.ofNat 128 (bitsOf imm 0 4 + bitsOf imm 4 16 * 2 ^ 16 + bitsOf imm 20 16 * 2 ^ 32 + scale * 2 ^ 64)) 0
     let plain := (hd 0).k = 0 ∨ (hd 0).k = 7 ∨ (hd 0).k = 8
     let alone := c.held 0 = false ∨ heads c false (c.needed [0, 1]) = .data
     (NodeAt s n w [0] hd → c.has 0 = true → c.has 1 = false → alone →
      ((hd 0).k = 1 → Fires (.hdr w) s n w (Fire.of c [0] none none)) ∧
      (plain → bitOf imm 36 = false → hdrStart d = true → Fires (.hdr w) s n w ((Fire.both c [] (head 0x3F800000)).op (.hdr false))) ∧
      (plain → bitOf imm 36 = false → hdrStart d = false → Fires (.hdr w) s n w (Fire.both c [0] (hd 0))) ∧
      (plain → bitOf imm 36 = true → Fires (.hdr w) s n w (Fire.both c [0] (hd 0)))) ∧
     (NodeAt s n w [0, 1] hd → c.has 0 = true → c.has 1 = true → alone → plain → (hd 1).k = 0 → bitOf imm 36 = false → hdrStart d = true →
      Fires (.hdr w) s n w ((Fire.both c [1] (head (lane 32 (hd 1).pay 0))).op (.hdr false))) ∧
     (let ns := c.needed [0, 1]
      NodeAt s n w ns hd → 0 ∈ ns → (2 ≤ (hd 0).k ∧ (hd 0).k ≤ 4 ∨ plain ∧ c.held 0 = true) →
      (c.has 1 = true → 6 ≠ (hd 1).k ∧ 7 ≠ (hd 1).k ∧ 8 ≠ (hd 1).k ∧ (hd 1).k < 10) →
      ∀ k takes t, heads c false ns = .delim k takes t → k ≠ 5 →
        Fires (.hdr w) s n w ((delimFire c takes t).op (if k = 2 ∨ k = 4 then .hdr true else d.op)))) ∧
    (NodeReady s n w [0] hd →
      let fill := fun (v fl : Nat) => dataFire c [0] (fmtWidth m) (List.replicate (fmtLanes m) (v, fl, true))
      let num := fun v : Int => if m < 8 then fill (wrapT m v) 0 else
        fill ((ffOf m).round 0 false (decide (v < 0)) v.natAbs false 0).1 ((ffOf m).round 0 false (decide (v < 0)) v.natAbs false 0).2
      ((hd 0).k = 6 → Fires (.splat w) s n w (num (hd 0).ctl)) ∧ ((hd 0).k = 7 → Fires (.splat w) s n w (num (hd 0).sb.toNat)) ∧
      ((hd 0).k = 8 → Fires (.splat w) s n w (num (sext 32 (bitsOf (hd 0).pay.toNat (32 * bitsOf imm 5 2) 32)))) ∧
      ((hd 0).k = 0 → laneOk (fmtWidth m) (hd 0) (bitsOf imm 0 5) = true →
        Fires (.splat w) s n w (fill (lane (fmtWidth m) (hd 0).pay (bitsOf imm 0 5)) 0)) ∧
      ((hd 0).k = 0 → laneOk (fmtWidth m) (hd 0) (bitsOf imm 0 5) = false → Fires (.splat w) s n w (Fire.both c [0] (bare 0))))

/-- R40, R42 to R44, R47, R71 to R74, R242 to R246, R248, R251: the flow nodes that move what they take. FORK copies; JOIN emits IN_A once all are
present; STEER and GATE route by their control token; DROP keeps the kinds of its mask; SINK discards; MERGE takes from the arm that its control
selects; MUX, ANDE and ORE join their inputs, and fire early under flag E, applying Anti to the inputs that are not there. That a POISON which a node
forms has the payload zero is the model's choice (log entry 32). -/
def Obligations.RoutingNodesFire : Prop :=
  ∀ (s : State) (n : Nat) (w : NodeW) (hd : Nat → Tok),
    let c := ncx s n w
    let ns := c.needed [0, 1, 2]
    let operands := fun l : List Nat => ∀ i ∈ l, (hd i).operand
    let psn := fun l : List Nat => ∃ i ∈ l, (hd i).k = 9
    (NodeReady s n w [0] hd → operands [0] →
      Fires (.fork w) s n w (Fire.both c [0] (hd 0)) ∧ Fires (.sink w) s n w (Fire.of c [0] none none)) ∧
    (NodeReady s n w ns hd → operands ns → 0 ∈ ns →
      (¬psn (ns.filter (· != 0)) → Fires (.join w) s n w (Fire.both c ns (hd 0))) ∧
      (psn (ns.filter (· != 0)) → Fires (.join w) s n w (Fire.both c ns poisonTok))) ∧
    (NodeReady s n w [0, 2] hd → operands [0] →
      ((hd 2).k = 6 → (hd 2).ctl = 0 → Fires (.steer w) s n w (Fire.of c [0, 2] (some (hd 0)) none) ∧
        (bitOf w.imm.toNat 0 = false → Fires (.gate w) s n w (Fire.of c [0, 2] none none)) ∧
        (bitOf w.imm.toNat 0 = true → Fires (.gate w) s n w (Fire.both c [0, 2] (hd 0)))) ∧
      ((hd 2).k = 6 → (hd 2).ctl ≠ 0 → Fires (.steer w) s n w (Fire.of c [0, 2] none (some (hd 0))) ∧
        (bitOf w.imm.toNat 0 = false → Fires (.gate w) s n w (Fire.both c [0, 2] (hd 0))) ∧
        (bitOf w.imm.toNat 0 = true → Fires (.gate w) s n w (Fire.of c [0, 2] none none))) ∧
      ((hd 2).k = 9 → Fires (.steer w) s n w (Fire.both c [0, 2] poisonTok) ∧ Fires (.gate w) s n w (Fire.both c [0, 2] poisonTok))) ∧
    (NodeAt s n w [0] hd → (hd 0).k < 10 → (hd 0).k ≠ 5 →
      (bitOf w.imm.toNat (hd 0).k = true → Fires (.drop w) s n w (Fire.both c [0] (hd 0))) ∧
      (bitOf w.imm.toNat (hd 0).k = false → Fires (.drop w) s n w (Fire.of c [0] none none))) ∧
    (NodeAt s n w [2] hd → ∀ x : Tok, x.operand →
      ((hd 2).k = 6 → armHead c (if (hd 2).ctl = 0 then 0 else 1) = some x →
        Fires (.merge w) s n w ((Fire.both c [2] x).arms c [if (hd 2).ctl = 0 then 0 else 1])) ∧
      ((hd 2).k = 9 → armHead c 0 = some x → Fires (.merge w) s n w ((Fire.both c [2] poisonTok).arms c [0]))) ∧
    (w.e = false → NodeReady s n w [0, 1, 2] hd → operands [0, 1] → (hd 2).k = 6 ∨ (hd 2).k = 9 →
      (psn [0, 1, 2] → Fires (.mux w) s n w (Fire.both c [0, 1, 2] poisonTok)) ∧
      (¬psn [0, 1, 2] → (hd 2).ctl = 0 → Fires (.mux w) s n w (Fire.both c [0, 1, 2] (hd 0))) ∧
      (¬psn [0, 1, 2] → (hd 2).ctl ≠ 0 → Fires (.mux w) s n w (Fire.both c [0, 1, 2] (hd 1)))) ∧
    (w.e = true → NodeAt s n w [2] hd → (hd 2).k = 6 → ∀ a, a = (if (hd 2).ctl = 0 then 0 else 1) → c.hd a = some (hd a) → (hd a).operand →
      (hd a).k ≠ 9 → c.hd (1 - a) = none → c.antiOk (1 - a) = true →
        Fires (.mux w) s n w { Fire.both c [2, a] (hd a) with antis := [1 - a] }) ∧
    (w.e = false → NodeReady s n w ns hd → (∀ i ∈ ns, (hd i).k = 6) →
      Fires (.ande w) s n w (Fire.both c ns (ctrlTok (if ns.all fun i => (hd i).ctl != 0 then 1 else 0))) ∧
      Fires (.ore w) s n w (Fire.both c ns (ctrlTok (if ns.any fun i => (hd i).ctl != 0 then 1 else 0)))) ∧
    (w.e = true → ∀ pres, pres = ns.filter (fun i => (c.hd i).isSome) → NodeAt s n w pres hd → (∀ i ∈ pres, (hd i).k = 6) →
      (ns.filter fun i => (c.hd i).isNone).all c.antiOk = true →
      ((∃ i ∈ pres, (hd i).ctl = 0) →
        Fires (.ande w) s n w { Fire.both c pres (ctrlTok 0) with antis := ns.filter fun i => (c.hd i).isNone }) ∧
      ((∃ i ∈ pres, (hd i).ctl ≠ 0) →
        Fires (.ore w) s n w { Fire.both c pres (ctrlTok 1) with antis := ns.filter fun i => (c.hd i).isNone })) ∧
    (w.e = true → NodeAt s n w ns hd → (∀ i ∈ ns, (hd i).k = 6) →
      ((∀ i ∈ ns, (hd i).ctl ≠ 0) → Fires (.ande w) s n w (Fire.both c ns (ctrlTok 1))) ∧
      ((∀ i ∈ ns, (hd i).ctl = 0) → Fires (.ore w) s n w (Fire.both c ns (ctrlTok 0))))

/-- R63 to R70, R77, R247, R249, R250, R252, R253: the flow nodes that keep a state. SOURCE emits the records of its pass and then EOS; CCHAIN steps
its counters; CARRY takes its initial or its carried value; EXIT ends its loop, and applies Anti in FLUSH; TILE counts; ISECT and UNION match
coordinates; CTXSEL latches; SQUASH forwards the first n of d; SYNC awaits its barrier, or takes its token, and credits and emits once the accesses
that its cell had issued by then are performed. What a constant of CARRY has beyond its format's width is the model's choice (log entry 100). -/
def Obligations.LoopAndStateNodesFire : Prop :=
  ∀ (s : State) (n : Nat) (w : NodeW) (hd : Nat → Tok),
    let c := ncx s n w
    let d := s.node n
    let imm := w.imm.toNat
    let idxLast := fun (t : Tok) (lv : Nat) => t.k = 8 ∧ bitOf t.sb.toNat (4 + lv) = true
    (injected c = none → d.drained = false →
      (NodeAt s n w [] hd → c.has 0 = false →
        (∀ k, d.op = .source true k → Fires (.source w) s n w (sourceEmit c [] k)) ∧
        (∀ k, d.op = .source false k → d.eos = false → Fires (.source w) s n w { Fire.both c [] eosTok with d := { d with eos := true } }) ∧
        (d.op = .none → Fires (.source w) s n w (sourceEmit c [] 0))) ∧
      (NodeAt s n w [0] hd → c.has 0 = true → (sourceSt c).1 = false → (hd 0).k = 0 ∨ (hd 0).k = 6 ∨ (hd 0).k = 8 →
        Fires (.source w) s n w (sourceEmit c [0] 0)) ∧
      (∀ k v, bankNat c (bitsOf imm 0 16 + 16 * k) 16 = (v, false) →
        let more := decide (k < bitsOf imm 16 16)
        sourceEmit c [] k = (Fire.both c [] (if bitsOf imm 32 2 = 1 then ctrlTok v
          else if bitsOf imm 32 2 = 2 then mkTok 7 (BitVec.ofNat 128 v) (BitVec.ofNat 16 k)
          else mkTok 0 (BitVec.ofNat 128 v) (fullMask (fmtWidth w.mode.toNat) (fmtLanes w.mode.toNat)))).op
            (.source more (if more then k + 1 else 0)))) ∧
    (injected c = none → d.drained = false → c.has 1 = false →
      let st := chainSt d
      let len := bitsOf imm 20 2 + 1
      (NodeAt s n w [] hd → c.has 0 = false ∨ (c.hd 0).isNone = true ∨ (∃ x, c.hd 0 = some x ∧ x.operand ∧ x.k ≠ 7) →
        (st.eot = true → Fires (.cchain w) s n w ((Fire.of c [] (some eotTok) none).op { st with eot := false }.op)) ∧
        (st.eot = false → st.run = true → chainGate c st = true → Fires (.cchain w) s n w
          ((Fire.of c [] (some (chainTok st)) none).op (chainNext st (bitsOf imm 22 3) c.now).op))) ∧
      (NodeAt s n w [0] hd → c.has 0 = true → st.eot = false → st.run = false → (hd 0).k = 0 ∨ (hd 0).k = 6 ∨ (hd 0).k = 8 →
        (bankNat c (bitsOf imm 0 16) (16 * len)).2 = false →
        (chainRead c (bitsOf imm 0 16) len 0 = .ok none →
          Fires (.cchain w) s n w ((Fire.of c [0] none none).op { st with fresh := false }.op)) ∧
        (∀ l, chainRead c (bitsOf imm 0 16) len 0 = .ok (some l) → chainGate c st = true →
          let s1 : ChainSt := { st with fresh := false, run := true, v := l.map (·.1), recd := l }
          Fires (.cchain w) s n w ((Fire.of c [0] (some (chainTok s1)) none).op (chainNext s1 (bitsOf imm 22 3) c.now).op)))) ∧
    (d.drained = false → c.shows 1 [1, 2, 3, 4] = false →
      (NodeAt s n w [2] hd → badKind c [0, 1] = false → (hd 2).k = 6 ∧ (hd 2).ctl = 0 ∨ (hd 2).k = 8 ∧ bitOf (hd 2).sb.toNat (bitsOf imm 38 2) = true →
        (∀ x : Tok, c.has 0 = true → c.has 2 = true → c.hd 0 = some x → x.operand → Fires (.carry w) s n w (Fire.of c [2, 0] (some x) none)) ∧
        (c.has 0 = false → Fires (.carry w) s n w (Fire.of c [2] (some (carryConst w)) none))) ∧
      (NodeAt s n w [1, 2] hd → badKind c [0] = false → (hd 2).k = 6 ∧ (hd 2).ctl ≠ 0 ∨ (hd 2).k = 8 ∧ bitOf (hd 2).sb.toNat (bitsOf imm 38 2) = false →
        (hd 1).operand → Fires (.carry w) s n w (Fire.of c [2, 1] (some (hd 1)) none))) ∧
    (NodeAt s n w [0, 1, 2] hd → exitFlush d = false → (hd 0).k = 6 → (hd 1).operand → (hd 1).k ≠ 9 → (hd 2).k = 8 →
      ((hd 0).ctl ≠ 0 → ¬idxLast (hd 2) (bitsOf imm 0 2) →
        Fires (.exit w) s n w ((Fire.of c [0, 1, 2] (some (hd 1)) (some (ctrlTok 0))).op (.exit true))) ∧
      (idxLast (hd 2) (bitsOf imm 0 2) →
        Fires (.exit w) s n w ((Fire.of c [0, 1, 2] (some (hd 1)) (some (ctrlTok 0))).op (.exit false))) ∧
      ((hd 0).ctl = 0 → ¬idxLast (hd 2) (bitsOf imm 0 2) → Fires (.exit w) s n w (Fire.of c [0, 1, 2] none (some (ctrlTok 1))))) ∧
    (NodeAt s n w [2] hd → exitFlush d = true → (hd 2).k = 8 → c.hd 0 = none → c.hd 1 = none → c.antiOk 0 = true → c.antiOk 1 = true →
      Fires (.exit w) s n w ({ Fire.of c [2] none none with antis := [0, 1] }.op (.exit (!bitOf (hd 2).sb.toNat (4 + bitsOf imm 0 2))))) ∧
    (d.pend = [] → NodeAt s n w [0] hd → (hd 0).k = 0 → ∀ g f, tileSt d = (g, f) →
      (g ≠ bitsOf imm 0 16 → Fires (.tile w) s n w ((Fire.both c [0] (hd 0)).op (.tile (g + 1) f))) ∧
      (g = bitsOf imm 0 16 → f ≠ bitsOf imm 16 16 → Fires (.tile w) s n w
        (((Fire.both c [0] (hd 0)).pending (if bitOf imm 32 then [pair2 (eofTok f)] else [])).op (.tile 0 (f + 1)))) ∧
      (g = bitsOf imm 0 16 → f = bitsOf imm 16 16 → Fires (.tile w) s n w
        (((Fire.both c [0] (hd 0)).pending ((if bitOf imm 32 then [pair2 (eofTok f)] else []) ++ [pair2 eotTok])).op (.tile 0 0)))) ∧
    (NodeAt s n w [0, 1] hd → (hd 0).k = 7 → (hd 1).k = 7 → ∀ p q, fibreSt d = (p, q) →
      (∀ x, p = some x → x < (hd 0).sb.toNat) → (∀ x, q = some x → x < (hd 1).sb.toNat) →
      let a := (hd 0).sb.toNat
      let b := (hd 1).sb.toNat
      (a < b → Fires (.isect w) s n w ((Fire.of c [0] none none).op (.fibre (some a) q)) ∧
        Fires (.union w) s n w ((Fire.of c [0] (some (hd 0)) (some (mkTok 7 0 (hd 0).sb))).op (.fibre (some a) q))) ∧
      (b < a → Fires (.isect w) s n w ((Fire.of c [1] none none).op (.fibre p (some b))) ∧
        Fires (.union w) s n w ((Fire.of c [1] (some (mkTok 7 0 (hd 1).sb)) (some (hd 1))).op (.fibre p (some b)))) ∧
      (a = b → Fires (.isect w) s n w ((Fire.of c [0, 1] (some (hd 0)) (some (hd 1))).op (.fibre (some a) (some b))) ∧
        Fires (.union w) s n w ((Fire.of c [0, 1] (some (hd 0)) (some (hd 1))).op (.fibre (some a) (some b))))) ∧
    (NodeReady s n w [0] hd → (hd 0).k = 6 → bitOf imm 3 = false → ∀ l k, ctxselSt c = (l, k) →
      Fires (.ctxsel w) s n w ((Fire.of c [0] none none).op (.ctxsel (decide ((hd 0).ctl ≠ 0)) (k + 1)))) ∧
    (NodeAt s n w [0] hd → squashSt d = (0, 0) → (hd 0).k = 6 → c.has 0 = true → badKind c [1] = false → c.shows 1 [1, 2, 3, 4] = false →
      let len := bitsOf imm 0 6 + 1
      let m := min (hd 0).ctl len
      let st : OpSt := if len = 1 then .none else .squash 1 m
      let told := if isNone w.out1 then none else some (ctrlTok m)
      (∀ x : Tok, 0 < m → c.hd 1 = some x → x.operand → Fires (.squash w) s n w ((Fire.of c [0, 1] (some x) told).op st)) ∧
      (m = 0 → c.hd 1 = none → c.antiOk 1 = true → Fires (.squash w) s n w ({ Fire.of c [0] none told with antis := [1] }.op st))) ∧
    (let credits := fun t : State => creditBar t (n / 256) (bitsOf imm 32 6) (bitsOf imm 0 32)
     (d.pend = [] → NodeReady s n w [0] hd → (hd 0).operand →
      (w.mode = 1 → s.bar (n / 256) (bitsOf imm 32 6) = 0 → Fires (.sync w) s n w (Fire.both c [0] (hd 0))) ∧
      (w.mode = 1 → s.bar (n / 256) (bitsOf imm 32 6) ≠ 0 → Stalls (.sync w) s) ∧
      (w.mode ≠ 1 →
        let ids := (s.accs.filter (issuedByCell s (n / 16) (activeOf s c.rid))).map (·.id)
        (ids = [] → Fires (.sync w) s n w { Fire.both c [0] (hd 0) with post := credits }) ∧
        (ids ≠ [] → Fires (.sync w) s n w
          { Fire.of c [0] none none with d := { d with pend := [(some (hd 0), some (hd 0))], marks := [ids] } }))) ∧
     (∀ (t : Tok) (ids : List Nat), NodeAt s n w [] hd → d.pend = [(some t, some t)] → d.marks = [ids] →
      ((∃ a ∈ s.accs, a.id ∈ ids) → Stalls (.sync w) s) ∧
      ((∀ a ∈ s.accs, a.id ∉ ids) → Fires (.sync w) s n w
        { Fire.of c [] (some t) (some t) with d := { d with pend := [], marks := [] }, post := credits })))

/-! ### Memory, ports and their units (R185 to R191, R254 to R266, R291 to R295, R302, R337, R338) -/

/-- R185, R187, R254 to R263: the memory and port nodes. LD, ST, ATOM and DIRTY take their operands and issue one access at the address they form; a
store with no valid lane, an atomic on an invalid lane, a delimiter and an HDR issue none, and with flag V send a null record; COPYFIRE and ORD
forward their token; PIN and GATHER emit what their port delivers, which counts for the port's binding but for an EOS left of an earlier one; POUT and
SCATTER hand their token to a bound port, at the element that it holds, and emit it. A COPYFIRE with flag V sends a wave record for each token. That
the firings of a memory node with V on a delimiter, HDR or DRAIN send one too, and those of a port node none but for its elements, is the model's
reading (log entry 36); that a write port counts its elements and not the delimiters that it takes is its choice (log entry 126). -/
def Obligations.MemoryAndPortNodesFire : Prop :=
  ∀ (s : State) (n : Nat) (w : NodeW) (hd : Nat → Tok),
    let c := ncx s n w
    let d := s.node n
    let m := w.mode.toNat
    let imm := w.imm.toNat
    let unit := fmtWidth m / 8
    let bytes := (bitsOf imm 8 5 + 1) * unit
    let low := fun i : Nat => if c.has i then (hd i).pay.extractLsb' 0 64 else 0
    let goes := fun (va : Word) (len al : Nat) (wr : Bool) =>
      (∃ k, classify s (rtOf s c.rid false) va len wr = .ok k) ∧ va.toNat % al = 0
    let issues := fun (i : Instr) (l : List Nat) (ld : Bool) (act : MemDo) (tok : Option Tok) =>
      ∃ f, memFire c ld (some ⟨(c.needed l).map fun j => (j, false), act, tok, hasOut c⟩) = some f ∧ Fires i s n w f
    let ready := fun l : List Nat => NodeReady s n w (c.needed l) hd ∧ (∀ i ∈ c.needed l, (hd i).k = 0) ∧ mayIssue c = true
    (ready [0, 1] → goes (low 0 + low 1) bytes unit false →
      issues (.ld w) [0, 1] true (.acc (low 0 + low 1) bytes (.rd bytes)) none) ∧
    (ready [0, 1, 2] → 1 ∈ c.needed [0, 1, 2] →
      let bs := laneBytes (fmtWidth m) (bitsOf imm 8 5 + 1) (hd 1)
      (bs = [] → issues (.st w) [0, 1, 2] false .null (some (ctrlTok 1))) ∧
      (bs ≠ [] → goes (low 0 + low 2) bytes unit true →
        issues (.st w) [0, 1, 2] false (.acc (low 0 + low 2) bytes (.wr bs)) (some (ctrlTok 1)))) ∧
    (ready [0, 1, 2] → 1 ∈ c.needed [0, 1, 2] →
      (laneOk (fmtWidth m) (hd 1) 0 = true → (c.has 2 = true → laneOk (fmtWidth m) (hd 2) 0 = true) → goes (low 0) unit unit true →
        issues (.atom w) [0, 1, 2] false (.acc (low 0) unit (.rmw (bitsOf imm 8 4) m (BitVec.ofNat 64 (lane (fmtWidth m) (hd 1).pay 0))
          (if c.has 2 then BitVec.ofNat 64 (lane (fmtWidth m) (hd 2).pay 0) else 0))) none) ∧
      (laneOk (fmtWidth m) (hd 1) 0 = false → issues (.atom w) [0, 1, 2] false .null (some (bare 0)))) ∧
    (ready [0, 1] → 1 ∈ c.needed [0, 1] →
      let va := low 0 + BitVec.ofNat 64 (2 * lane 32 (hd 1).pay 0)
      (laneOk 32 (hd 1) 0 = true → goes va 2 2 true →
        issues (.dirty w) [0, 1] false (.acc va 2 (.dirty (bitsOf imm 8 4) (bitOf imm 12))) none) ∧
      (laneOk 32 (hd 1) 0 = false → issues (.dirty w) [0, 1] false .null (some (ctrlTok 0)))) ∧
    (∀ e ∈ [(Instr.ld w, [0, 1], true), (.st w, [0, 1, 2], false), (.atom w, [0, 1, 2], false), (.dirty w, [0, 1], false)], ∀ k takes t,
      NodeAt s n w (c.needed e.2.1) hd → (∀ i ∈ c.needed e.2.1, (hd i).k ≤ 5 ∨ (hd i).k = 9) → heads c true (c.needed e.2.1) = .delim k takes t → k ≠ 5 →
      mayIssue c = true → ∃ f, memFire c e.2.2 (some ⟨takes, .null, some t, hasOut c⟩) = some f ∧ Fires e.1 s n w f) ∧
    (NodeAt s n w [0] hd → (hd 0).k < 10 → (hd 0).k ≠ 5 →
      (w.v = false → Fires (.copyfire w) s n w (Fire.of c [0] (some (hd 0)) none)) ∧
      (w.v = true → mayIssue c = true → ∃ f,
        memFire c false (some ⟨[(0, false)], .pseudo, some (hd 0), true⟩) = some f ∧
        Fires (.copyfire w) s n w f) ∧
      ((∀ a ∈ s.accs, ∀ ids, d.marks.head? = some ids → a.id ∉ ids) →
        Fires (.ord w) s n w { Fire.both c [0] (hd 0) with d := { d with marks := d.marks.drop 1 } })) ∧
    (∀ (p : Nat) (t : Tok) (ids : List Nat) (r : List (Tok × List Nat)), p = bitsOf imm 0 8 - 0x40 → NodeAt s n w [] hd → injected c = none → d.drained = false →
      (s.port (n / 256) p).buf = (t, ids) :: r →
        let f := { Fire.both c [] t with
          d := { d with eos := d.eos || t.k == 4 }
          post := fun u =>
            let q := u.port (n / 256) p
            let u1 := u.setPort (n / 256) p
              (if q.old = true then { q with buf := r, old := false } else { q with buf := r, dlv := q.dlv + 1, eos := q.eos || t.k == 4 })
            ordMark (detPass u1 c.rid (detUnit (n / 256) p) (n / 16)) c.rid (n / 16) w ids }
        Fires (.pin w) s n w f ∧ Fires (.gather w) s n w f) ∧
    (∀ (p : Nat) (b : Bind), p = bitsOf imm 0 8 - 0x40 → NodeAt s n w [0] hd → (s.port (n / 256) p).bind = some b →
      (s.port (n / 256) p).frozen = none →
      let hands := fun g : State → State =>
        let f := { Fire.both c [0] (hd 0) with
          post := fun u =>
            let u1 := g (detPass u c.rid (n / 16) (detUnit (n / 256) p))
            ordMark u1 c.rid (n / 16) w ((portAccs u1 (n / 256) p).map (·.id)) }
        Fires (.pout w) s n w f ∧ Fires (.scatter w) s n w f
      ((hd 0).k = 0 → b.fin = false → laneBytes (fmtWidth b.fmt) b.lanes (hd 0) ≠ [] → ∀ va segs, (s.port (n / 256) p).rdy = some (va, segs) →
        hands fun u => takeElem u n c.rid w (n / 256) p b va segs (hd 0)) ∧
      ((hd 0).k = 0 ∨ (hd 0).k = 9 → b.fin = false → (hd 0).k = 9 ∨ laneBytes (fmtWidth b.fmt) b.lanes (hd 0) = [] →
        hands fun u => takeElem u n c.rid w (n / 256) p b 0 [] (hd 0)) ∧
      (1 ≤ (hd 0).k → (hd 0).k ≤ 4 →
        hands fun u => u.setPort (n / 256) p { u.port (n / 256) p with took := (u.port (n / 256) p).took || (hd 0).k == 4 })) ∧
    (∀ (u : State) (ld rep : Bool) (takes : List (Nat × Bool)) (va : Word) (len : Nat) (k : AccKind) (tok : Option Tok),
      (∀ a ∈ u.accs, a.id ≠ u.nextId) → (∀ r ∈ (u.node n).reps, r.acc ≠ some u.nextId) →
        ∃ a ∈ (doIssue u n c.rid w ld ⟨takes, .acc va len k, tok, rep⟩).accs,
          a.id = u.nextId ∧ a.ag = .node n ∧ a.rid = c.rid ∧ a.va = va ∧ a.len = len ∧ a.kind = k) ∧
    (∀ (u : State) (ld rep : Bool) (takes : List (Nat × Bool)) (tok : Option Tok),
      let x := doIssue u n c.rid w ld ⟨takes, .null, tok, rep⟩
      x.accs = u.accs ∧ (x.cell (n / 16)).wRecs = (u.cell (n / 16)).wRecs ++
        if w.v then [⟨n, bitsOf imm 34 6, bitsOf imm 28 6, bitsOf imm 22 6, none, (u.cell (n / 16)).wSeq⟩] else [])

/-! ### Matrix, sorting, sampling and unmasking nodes (R272 to R288, R375) -/

/-- R272 to R275, R280 to R288: MMA queues valid commands and raises 0x3B on the others; MXSEQ makes commands of loop indices; SORTCE and TOPK gather
pairs and emit them in rank order; CUMTHR, ACCEPT and RESID begin a row or round on its counter under the cove's parameters, gather it and emit its
result; HEADMASK masks by head; UMRANK hands candidates to its engine. That TOPK's EOT follows its list on OUT_0 alone (log entry 37), that CUMTHR and
RESID take their counter in a firing of its own (log entry 38), and that HEADMASK keeps HEADS over its firings on one token (log entry 40), are the
model's readings. -/
def Obligations.MatrixAndSamplingNodesFire : Prop :=
  ∀ (s : State) (n : Nat) (w : NodeW) (hd : Nat → Tok),
    let c := ncx s n w
    let d := s.node n
    let imm := w.imm.toNat
    let sp := (s.cove (n / 256)).samp
    let took := fun (l : List Nat) (o : OpSt) => (Fire.of c l none none).op o
    let data := NodeReady s n w [0] hd ∧ (hd 0).k = 0
    let ends := fun (takes : List (Nat × Bool)) => NodeAt s n w [0] hd ∧ (hd 0).k = 2 ∧ heads c true [0] = .delim 2 takes (hd 0)
    let turn := mxTurn s (n / 256) (planeOf s (n / 16)) = true
    let done := fun f : Fire => { f with post := fun u => mxDone u (n / 256) (planeOf s (n / 16)) }
    let pairs := ((span 0 2).filter (laneOk 64 (hd 0))).map fun j => BitVec.ofNat 64 (lane 64 (hd 0).pay j)
    let counter := fun t : Tok => if laneOk 64 t 0 then t.pay.extractLsb' 0 64 else 0
    (NodeAt s n w [0] hd → (hd 0).k = 6 ∨ ((hd 0).k = 0 ∧ laneOk 64 (hd 0) 0 = true) →
      let v := (hd 0).pay.extractLsb' 0 64
      (mxValid v = true → Fires (.mma w) s n w { Fire.of c [0] none none with post := pushCtl c (.cmd v w.q false) }) ∧
      (mxValid v = false → Fires (.mma w) s n w (Fire.fault c 0x3B))) ∧
    (∀ v : BitVec 64, mxValid v = true ↔ (v.toNat < 128 ∧ v.toNat % 16 ≠ 0 ∧ ¬(v.getLsbD 0 = true ∧ v.getLsbD 1 = true) ∧
      (v.getLsbD 3 = false → v.toNat < 16))) ∧
    (NodeReady s n w [0] hd → (hd 0).k = 8 →
      let lv := bitsOf imm 6 2
      Fires (.mxseq w) s n w (Fire.both c [0] (mkTok 0 (BitVec.ofNat 128 (4 + (if bitOf (hd 0).sb.toNat lv then bitsOf imm 0 2 else 0)
        + (if bitOf (hd 0).sb.toNat (4 + lv) ∧ bitOf imm 2 then 8 + 16 * bitsOf imm 3 3 else 0))) 1))) ∧
    (d.pend = [] → ∀ got p, (sortSt d).getD ([], false) = (got, p) →
      (data → (sortSt d).isSome = true ∨ turn → got.length + pairs.length ≤ 256 → Fires (.sortce w) s n w (took [0] (.sort (got ++ pairs) p))) ∧
      (∀ takes, ends takes → got ≠ [] → p = false → Fires (.sortce w) s n w
        (done (burst c takes ((pairToks (sortBy (sortLt w) got) ++ [hd 0]).map fun x => (some x, some x)) .none)))) ∧
    (d.pend = [] → (∃ l a b q y, d.op = .topk l a b (some q) y) ∨ turn → ∀ t, topkSt c = t →
      (data → Fires (.topk w) s n w (took [0] ((span 0 (fmtLanes w.mode.toNat)).foldl (topkLane w.mode.toNat (hd 0)) t).op)) ∧
      (∀ takes, ends takes → t.psn = false → ∀ x r, pairToks (t.l.take (min t.par.k t.n)) ++ [hd 0] = x :: r → Fires (.topk w) s n w
        (done (burst c takes ((some x, if isNone w.out1 then none else some (ctrlTok (topkStatus t))) :: r.map fun y => (some y, none)) .none)))) ∧
    (d.pend = [] →
      (NodeAt s n w [1] hd → badKind c [0] = false → c.shows 0 [6, 7, 8] = false → cumSt d = none → (hd 1).k = 0 →
        Fires (.cumthr w) s n w (took [1] (.cum (counter (hd 1)) [] (some sp) false))) ∧
      (∀ ctr l q, d.op = .cum ctr l (some q) false → badKind c [1] = false → c.shows 1 [6, 7, 8] = false →
        (data → l.length + pairs.length ≤ 256 → Fires (.cumthr w) s n w (took [0] (.cum ctr (l ++ pairs) (some q) false))) ∧
        (∀ takes, ends takes → Fires (.cumthr w) s n w (burst c takes [pair2 (cumTok ctr l q), pair2 eotTok] .none)))) ∧
    (let len := bitsOf imm 0 3 + 1
     (NodeAt s n w [1] hd → d.op = .none → c.has 1 = true → c.has 2 = false → badKind c [0] = false → c.shows 0 [6, 7, 8] = false → (hd 1).k = 0 →
        Fires (.accept w) s n w (took [1] (.accept (counter (hd 1)) len [] (some sp) false))) ∧
     (NodeAt s n w [1, 2] hd → d.op = .none → c.has 1 = true → c.has 2 = true → badKind c [0] = false → c.shows 0 [6, 7, 8] = false →
      (hd 1).k = 0 → (hd 2).k = 6 → (hd 2).ctl ≠ 0 →
        Fires (.accept w) s n w (took [1, 2] (.accept (counter (hd 1)) (min (hd 2).ctl len) [] (some sp) false))) ∧
     (∀ ctr k ds q, NodeAt s n w [0] hd → (hd 0).k = 0 → d.op = .accept ctr k ds (some q) false → badKind c [1, 2] = false →
      c.shows 1 [6, 7, 8] = false → c.shows 2 [0, 7, 8] = false →
      (ds.length + 1 ≠ k → Fires (.accept w) s n w (took [0] (.accept ctr k (ds ++ [hd 0]) (some q) false))) ∧
      (ds.length + 1 = k → Fires (.accept w) s n w (acceptEnd c [0] ctr k (ds ++ [hd 0]) q false)))) ∧
    (d.pend = [] →
      (NodeAt s n w [2] hd → d.op = .none → badKind c [0, 1] = false → c.shows 0 [6, 7, 8] = false → c.shows 1 [6, 7, 8] = false → (hd 2).k = 0 →
        Fires (.resid w) s n w (took [2] (.resid (counter (hd 2)) [] [] (some sp) false))) ∧
      (∀ ctr p q par, d.op = .resid ctr p q (some par) false → badKind c [2] = false → c.shows 2 [6, 7, 8] = false →
        (NodeReady s n w [0, 1] hd → (hd 0).k = 0 → (hd 1).k = 0 → p.length ≤ 252 → Fires (.resid w) s n w (took [0, 1]
          (.resid ctr (p ++ residLanes (hd 0) (hd 1) true) (q ++ residLanes (hd 0) (hd 1) false) (some par) false))) ∧
        (∀ takes, NodeAt s n w [0, 1] hd → (hd 0).k = 2 → (hd 1).k = 2 → heads c true [0, 1] = .delim 2 takes (hd 0) →
          Fires (.resid w) s n w (burst c takes [pair2 (residTok ctr p q par), pair2 eotTok] .none)))) ∧
    (d.pend = [] → ∀ h m, (match d.op with | .headmask h m => (h, m) | _ => (0, sp.heads)) = (h, m) →
      let e := (hd 0).pay.toNat % 256 &&& m.toNat
      let many := some (ctrlTok ((span 0 8).filter (bitOf e)).length)
      let takes := if bitOf imm 0 ∨ h = 7 then [0] else []
      let o : OpSt := if bitOf imm 0 ∨ h = 7 then .none else .headmask (h + 1) m
      NodeReady s n w [0] hd → (hd 0).k = 6 →
      (bitOf imm 0 = true → Fires (.headmask w) s n w ((Fire.of c takes (some (ctrlTok e)) (if isNone w.out1 then none else many)).op o)) ∧
      (bitOf imm 0 = false → Fires (.headmask w) s n w
        ((Fire.of c takes (some (ctrlTok (bitOf e h).toNat)) (if isNone w.out1 ∨ h ≠ 0 then none else many)).op o))) ∧
    (d.pend = [] → NodeAt s n w [0] hd →
      (∀ a, d.op = .umrank a false ∨ (d.op = .none ∧ a = false) → (s.round (umEng (n / 256) w) (umRound w)).isOpen = true →
        ((hd 0).k = 0 → Fires (.umrank w) s n w { took [0] (.umrank true false) with
          post := toStep c fun u => { u with cands := u.cands ++ [hd 0] } }) ∧
        ((hd 0).k = 2 → Fires (.umrank w) s n w { took [0] (.umrank true true) with post := toStep c fun u => { u with full := true } })) ∧
      (∀ a, d.op = .umrank a true → Stalls (.umrank w) s))

/-! ### What every node does with tokens (R34, R36, R42, R46, R53, R60) -/

/-- R34, R40, R42, R53, R60: the conduct that the lane nodes share. Without a token in some needed input, or space on an output, nothing happens;
POISON among the operands gives POISON; a reserved kind, a kind of no use and a mismatch fault; equal delimiters or HDRs are taken together and
emitted, and DRAIN is once nothing is owed. That the POISON has the payload zero is the model's choice (log entry 32). -/
def Obligations.LaneNodeConduct : Prop :=
  ∀ (s : State) (n : Nat) (w : NodeW) (hd : Nat → Tok), s.focus = .node n →
    let c := ncx s n w
    let one := laneNeeds c [0] none
    let two := laneNeeds c [0, 1] (some 1)
    let three := laneNeeds c [0, 1, 2] (some 2)
    ∀ e ∈ [(Instr.nodeAdd w, two), (.nodeSub w, two), (.nodeMul w, two), (.nodeMulh w, two), (.nodeMad w, three), (.nodeAbs w, one),
      (.nodeNeg w, one), (.nodeMin w, two), (.nodeMax w, two), (.nodeAnd w, two), (.nodeOr w, two), (.nodeXor w, two), (.nodeNot w, one),
      (.nodeShl w, two), (.nodeShr w, two), (.nodeSar w, two), (.nodeClamp w, three), (.nodeCmp w, two), (.nodeAdds w, two), (.nodeSubs w, two),
      (.nodeFadd w, two), (.nodeFsub w, two), (.nodeFmul w, two), (.nodeFma w, three), (.nodeFmin w, two), (.nodeFmax w, two), (.frcp w, one),
      (.frsq w, one), (.fexp2 w, one), (.flog2 w, one), (.nodeFcmp w, two), (.nodeFdiv w, two)],
      let ns := e.2
      let fits := fun (i : Nat) (t : Tok) => t.k ≤ 5 ∨ t.k = 9 ∨ (w.t = true ∧ i = 2 ∧ t.k = 6)
      (badKind c ns = true → Fires e.1 s n w (Fire.fault c 0x30)) ∧
      (badKind c ns = false → (∃ i ∈ ns, ∃ t, c.hd i = some t ∧ ((w.t = true ∧ i = 2 ∧ (t.k = 0 ∨ t.k = 7 ∨ t.k = 8)) ∨
        (¬(w.t = true ∧ i = 2) ∧ 6 ≤ t.k ∧ t.k ≤ 8))) → Fires e.1 s n w (Fire.fault c 0x32)) ∧
      ((∀ i ∈ ns, ∀ t, c.hd i = some t → fits i t ∧ ¬(w.t = true ∧ i = 2 ∧ t.k = 0)) →
        ((∃ i ∈ ns, c.hd i = none) → Stalls e.1 s) ∧
        (heads c true ns = .data → c.rooms = false → Stalls e.1 s) ∧
        (NodeReady s n w ns hd → (∃ i ∈ ns, (hd i).k = 9) → Fires e.1 s n w (Fire.both c ns poisonTok)) ∧
        (w.t = false → (∀ i ∈ ns, c.hd i = some (hd i) ∧ c.held i = false) → ns ≠ [] →
          (∀ k, 1 ≤ k → k ≤ 4 → (∀ i ∈ ns, (hd i).k = k) → c.rooms = true →
            Fires e.1 s n w { Fire.both c [] (hd (nth 0 ns 0)) with
              takes := ns.map fun i => (i, true), d := { s.node n with eos := (s.node n).eos || k == 4 } }) ∧
          ((∃ i ∈ ns, 1 ≤ (hd i).k ∧ (hd i).k ≤ 4) → (∃ i ∈ ns, (hd i).k ≠ (hd (nth 0 ns 0)).k) → Fires e.1 s n w (Fire.fault c 0x31)) ∧
          ((∀ i ∈ ns, (hd i).k = 5 ∧ (c.q i).debt = 0) → doutZero c w.out0 = true → doutZero c w.out1 = true → c.rooms = true →
            (s.node n).reps = [] → (s.node n).pend = [] → (∀ a ∈ s.accs, a.ag ≠ .node n) →
              Fires e.1 s n w { Fire.both c [] (bare 5) with takes := ns.map fun i => (i, true), d := { s.node n with drained := true } })))

/-- R36, R40, R296: the frame of the lane, format and flow nodes: a firing, or the fault in its place, changes nothing outside the node's cell but
tokens, credits and anti-tokens on their way, the units of its cove that its outputs name, and the marks of its residency. No memory, no context, no
access, no command and no barrier changes. -/
def Obligations.NodeFiringFrame : Prop :=
  ∀ (s t : State) (n : Nat) (w : NodeW) (i : Instr),
    i ∈ [.nodeAdd w, .nodeSub w, .nodeMul w, .nodeMulh w, .nodeMad w, .nodeAbs w, .nodeNeg w, .nodeMin w, .nodeMax w, .nodeAnd w, .nodeOr w,
      .nodeXor w, .nodeNot w, .nodeShl w, .nodeShr w, .nodeSar w, .nodeClamp w, .nodeCmp w, .nodeSel w, .nodeAdds w, .nodeSubs w, .nodeFadd w,
      .nodeFsub w, .nodeFmul w, .nodeFma w, .nodeFmin w, .nodeFmax w, .frcp w, .frsq w, .fexp2 w, .flog2 w, .nodeFcmp w, .nodeFdiv w, .cvt w,
      .packb w, .unpackb w, .perm w, .reduce w, .acc w, .scan w, .hdr w, .splat w, .fork w, .steer w, .merge w, .mux w, .join w, .gate w, .drop w,
      .source w, .sink w, .cchain w, .carry w, .exit w, .tile w, .isect w, .union w, .ctxsel w, .ande w, .ore w, .squash w] →
    s.focus = .node n → exec i s = .next t →
      SameMemory s t ∧ (∀ y, t.ctx y = s.ctx y) ∧ (∀ ce, ce ≠ n / 16 → t.cell ce = s.cell ce) ∧ (∀ cv b, t.bar cv b = s.bar cv b) ∧
      (t.cell (n / 16)).imgs = (s.cell (n / 16)).imgs ∧ (∀ j, j ≠ n % 16 → t.node (16 * (n / 16) + j) = s.node (16 * (n / 16) + j) ∨ 16 ≤ j) ∧
      t.accs = s.accs ∧ t.credits = s.credits ∧ t.sbs = s.sbs ∧ t.tlb = s.tlb ∧ t.walks = s.walks ∧ t.host = s.host ∧ t.tasks = s.tasks ∧
      t.jobs = s.jobs ∧ t.umx = s.umx ∧ t.arrs = s.arrs ∧ t.recs = s.recs ∧ t.parked = s.parked ∧ t.clock = s.clock

/-- R46: what Anti does to a queue of a cell. -/
def Obligations.AntiFollowsItsRule : Prop :=
  ∀ (s : State) (ce id : Nat), id < 0x20 →
    let q := qAt s ce id
    let t := doAnti s ce id
    let r := qAt t ce id
    let sent := fun (c : Cargo) (ep : Nat) => t.wire = s.wire ++ [⟨ep, c, cvOfCe ce, cvOfCe ce, dieClock s (dieOf (cvOfCe ce)), none⟩]
    (q.sticky = 15 → r = q ∧ t.wire = s.wire) ∧
    (∀ h rest, q.toks = h :: rest → q.sticky ≠ 15 → r.debt = q.debt ∧
      (1 < h.left → h.tok.holds = true → r.toks = { h with left := h.left - 1 } :: rest ∧ t.wire = s.wire) ∧
      (h.left ≤ 1 ∨ h.tok.holds = false → r.toks = rest ∧ ∀ ep, q.src[h.arm]? = some ep → sent .credit ep)) ∧
    (q.toks = [] → q.sticky ≠ 15 → r.debt = q.debt + 1 ∧ r.toks = [] ∧
      (0 < q.sticky → t.wire = s.wire) ∧
      (q.sticky = 0 → ∀ ep, q.src[0]? = some ep → sent (.anti (q.recv + BitVec.ofNat 16 q.debt)) ep))

/-! ### Events of contexts, barriers and ports (R146, R162, R165, R166, R188, R302, R312, R401) -/

/-- R146, R144, R162, R165: what the passing of time does to a context. A pending event is taken with AIE 1 and INTRAP 0 between two blocks, at a
block with a waiting slot, which is abandoned, and in BARWAIT or YIELDWAIT, to which ERET returns; YIELDWAIT ends after 64 clocks or once every
context awaited has committed, in BARWAIT where an arrival of the context at a level barrier other than the one it is to return to still stands; WAIT
ends after 4,096 clocks with the counter as read. That the oldest pending event is taken first (log entry 124), and that one taken in a handler that
has cleared INTRAP replaces the wait to return to (log entry 99), are the model's choices; that YIELDWAIT ends in BARWAIT where such an arrival
stands, as a block with BAR and YIELD waits at its barrier, is its reading (log entry 46). -/
def Obligations.ContextEventsHappen : Prop :=
  ∀ (s : State) (x k : Nat),
    let c := s.ctx x
    let now := dieClock s (dieOf (cvOfX x))
    let h := if c.prv = .u then c.xvec else c.xvecm
    let to_ := fun (i : Instr) (c1 : Ctx) => ∃ t, exec i s = .next t ∧ t.ctx x = c1 ∧ OnlyCtx s t x
    (∀ idx rest, c.evts = idx :: rest → c.aie = true → c.intrap = false → h ≠ 0 →
      let entered := fun (b : Word) (back : Option CtxSt) => { c with
        xcause := BitVec.ofNat 64 (0x17 + 256 * c.prv.code), xslot := 0x80, xblock := b, xaddr := BitVec.ofNat 64 idx, pprv := c.prv
        intrap := true, prv := if c.prv = .u then .s else .m, st := .run, next := h, blk := none, evts := rest, back := back }
      (c.st = .run → c.blk = none → to_ (.asyncEventTake x) (entered c.next none)) ∧
      (∀ b, c.st = .run → c.blk = some b → waitsSomewhere b = true → to_ (.asyncEventTake x) (entered b.base none)) ∧
      (∀ l, c.st = .barwait l → to_ (.asyncEventTake x) (entered c.next (some (.barwait l)))) ∧
      (∀ t w, c.st = .yieldwait t w → to_ (.asyncEventTake x) (entered c.next (some (.yieldwait t w))))) ∧
    (let awaits := fun a : Arrival => a.phase = false ∧ a.x = x ∧ c.back ≠ some (.barwait a.level)
      ∀ t w, c.st = .yieldwait t w → (t + 64 ≤ now ∨ ∀ e ∈ w, e.2 < (s.ctx e.1).commits) →
        ((∀ a ∈ s.arrs, ¬ awaits a) → to_ (.yieldwaitEnd x) { c with st := .run }) ∧
        ∀ pre a rest, s.arrs = pre ++ a :: rest → (∀ b ∈ pre, ¬ awaits b) → awaits a →
          to_ (.yieldwaitEnd x) { c with st := .barwait a.level }) ∧
    (∀ b t0 u, c.st = .run → c.blk = some b → b.slot k = some (.wait t0) → slotOp (b.word k) = 0x61 → t0 + 4096 ≤ now →
      Operand s x b ((b.word k).extractLsb' 16 8) u →
        (s.bar (cvOfX x) u.toNat ≠ 0 → Does (.waitTimeout x k) s x k ((s.bar (cvOfX x) u.toNat).zeroExtend 64) .nothing 0) ∧
        (s.bar (cvOfX x) u.toNat = 0 → DoesCached (.waitTimeout x k) s x k 0 .nothing 0))

/-- R166, R188, R302, R307, R312, R401: events of barriers, ports and the checkpoint engine. A credit whose accesses are performed lowers its barrier,
no lower than 0; an arrival message of a peer is kept and every barrier tried; UNBIND of a read port with nothing to deliver leaves EOS, of a write
port with no write left deposits the range written; a checkpoint that has written everything writes DONE and tells the host. -/
def Obligations.BarrierAndPortEventsHappen : Prop :=
  ∀ (s : State) (cv p : Nat),
    let q := s.port cv p
    let others := fun (t : State) => SameMemory s t ∧ (∀ y, t.ctx y = s.ctx y) ∧ t.cells = s.cells ∧ t.accs = s.accs ∧ t.res = s.res
    (∀ k cr, s.credits[k]? = some cr → (∀ i ∈ cr.after, ∀ a ∈ s.accs, a.id ≠ i) → Tab.rising (s.cove cr.cv).bars = true →
      ∃ t, exec (.tidemarkCredit k) s = .next t ∧ t.credits = s.credits.eraseIdx k ∧ others t ∧
        (∀ m, t.bar cr.cv m = if m = cr.bar then BitVec.ofNat 32 ((s.bar cr.cv m).toNat - cr.n) else s.bar cr.cv m) ∧
        ∀ v, v ≠ cr.cv → t.cove v = s.cove v) ∧
    (∀ phase level group dev, 6 ≤ level → level ≤ 7 → group ≠ 0 →
      let u := { s with grpMsgs := s.grpMsgs ++ [(phase, level, group, dev)] }
      exec (.peerArrivalMessage phase level group dev) s = .next (tryBars u) ∧ (s.arrs = [] → tryBars u = u)) ∧
    (∀ b abort rid, q.bind = some b → q.unb = some abort → ridOfUnit s cv p 16 = some rid → b.job = none → q.frozen = none →
      let gone := { q with bind := none, unb := none, rdy := none, lo := none, hi := none, frozen := none }
      (b.read = true → b.rob = [] → q.buf = [] → (abort = true ∨ b.fin = true) →
        ∃ t, exec (.unbindTakesEffect cv p) s = .next t ∧ others t ∧ t.port cv p = { gone with buf := [(eosTok, [])] } ∧
          t.logs = s.logs ∧ ∀ j, j ≠ p → t.port cv j = s.port cv j) ∧
      (b.read = false → (∀ a ∈ s.accs, a.ag ≠ .port cv p) → (abort = true ∨ b.fin = true ∨ q.took = true) → ∀ lo hi, q.lo = some lo →
        q.hi = some hi → (Tab.get [] s.logs (dieOf cv)).length < 256 →
        ∃ t, exec (.unbindTakesEffect cv p) s = .next t ∧ others t ∧ t.port cv p = gone ∧
          t.logs = Tab.insert s.logs (dieOf cv) (Tab.get [] s.logs (dieOf cv) ++ [⟨rid, lo, hi⟩]))) ∧
    (∀ k c rest t, s.ckpt = some k → k.todo = [] → sbCmds s k.sb = c :: rest → c.rid = k.rid → Tab.find? s.sbFz k.sb = none →
      let v := k.ending + k.skipped % 2 ^ 32 * 2 ^ 32
      wrVa s (cmdRt s c) (dieOf (coveOfSb k.sb)) k.doneVa (leBytes v 8) = (t, none) →
        exec .checkpointDone s = .next (raise { popCmd t k.sb with ckpt := none } 4 0 (BitVec.ofNat 64 v)))

/-! ### Events of channels and regions (R36, R45, R48, R49, R50, R52 to R54, R57, R61, R78) -/

/-- R36, R45, R48 to R50, R74, R267: events of a channel. A token enters its queue with all its uses, or settles what is owed, DRAIN too; it lands in
the landing slot of its arm of a shared window; a settle marker settles one; a credit and an anti-token reach the producer, where the anti-token of a
load not yet emitted marks it owed, on each of its outputs (with two, that both must owe it is the model's choice, log entry 102; that a token may
land while a DRAIN of the other arm stands in the window is its reading, log entry 24), and a record of it that is not yet accepted then has no
access, and a settle marker stands in the place of its reply, also of the POISON of one that had none; a node with something owed on its outputs
cancels a firing in place of making it. -/
def Obligations.ChannelEventsHappen : Prop :=
  ∀ (s : State) (ch rid : Nat) (e : Endp), endpAt s ch = some e → ridOfCh s ch = some rid →
    let ce := e.dst / 32
    let id := e.dst % 32
    let q := qAt s ce id
    let quiet := fun (t : State) => SameMemory s t ∧ (∀ y, t.ctx y = s.ctx y) ∧ t.accs = s.accs
    let arrives := fun (P : State → Prop) => ∃ t, exec (.tokenArrive ch) s = .next t ∧ quiet t ∧ (qAt t ce id).recv = q.recv + 1 ∧ P t
    (∀ (x : Tok) (w : List Packet), popFwd ch s.wire = some (.tok x, w) → q.win = false → q.closed = false → canArrive s ce id e.arm = true →
      (q.debt = 0 → arrives fun t => (qAt t ce id).toks = q.toks ++ [⟨x, q.sticky + 1, e.arm⟩] ∧ (qAt t ce id).debt = 0 ∧ t.wire = w) ∧
      (q.debt ≠ 0 → q.sticky + 1 ≤ q.debt → ∀ up, q.src[e.arm]? = some up → arrives fun t =>
        (qAt t ce id).toks = q.toks ∧ (qAt t ce id).debt = q.debt - (q.sticky + 1) ∧
          t.wire = w ++ [⟨up, .credit, cvOfCe ce, cvOfCe ce, dieClock s (dieOf (cvOfCe ce)), none⟩]) ∧
      (0 < q.debt → q.debt < q.sticky + 1 → arrives fun t =>
        (qAt t ce id).toks = q.toks ++ [⟨x, q.sticky + 1 - q.debt, e.arm⟩] ∧ (qAt t ce id).debt = 0 ∧ t.wire = w)) ∧
    (∀ (x : Tok) (w : List Packet), popFwd ch s.wire = some (.tok x, w) → q.win = true → canArrive s ce id e.arm = true →
      (∀ y ∈ q.toks, y.arm = e.arm → y.tok.k ≠ 5) →
      ∃ t, exec (.tokenArrive ch) s = .next t ∧ quiet t ∧ t.wire = w ∧ qAt t ce id = { q with land := setNth q.land e.arm (some x) }) ∧
    (∀ w, popFwd ch s.wire = some (.settle, w) → q.win = false → canArrive s ce id e.arm = true →
      arrives fun t => (qAt t ce id).toks = q.toks ∧ (qAt t ce id).debt = q.debt - 1 ∧ t.wire = w) ∧
    (∀ w, popCredit ch s.wire = some w →
      ∃ t, exec (.creditReturn ch) s = .next t ∧ quiet t ∧ t.wire = w ∧ endpAt t ch = some { e with credits := e.credits + 1 }) ∧
    (∀ p w k o ctx, popAnti ch s.wire = some (p, w) → producerOf s rid (ch / 32) (ch % 32 + 0x20) = some (k, o) →
      activeOf s rid = some ctx →
      let n := nodeWords s (ch / 32) ctx k
      let ahead := (p - e.sent).toNat < 2 ^ 15
      let comes := fun (e1 : Endp) => ∃ t, exec (.antiTokenArrive ch) s = .next t ∧ quiet t ∧ t.wire = w ∧ endpAt t ch = some e1
      (ahead → pureOp (nodeOpc n.1) (nodeFields n.1) = true → comes { e with dout := e.dout + 1 }) ∧
      (ahead → nodeOpc n.1 = 0x80 → (nodeFields n.1).x = false → comes { e with dout := e.dout + 1 }) ∧
      (let nn := 16 * (ch / 32) + k
        let d := s.node nn
        let i := (p - BitVec.ofNat 16 d.emitted).toNat
        ∀ r : Rep, ¬ahead → nodeOpc n.1 = 0x80 → (nodeFields n.1).x = false → d.frozen = none → d.reps[i]? = some r →
          let m := r.owed ||| 2 ^ o
          let all := endpMask (nodeFields n.1)
          let owes := fun (P : State → Prop) => ∃ t, exec (.antiTokenArrive ch) s = .next t ∧ SameMemory s t ∧ t.wire = w ∧ P t
          (m &&& all ≠ all → owes fun t => (t.node nn).reps = setNth d.reps i { r with owed := m } ∧ t.accs = s.accs) ∧
          (∀ id, m &&& all = all → r.acc = some id → (∃ y ∈ (s.cell (ch / 32)).wRecs, y.acc = some id) →
            owes fun t => (∃ y, (t.node nn).reps[i]? = some y ∧ y.settle = true ∧ y.acc = none ∧ y.owed = m) ∧
              (∀ y ∈ (t.cell (ch / 32)).wRecs, y.acc ≠ some id) ∧ ∀ a ∈ t.accs, a.id ≠ id) ∧
          (m &&& all = all → r.acc = none → r.tok = some poisonTok → (nodeFields n.1).v = true → recordWaits s nn i = true →
            owes fun t => (t.node nn).reps = setNth d.reps i { r with owed := m, settle := true } ∧ t.accs = s.accs)) ∧
      (nodeOpc n.1 ≠ 0x80 → ¬ahead ∨ pureOp (nodeOpc n.1) (nodeFields n.1) = false → comes e)) ∧
    (∀ n w ctx i, s.focus = .node n → activeOf s (ncx s n w).rid = some ctx → nodeInstrAt s (n / 16) ctx (n % 16) = some i →
      canCancelOp (opcOf i) (ncx s n w) = true →
      exec (.cancelFiring w) s = .next (if opcOf i = 0x80 then cancelLoad (ncx s n w) (insOf (ncx s n w)) else cancelPass (ncx s n w) (insOf (ncx s n w))))

/-- R52 to R54, R57, R58, R61, R62, R78: events of a region. DRAIN goes to a source that has emitted EOS and to a FIFO that an EOS has left; the end
of a phase makes the pending context, or the one that the latches choose, active, or ends the region; a stall of 2^16 clocks is reported once; a
packet that has stood for 256 clocks at the head of an input buffer of the router of the lifeline token, which is not its destination, takes the
escape lane there if no packet is on the lane at that router; a packet on the lane advances one router per clock and leaves at its destination router.
The order of a ring, the input buffers (a packet is in the buffer of the side it came from, and its head is the one that has stood longest) and the
oldest packet (the first sent) are the model's choice (log entry 27). -/
def Obligations.RegionEventsHappen : Prop :=
  ∀ (s : State) (rid : Nat) (d : Residency), Tab.find? s.res rid = some d →
    let act := fun (t : State) => (Tab.find? t.res rid).bind (·.active)
    (∀ k n, running s rid = true → d.drainSrc[k]? = some (.node n) →
      (s.cell (n / 16)).lastFire ≠ some (dieClock s (dieOf (cvOfNode n))) →
      let c := ncx s n (liveNode s rid n)
      c.rid = rid → c.d.eos = true → c.d.drained = false → c.rooms = true → doutZero c c.w.out0 = true → doutZero c c.w.out1 = true →
        memIdle c = true → c.d.pend = [] →
        ∃ t, exec (.drainInject rid k) s = .next t ∧ (t.node n).drained = true ∧ SameMemory s t ∧ t.accs = s.accs) ∧
    (∀ k cv f, goesOn s rid = true → d.drainSrc[k]? = some (.fifo cv f) → f < 8 → has (s.cove cv).fqEos f = true →
      fqCount s cv f < 16 → Tab.get [] (s.cove cv).fqIn f = [] → (s.fifo cv f).win = false → (s.fifo cv f).closed = false → (s.fifo cv f).debt = 0 →
        canArrive s (16 * cv) (0xA8 + f) 0 = true →
      ∃ t, exec (.drainInject rid k) s = .next t ∧ (t.fifo cv f).toks = (s.fifo cv f).toks ++ [⟨drainTok, (s.fifo cv f).sticky + 1, 0⟩] ∧
        (Tab.find? t.res rid).map (·.drainSrc) = some (d.drainSrc.eraseIdx k) ∧ SameMemory s t) ∧
    (∀ ctx, d.active = some ctx → d.st = .placed → d.parking = false → phaseOver s rid d.region ctx = true →
      let v := (Tab.get 4 d.nct (predVec s d.region ctx)).toNat
      let ends := fun (to_ : Option Nat) => ∃ t, exec (.phaseEnd rid) s = .next t ∧ SameMemory s t ∧ (∀ y, t.ctx y = s.ctx y) ∧ act t = to_
      (∀ k, d.pend = some k → loadingSlot s rid d.region k = false → slotHeld s d.region k = true → ends (some k)) ∧
      (d.pend = none → v < 4 → slotHeld s d.region v = true → ends (some v)) ∧
      (d.pend = none → 4 ≤ v → ends none)) ∧
    (d.st = .placed → d.reported = false → holdsWork s d.region = true → frozenRes s rid d = false →
      d.actAt + 65536 ≤ dieClock s (nth 0 d.region.dies 0) →
        exec (.deadlockDetect rid) s = .next (writeReport s rid d) ∧
        (d.ent.report = 0 → ∃ t, exec (.deadlockDetect rid) s = .next t ∧ SameMemory s t ∧
          Tab.find? t.res rid = some { d with reported := true, dlWrote := false } ∧ ∃ e ∈ t.host.held, e = ⟨2, rid, 0⟩)) ∧
    (∀ a b p die router, s.wire = a ++ p :: b → p.router = 256 * die + router → Tab.get 0 s.power.lifeline die = router →
      (∀ o ∈ s.wire, o.lane ≠ some (die, router)) → destOf s p ≠ p.router → p.since + 256 ≤ dieClock s die →
      bufHead s s.wire p = true →
      (∀ o ∈ a, ¬(o.router = p.router ∧ o.lane = none ∧ destOf s o ≠ o.router ∧ o.since + 256 ≤ dieClock s die ∧ bufHead s s.wire o = true)) →
      p.lane = none →
      ∃ t, exec (.routerBlockedEscape die router) s = .next t ∧
        t.wire = a ++ { p with lane := some (die, router), since := dieClock s die } :: b ∧ { t with wire := [] } = { s with wire := [] }) ∧
    (∀ (p : Packet) die r, p.lane = some (die, r) →
      let l := (die, (r + 1) % 200)
      let dst := destOf s p
      let moved := laneStep s (fun _ => true) p
      (l = (dieOf dst, dst % 256) → moved = { p with lane := none, router := dst, since := dieClock s (dieOf dst) }) ∧
      (l ≠ (dieOf dst, dst % 256) → dieOf dst = die ∨ l.2 ≠ 192 + dieOf dst → moved = { p with lane := some l }) ∧
      (dieOf dst ≠ die → l = (die, 192 + dieOf dst) → (∀ o ∈ s.wire, o.ahead (fun _ => true) ≠ some (dieOf dst, 192 + die)) →
        moved = { p with lane := some (dieOf dst, 192 + die) }))

/-! ### The matrix node's own steps (R88 to R94, R272 to R279) -/

/-- R272, R273, R277 to R279: a plane performs ZERO, STEP once its eight operand buffers hold a full tile, and EMIT; POISON at its control queue marks
it; an emission's tokens leave in order, by its options, and the buffer is free after the last; the next turn begins once a turn is over and nothing
is in progress. That a POISON which an emission forms has the payload zero is the model's choice (log entry 32). -/
def Obligations.MatrixEventsHappen : Prop :=
  -- R272, R273, R276 to R279
  (∀ (s : State) (cv p : Nat),
    let pl := s.plane cv p
    let tf := tfmtOf s (16 * cv + 8 * p)
    let rows := fun l : List Tile => tileRows tf l
    let quiet := fun (t : State) => SameMemory s t ∧ (∀ y, t.ctx y = s.ctx y) ∧ t.cells = s.cells ∧ t.accs = s.accs
    let does := fun (P : Plane → Prop) => ∃ t, exec (.matrixCommandPerform cv p) s = .next t ∧ quiet t ∧ P (t.plane cv p)
    (∀ w q b rest, planeRuns s cv p = true → pl.ctl = .cmd w q b :: rest → b = true ∨ mxTurn s cv p = true →
      (w = 1 → does fun r => r = { pl with c := [], pm := false, ctl := rest }) ∧
      (w = 2 → ∀ ts, fullTiles pl tf [8, 9, 10, 11] = some ts →
        does fun r => r.ctl = rest ∧ r.em = pl.em ∧ r.pm = ts.any (·.psn) ∧
          (∀ g row t l x y, g < 4 → row < 16 → t < 16 → l < 4 → ts[g]? = some x → x.toks[16 * row + t]? = some y →
            Tab.get 0 r.c (64 * (16 * g + row) + 4 * t + l) = if y.sb.getLsbD l then y.pay.extractLsb' (32 * l) 32 else 0) ∧
          ∀ k ∈ [8, 9, 10, 11], (r.buf k).tiles = (pl.buf k).tiles.drop 1) ∧
      (w = 4 → ∀ ta tb, fullTiles pl tf [0, 1, 2, 3] = some ta → fullTiles pl tf [4, 5, 6, 7] = some tb → Tab.rising pl.c = true →
        does fun r => r.ctl = rest ∧ r.em = pl.em ∧ r.pm = (pl.pm || (ta ++ tb).any (·.psn)) ∧
          (∀ i j x y, i < 64 → j < 64 → (rows ta)[i]? = some x → (rows tb)[j]? = some y →
            Tab.get 0 r.c (64 * i + j) = BitVec.ofNat 32 (mxStep x y (Tab.get 0 pl.c (64 * i + j)).toNat).1) ∧
          ∀ k < 8, (r.buf k).tiles = (pl.buf k).tiles.drop 1) ∧
      (∀ o : BitVec 3, w = BitVec.ofNat 64 (8 + 16 * o.toNat) → pl.em = none →
        does fun r => r = { pl with em := some ⟨pl.c, pl.pm, o, q, 0⟩, ctl := rest })) ∧
    (∀ t rest, planeRuns s cv p = true → pl.ctl = .tok t :: rest → t.k = 9 → does fun r => r = { pl with pm := true, ctl := rest }) ∧
    (∀ t rest, planeRuns s cv p = true → pl.ctl = .tok t :: rest →
      (1 ≤ t.k ∧ t.k ≤ 4 ∨ t.k = 5 ∧ ∀ b < 14, feedsBuf s cv p b = true → (pl.buf b).drain = true ∧ (pl.buf b).tiles = []) → pl.em = none → mxRoom s cv p = true →
      does fun r => r.ctl = rest ∧ r.c = pl.c ∧ r.pm = pl.pm ∧ (readsMx s cv p = true → pl.res.debt = 0 →
        r.res.toks = pl.res.toks ++ [⟨t, pl.res.sticky + 1, 0⟩])) ∧
    (∀ e t fl, planeRuns s cv p = true → pl.em = some e → emitTok e = some (t, fl) → mxRoom s cv p = true →
      ∃ u, exec (.matrixEmit cv p) s = .next u ∧ quiet u ∧
        (u.plane cv p).em = (if (emitTok { e with pos := e.pos + 1 }).isNone then none else some { e with pos := e.pos + 1 }) ∧
        (readsMx s cv p = true → pl.res.debt = 0 → (u.plane cv p).res.toks = pl.res.toks ++ [⟨t, pl.res.sticky + 1, 0⟩])) ∧
    (∀ e, mxEntry (s.cove cv) = some e → mxBusy s cv 0 = false → mxBusy s cv 1 = false →
      mxOver e (s.cove cv).mstart (cycleOf s cv) = true ∨ mxServes s cv e = false ∨ mxWork s cv e.half.toNat = false →
        exec (.matrixTurnEnd cv) s = .next (s.setCove cv ((s.cove cv).nextTurn (cycleOf s cv))))) ∧
  -- R278
  (∀ e : Emit,
    let h := (e.opts.getLsbD 1).toNat
    let n := if e.opts.getLsbD 2 then 512 else 1024
    let k := e.pos - h
    (e.pos < h → emitTok e = some (mkTok 1 (BitVec.ofNat 128 ((if e.opts.getLsbD 2 then 9 else 8) + 64 * 2 ^ 16 + 64 * 2 ^ 32 + 0x3F800000 * 2 ^ 64)) 0, 0)) ∧
    (h ≤ e.pos → e.pos < h + n → e.pm = true → emitTok e = some (poisonTok, 0)) ∧
    (h ≤ e.pos → e.pos < h + n → e.pm = false → e.opts.getLsbD 2 = false →
      ∃ t, emitTok e = some (t, 0) ∧ t.k = 0 ∧ t.sb = 0xF ∧ ∀ l < 4, t.pay.extractLsb' (32 * l) 32 = Tab.get 0 e.c (4 * k + l)) ∧
    (h ≤ e.pos → e.pos < h + n → e.pm = false → e.opts.getLsbD 2 = true →
      ∃ t fl, emitTok e = some (t, fl) ∧ t.k = 0 ∧ t.sb = 0xFF ∧
        ∀ l < 8, t.pay.extractLsb' (16 * l) 16 = BitVec.ofNat 16 (FF.bf16.out 0 0 (FF.f32.decI (Tab.get 0 e.c (8 * k + l)).toNat) 0).1) ∧
    (e.pos = h + n → emitTok e = if e.opts.getLsbD 0 then some (eotTok, 0) else none) ∧
    (h + n < e.pos → emitTok e = none))

/-! ### The units between fabric and memory (R185 to R190, R256, R265, R291, R325, R337, R338, R351, R358, R375 to R378) -/

/-- R158, R185 to R187, R190, R256, R259, R262, R265, R266, R268, R291, R296: a chain accepts the acceptable record with the lowest SELF, one per
clock, and no other while its access is not translated, or with none is serialised with a record, and then accepts them one by one; an access is
performed once those before it are. A write, of a node, a port, a scatter, a copy's piece or a store of the control core, then reads back at its bytes
and nowhere else; an ATOM leaves its operation's result and a DIRTY its bit cleared where it says so, and the node gets the old value, or the bit; a
read changes no memory, and its node gets the bytes; the element of a port or a gather becomes a token, which is delivered in order, or with COMM at
once, POISON where a byte is poisoned; the bytes read for a copy's piece go into its write, and of a fenced source nothing is written. -/
def Obligations.MemoryRepliesHappen : Prop :=
  ∀ (s : State),
    (∀ ce rid, ridOfCell s ce = some rid → (s.cell ce).wAt = some (dieClock s (dieOf (cvOfCe ce))) → exec (.waveAccept ce) s = .next s) ∧
    (∀ ce rid, ridOfCell s ce = some rid → running s rid = true → (s.cell ce).wAt ≠ some (dieClock s (dieOf (cvOfCe ce))) →
      let c := s.cell ce
      let hs := waveHeads [] c.wRecs
      let top := ((chainSelfs s ce).map (·.2)).foldl max 0
      let takes := fun (r : WaveRec) => ∃ t, exec (.waveAccept ce) s = .next t ∧ SameMemory s t ∧ (∀ y, t.ctx y = s.ctx y) ∧
        (t.cell ce).wRecs = c.wRecs.filter (fun q => decide (q.seq ≠ r.seq)) ∧
        (t.cell ce).wLast = (if r.self = top then 0 else r.self) ∧ (t.cell ce).wNeed = (if r.self = top then 63 else r.succ) ∧
        (t.cell ce).wAt = some (dieClock s (dieOf (cvOfCe ce))) ∧
        t.accs = s.accs.map fun a => if r.acc = some a.id then
          { a with issued := true, wave := some (ce, s.nextWave), segs := routeSegs s a.segs } else a
      (∀ r, c.wErr = false → lowestSelf (hs.filter (tripletOk c)) = some r →
        (recReady s r = true → takes r) ∧ (recReady s r = false → exec (.waveAccept ce) s = .next s)) ∧
      (c.wErr = false → chainSelfs s ce ≠ [] → (∀ e ∈ chainSelfs s ce, ∃ r ∈ hs, r.node = e.1) → (∀ r ∈ hs, tripletOk c r = false) →
        exec (.waveAccept ce) s = .next (waveError s ce rid)) ∧
      (∀ r rest, c.wErr = true → c.wRecs = r :: rest → recReady s r = true → (∀ a ∈ s.accs, ∀ k, a.wave ≠ some (ce, k)) → takes r)) ∧
    (∀ a, s.accs.find? (fun b => b.id == a.id) = some a → canPerform s a = true →
      let here := fun pa : PA => ∀ dev l, pa.sp ≠ .peer dev l
      let others := s.accs.filter (fun b => decide (b.id ≠ a.id))
      (∀ (bs : List Byte) pa, fencedBy s a.rid a.segs = none → bs.length = a.len → a.segs = [(pa, a.len)] → here pa → (pa.sp = .hbm → 65536 ≤ pa.adr) →
        a.kind = .wr (bs.zipIdx.map fun e => (e.2, e.1)) ∨ (∃ sh, a.kind = .cput bs false sh) →
        s.hbm.wf = true → s.hostMem.wf = true → s.shore.wf = true →
        ∃ t, exec (.memoryReply a.id) s = .next t ∧ ((∀ x, a.ag ≠ .ctx x) → t.accs = others ∧ ∀ y, t.ctx y = s.ctx y) ∧
          ∀ q : PA, here q → rdPA t q =
            if q.sp = pa.sp ∧ pa.adr ≤ q.adr ∧ q.adr < pa.adr + a.len then nth 0 bs (q.adr - pa.adr) else rdPA s q) ∧
      (∀ n pa, fencedBy s a.rid a.segs = none → a.ag = .node n → a.segs = [(pa, a.len)] → here pa → (pa.sp = .hbm → 65536 ≤ pa.adr) →
        (∀ i < a.len, psnAt s ⟨pa.sp, pa.adr + i⟩ = false) → s.hbm.wf = true → s.hostMem.wf = true → s.shore.wf = true →
        let old := leNat ((span pa.adr a.len).map fun i => rdPA s ⟨pa.sp, i⟩)
        let leaves := fun (new : Nat) (back : Tok) => ∃ t, exec (.memoryReply a.id) s = .next t ∧ (∀ y, t.ctx y = s.ctx y) ∧ t.accs = others ∧
          (∀ q : PA, here q → rdPA t q = if q.sp = pa.sp ∧ pa.adr ≤ q.adr ∧ q.adr < pa.adr + a.len then BitVec.ofNat 8 (new / 2 ^ (8 * (q.adr - pa.adr)))
            else rdPA s q) ∧
          (t.node n).reps = (s.node n).reps.map fun r =>
            if r.acc == some a.id then { r with acc := none, tok := r.tok.orElse fun _ => some back } else r
        (∀ op f u w, a.kind = .rmw op f u w → op ≤ 8 →
          let v := u.toNat % 2 ^ (8 * a.len)
          let i := laneInt f
          leaves (match op with
            | 0 => wrapT f (i old + i v)
            | 1 => old &&& v
            | 2 => old ||| v
            | 3 => old ^^^ v
            | 4 => if i old ≤ i v then old else v
            | 5 => if i old ≤ i v then v else old
            | 6 => v
            | 7 => if old = w.toNat % 2 ^ (8 * a.len) then v else old
            | _ => addLane f old v) (mkTok 0 (BitVec.ofNat 128 old) 1)) ∧
        (∀ b clr, a.kind = .dirty b clr → a.len = 2 →
          leaves (if clr = true ∧ bitOf old b = true then old - 2 ^ b else old) (ctrlTok (bitOf old b).toNat))) ∧
      (∀ m pa, fencedBy s a.rid a.segs = none → a.kind = .rd m → a.segs = [(pa, m)] → here pa →
        let data := leNat ((span pa.adr m).map fun i => rdPA s ⟨pa.sp, i⟩)
        let tok := fun f lanes : Nat => if (span pa.adr m).any fun i => psnAt s ⟨pa.sp, i⟩ then poisonTok
          else mkTok 0 (BitVec.ofNat 128 data) (BitVec.ofNat 16 (if fmtWidth f = 4 then 2 ^ ((lanes + 1) / 2) - 1 else 2 ^ lanes - 1))
        let back := fun (cv p : Nat) (out : List (Tok × List Nat)) (rob : List RobE) => ∃ t, exec (.memoryReply a.id) s = .next t ∧ SameMemory s t ∧
          (∀ y, t.ctx y = s.ctx y) ∧ t.accs = others ∧ (t.port cv p).buf = (s.port cv p).buf ++ out ∧
          ∀ b, (s.port cv p).bind = some b → (t.port cv p).bind = some { b with rob := rob }
        let inOrder := fun (cv p : Nat) (b : Bind) (k : Tok) =>
          (∀ x rest, b.rob = ⟨some a.id, none, x⟩ :: rest → (∀ e ∈ rest, e.acc ≠ some a.id) → (∀ e, rest.head? = some e → e.tok = none) →
            back cv p ((k :: x.toList).map fun u => (u, [])) rest) ∧
          (∀ e0 pre x post, b.rob = e0 :: pre ++ ⟨some a.id, none, x⟩ :: post → e0.tok = none → (∀ e ∈ e0 :: pre ++ post, e.acc ≠ some a.id) →
            back cv p [] (e0 :: pre ++ ⟨none, some k, x⟩ :: post))
        (∀ cv p b, a.ag = .port cv p → (s.port cv p).bind = some b → b.job = none → inOrder cv p b (tok b.fmt b.lanes)) ∧
        (∀ j d b, a.ag = .job j → s.job j = some d → d.scat = false → (s.port d.cv d.port).bind = some b → b.job = some j →
          (d.comm = false → inOrder d.cv d.port b (tok d.fmt d.lanes)) ∧
          (d.comm = true → ∀ pre x post, b.rob = pre ++ ⟨some a.id, none, x⟩ :: post → (∀ e ∈ pre ++ post, e.acc ≠ some a.id ∧ e.tok = none) →
            let held := pre.flatMap fun e => e.acc.toList
            back d.cv d.port ((tok d.fmt d.lanes :: x.toList).map fun u => (u, held)) (pre ++ post)))) ∧
      (∀ n m pa, fencedBy s a.rid a.segs = none → a.kind = .rd m → a.ag = .node n → a.segs = [(pa, m)] → here pa →
        (∀ i < m, psnAt s ⟨pa.sp, pa.adr + i⟩ = false) →
        ∃ t, exec (.memoryReply a.id) s = .next t ∧ SameMemory s t ∧ (∀ y, t.ctx y = s.ctx y) ∧ t.accs = others ∧
          (t.node n).reps = (s.node n).reps.map fun r => if r.acc == some a.id then { r with
            acc := none
            tok := r.tok.orElse fun _ => some (replyTok (liveNode s a.rid n) (.rd m) ((span pa.adr m).map fun i => rdPA s ⟨pa.sp, i⟩) false) } else r) ∧
      (∀ src n, a.kind = .copy src n → src ≠ [] → (∀ e ∈ src, here e.1 ∧ fencedBy s a.rid [e] = none ∧ ∀ i < e.2, psnAt s ⟨e.1.sp, e.1.adr + i⟩ = false) →
        ∃ t, exec (.memoryReply a.id) s = .next t ∧ SameMemory s t ∧ (∀ y, t.ctx y = s.ctx y) ∧ t.accs = s.accs.map fun b => if b.id = a.id then { b with
          kind := .cput (src.flatMap fun e => (span e.1.adr e.2).map fun i => rdPA s ⟨e.1.sp, i⟩) false (src.any fun e => decide (e.1.sp = .shore))
          segs := routeSegs s b.segs } else b) ∧
      (∀ src n cv p, a.kind = .copy src n → a.ag = .copy cv p → src ≠ [] → (∀ e ∈ src, fencedBy s a.rid [e] ≠ none) →
        ∃ t, exec (.memoryReply a.id) s = .next t ∧ t.accs = others ∧
          ((∀ e ∈ src, ∀ fr, fencedBy s a.rid [e] = some fr → (a.rid, fr) ∈ s.told) → SameMemory s t ∧ ∀ y, t.ctx y = s.ctx y)) ∧
      (∀ cv p m off bs sh, a.ag = .copy cv p → a.kind = .cput bs false sh → (s.cq cv p).tmpl = some m → (s.cq cv p).cur = some off → m.bytes ≤ off →
        (∀ b ∈ s.accs, b.ag = .copy cv p → b.id = a.id) →
        ∃ t, exec (.memoryReply a.id) s = .next t ∧ (t.cq cv p).cur = none ∧ (t.cq cv p).f = (s.cq cv p).f + 1 ∧ t.accs = others))

/-- R185 to R187, R190, R294, R325, R337, R338, R345, R351, R358: the units' own steps. A port whose next element translates issues it, or holds it
for its node, and its counters move on; a gather takes its segment's offsets and its elements, a scatter the target of its next token; a copy queue
takes its next token and issues its piece, up to the next aligned word of the destination, as one access also where the source crosses a 64 KiB
boundary, unless it faults there (that the word is the destination's is the model's choice, log entry 141); a walk that succeeds is cached, for every
miss that has joined it; one of a residency that is being parked stops. Each acts when its cove's or engine's arbitration chooses it: every one that
asks gains its weight, and the one with the greatest credit issues and pays the weights of all. When it asks is the model's choice in part: the
credits begin at 0 and a miss uses the turn (log entry 103); a read port holds at most 32 elements (log entry 86); a write port translates once a
token with something to write heads its node (log entry 88); a gather's elements in the backwash are not among its 32 (log entry 43). -/
def Obligations.UnitEventsHappen : Prop :=
  -- R185 to R187, R190, R294, R337, R338, R345, R351
  (∀ (s : State) (cv p rid : Nat) (arb : Arb),
    let q := s.port cv p
    let quiet := fun (t : State) => SameMemory s t ∧ (∀ y, t.ctx y = s.ctx y)
    (∀ b segs s1, portTurn s cv = (arb, some p) → q.bind = some b → ridOfUnit s cv p 16 = some rid →
      tryXl (s.setCove cv { s.cove cv with parb := arb }) (rtOf s rid false) (64 + 16 * cv + p) (elemAddr b) b.size b.read (!b.read) = (s1, .ok segs) →
        (b.read = false → exec (.portElementIssue cv p) s = .next (s1.setPort cv p { q with rdy := some (elemAddr b, segs) })) ∧
        (b.read = true → ∃ t, exec (.portElementIssue cv p) s = .next t ∧ quiet t ∧ (t.cove cv).parb = arb ∧
          (t.port cv p).bind = some { b with
            idx := (nextIdx b.idx b.dims).1, fin := (nextIdx b.idx b.dims).2
            rob := b.rob ++ [⟨some s1.nextId, none, if eotAfter b then some eotTok else none⟩] } ∧
          ∃ a, t.accs = s.accs ++ [a] ∧ a.ag = .port cv p ∧ a.va = elemAddr b ∧ a.len = b.size ∧ a.kind = .rd b.size ∧ a.segs = segs)) ∧
    (∀ j d, s.job j = some d → jobTurn s d.eng = (arb, some j) →
      let w := jobWord d
      let s0 := { s with earb := Tab.insert s.earb d.eng arb }
      (d.scat = false →
        (d.lim = none → ∀ s1 v, jobRead s0 j d w.1 w.2 = (s1, .ok v false) →
          exec (.gatherElement j) s = .next
            (noteJob (s1.setJob j { d with pos := v % 2 ^ 32, lim := some (min (v / 2 ^ 32) d.count) }) d.rid)) ∧
        (∀ l s1 s2 v segs, d.lim = some l → d.pos < l → jobRead s0 j d w.1 w.2 = (s1, .ok v false) →
          tryXl s1 (rtOf s1 d.rid false) d.unit (d.base + BitVec.ofNat 64 (v * d.scale)) d.size true false = (s2, .ok segs) →
          ∃ t, exec (.gatherElement j) s = .next t ∧ quiet t ∧ ∃ a, t.accs = s.accs ++ [a] ∧ a.ag = .job j ∧ a.kind = .rd d.size ∧
            a.va = d.base + BitVec.ofNat 64 (v * d.scale) ∧ a.segs = segs ∧ a.tag = d.pos)) ∧
      (∀ s1 s2 v segs, d.scat = true → jobRead s0 j d w.1 w.2 = (s1, .ok v false) →
        tryXl s1 (rtOf s1 d.rid false) d.unit (d.base + BitVec.ofNat 64 (v * d.scale)) d.size d.needs.1 d.needs.2 = (s2, .ok segs) →
          ∃ t, exec (.scatterElement j) s = .next t ∧ quiet t ∧
            (t.port d.cv d.port).rdy = some (d.base + BitVec.ofNat 64 (v * d.scale), segs))) ∧
    (let c := s.cq cv p
     ∀ m, copyTurn s cv = (arb, some p) → c.tmpl = some m →
      (∀ k rest, c.cur = none → c.toks = k :: rest → k.k ≠ 9 →
        ∃ t, exec (.copyQueueToken cv p) s = .next t ∧ quiet t ∧ t.accs = s.accs ∧ (t.cove cv).qarb = arb ∧
          t.cq cv p = { c with toks := rest, dlv := c.dlv + 1, cur := if k.k = (if m.trig then 0 else 2) then some 0 else none }) ∧
      (∀ off s1 s2 src dst, c.cur = some off →
        let a := copyAddr c m off
        let n := min (8 - a.2.toNat % 8) (m.bytes - off)
        let h := min n (65536 - a.1.toNat % 65536)
        let issues := fun (n : Nat) (from_ : List (PA × Nat)) => ∃ t, exec (.copyQueueToken cv p) s = .next t ∧ quiet t ∧
          (t.cq cv p).cur = some (off + n) ∧ ∃ x, t.accs = s.accs ++ [x] ∧ x.ag = .copy cv p ∧ x.kind = .copy from_ n ∧ x.va = a.2 ∧ x.segs = dst
        let xl := fun (n : Nat) (u : State) => tryXl u (rtOf u m.rid false) (dieOf cv) a.2 n false true = (s2, .ok dst)
        tryXl (s.setCove cv { s.cove cv with qarb := arb }) (rtOf s m.rid false) (dieOf cv) a.1 h true false = (s1, .ok [src]) →
          (h = n → xl n s1 →
            (src.1.sp ≠ .shore ∨ shoreFull s2 cv p = false → issues n [src]) ∧
            (src.1.sp = .shore → shoreFull s2 cv p = true → exec (.copyQueueToken cv p) s = .next s2)) ∧
          (h < n → src.1.sp ≠ .shore → ∀ u,
            (∀ more, tryXl s1 (rtOf s1 m.rid false) (dieOf cv) (a.1 + BitVec.ofNat 64 h) (n - h) true false = (u, .ok [more]) → more.1.sp ≠ .shore →
              xl n u → issues n [src, more]) ∧
            (∀ e, tryXl s1 (rtOf s1 m.rid false) (dieOf cv) (a.1 + BitVec.ofNat 64 h) (n - h) true false = (u, .err e) → xl h u → issues h [src])))) ∧
    (∀ k w, s.walks[k]? = some w →
      (walkRuns s w = false → exec (.translationWalk k) s = .next s) ∧
      (walkRuns s w = true → (∀ v ∈ s.walks, v.page = w.page →
          walkStops s v = false ∧ (∀ n, v.ag ≠ .node n) ∧ ∃ e, walk s v.root v.va.toNat v.needR v.needW = .ok e) →
        ∃ t, exec (.translationWalk k) s = .next t ∧ quiet t ∧ t.walks = s.walks.filter (fun v => decide (v.page ≠ w.page)) ∧ t.accs = s.accs) ∧
      (walkRuns s w = true → (∀ v ∈ s.walks, v.page = w.page → ∃ r c, ridOfAgent s v.ag = some r ∧ Tab.find? s.res r = some c ∧ c.parking = true) →
        exec (.translationWalk k) s = .next s) ∧
      (∀ e, walkRuns s w = true → s.walks.filter (fun v => decide (v.page = w.page)) = [w] → walkStops s w = false → (∀ n, w.ag ≠ .node n) →
        walk s w.root w.va.toNat w.needR w.needW = .ok e → tlbFind (Tab.get [] s.tlb w.unit) w.root w.va.toNat = none →
        ∃ t, exec (.translationWalk k) s = .next t ∧
          Tab.get [] t.tlb w.unit = tlbAdd (tlbCap w.unit) s.free (Tab.get [] s.tlb w.unit) e))) ∧
  -- R325
  (∀ (a : Arb) (now : Nat) (l : List Nat), l.Nodup → Tab.rising a.credit = true →
    let g := fun v => sat16 (Tab.get 0 a.credit v + 16)
    (a.last = some now ∨ l = [] → a.choose now l = (a, none)) ∧
    ∀ pre u post, l = pre ++ u :: post → a.last ≠ some now → (∀ v ∈ pre, g v < g u) → (∀ v ∈ post, g v ≤ g u) →
      (a.choose now l).2 = some u ∧ (a.choose now l).1.last = some now ∧
      ∀ v, Tab.get 0 (a.choose now l).1.credit v =
        if v = u then sat16 (g u - 16 * (l.length : Int)) else if v ∈ l then g v else Tab.get 0 a.credit v)

/-- R288, R375 to R378: the steps of an unmasking engine. It reads the mask once, ranks a full step, or faults its residency where a candidate's
position is at or beyond NPOS, makes its accesses one by one, waiting while it walks, each of the dirty map crediting the round's barrier, and then
hands the result to its node. That a position which lane 0 does not validly give is none (log entry 114), and that a poisoned result has the payload
zero (log entry 32), are the model's choices. -/
def Obligations.UnmaskingStepsHappen : Prop :=
  ∀ (s t : State) (e : Nat) (st : UmxStep) (rest : List UmxStep), (s.umxAt e).steps = st :: rest → (s.umxAt e).frozen = none →
    running s st.rid = true → (walking s (.umx e) = true → exec (.umxStep e) s = .next s) ∧ (walking s (.umx e) = false →
    let r := s.round e st.round
    let steps := fun (u : State) => (u.umxAt e).steps
    let xl := fun (va : Word) (n : Nat) (needW : Bool) => tryXl s { rtOf s r.rid false with root := r.root } (e / 64) va n true needW
    (st.begun = false → ∀ segs t2 bs psn, xl r.maskp (8 * ((r.npos + 63) / 64)) false = (t, .ok segs) → rdSegs (meterSegs t st.rid segs) segs = (t2, bs, psn) →
      ∃ u, exec (.umxStep e) s = .next u ∧ SameMemory s u ∧
        steps u = { st with begun := true, mask := bs, m := ((span 0 r.npos).filter (maskBit bs)).length, psn := st.psn || psn } :: rest) ∧
    (st.begun = true → st.full = true → st.ranked = false → st.psn = false → posOver r st.cands = false →
      let comm := commitsOf r st.mask st.m st.cands
      let ps := comm.map candPos
      ∃ u, exec (.umxStep e) s = .next u ∧ SameMemory s u ∧
        steps u = { st with ranked := true, comm := comm, todo := maskAccs r ps ++ staleAccs r ps ++ dirtyAccs r ps } :: rest) ∧
    (st.begun = true → st.full = true → st.ranked = false → posOver r st.cands = true →
      exec (.umxStep e) s = .next (resFault s st.rid 0x3D (st.node / 16) (st.node % 16))) ∧
    (st.begun = true → st.full = true → st.ranked = true → ∀ a todo, st.todo = a :: todo → ∀ pa bs,
      xl a.va a.len true = (t, .ok [(pa, a.len)]) → (∀ k < a.len, psnAt s ⟨pa.sp, pa.adr + k⟩ = false) →
      bs = (span pa.adr a.len).map (fun k => rdPA s ⟨pa.sp, k⟩) → (pa.sp = .hbm → 65536 ≤ pa.adr) →
      s.hbm.wf = true → s.hostMem.wf = true → s.shore.wf = true → (∀ dev l, pa.sp ≠ .peer dev l) →
      let old := BitVec.ofNat 64 (leNat bs)
      let leaves := fun (v : Nat → Byte) (todo1 : List UmxAcc) (P : State → Prop) => ∃ u, exec (.umxStep e) s = .next u ∧
        steps u = { st with todo := todo1, done := st.done + 1 } :: rest ∧ P u ∧ ∀ q : PA, (∀ dev l, q.sp ≠ .peer dev l) → rdPA u q =
          if q.sp = pa.sp ∧ pa.adr ≤ q.adr ∧ q.adr < pa.adr + a.len then v (q.adr - pa.adr) else rdPA s q
      let barCv := 256 * (e / 64) + r.barcove
      let noCredit := fun (u : State) => ∀ c k, u.bar c k = s.bar c k
      (∀ va w, a = .mask va w → leaves (fun i => (old &&& w).extractLsb' (8 * i) 8) todo noCredit) ∧
      (∀ va w, a = .dirty va w → leaves (fun i => (old ||| w.zeroExtend 64).extractLsb' (8 * i) 8) todo fun u =>
        (r.bar = none → noCredit u) ∧ ∀ b, r.bar = some b → Tab.rising (s.cove barCv).bars = true →
          ∀ k, u.bar barCv k = if k = b then BitVec.ofNat 32 ((s.bar barCv k).toNat - 2) else s.bar barCv k) ∧
      (∀ va ls, a = .stale va ls → bs.length = 8 → (ls.map (·.1)).Nodup → (∀ x ∈ ls, x.1 < 8) →
        let count := fun (o : Nat) (hit : Bool) => if hit then 0 else min ((nth 0 bs o).toNat + 1) 255
        let due := fun (o : Nat) (hit : Bool) => hit = true ∨ r.stale ≠ 0 ∧ r.stale ≤ count o hit
        let marked := (ls.filter fun x => decide (due x.1 x.2)).map fun x => (va - r.stalep).toNat + x.1
        leaves (fun i => match ls.find? fun x => x.1 == i with
            | some x => if due i x.2 then 0 else BitVec.ofNat 8 (count i x.2)
            | none => nth 0 bs i)
          (marked.foldl (fun l p => markDirty r p l) todo) noCredit)) ∧
    (st.begun = true → st.full = true → st.ranked = true → st.todo = [] →
      let n := st.comm.length
      let c := if st.psn then poisonTok else mkTok 6 (BitVec.ofNat 128 ((n + (st.m - n) * 65536 + (if st.m = n then 2 ^ 32 else 0)) % 2 ^ 64)) 0
      let out1 := !isNone (liveNode s st.rid st.node).out1
      let rows := (st.comm.zipIdx).map fun e : Tok × Nat => (some (mkTok 0 (BitVec.ofNat 128 (e.1.pay.toNat % 2 ^ 96 + e.2 * 2 ^ 96)) 0xF), none)
      ∃ u, exec (.umxStep e) s = .next u ∧ SameMemory s u ∧ steps u = rest ∧ (u.node st.node).op = .none ∧
        (u.node st.node).pend = (s.node st.node).pend ++ rows ++ [(some eotTok, if out1 then some c else none)]))

/-! ### Tasks and faults (R310, R316 to R318, R321 to R328, R331, R332, R340, R354, R355, R385) -/

/-- R310, R317, R318, R322, R385: what the arbiter does. A launch port takes one write in 8 clocks, has a later one wait, and enqueues a sound
record's first task, or refuses; a head ages by a step in each 2^16 clocks; a candidate of 2^20 clocks blocks; a decision refuses and passes the heads
without a type, passes those without their permits or a region, and dispatches the first queue in its order whose head has all. -/
def Obligations.TaskDispatchHappens : Prop :=
  ∀ (s : State) (q : Nat),
    let u := { s with tasks := { s.tasks with lastPort := some s.clock } }
    let taken := fun (a : Word) (x : State) =>
      q < 256 → s.tasks.portq = [] → (∀ t, s.tasks.lastPort = some t → t + 8 ≤ s.clock) → exec (.launch q a) s = .next x
    (∀ a, q < 256 → (s.tasks.portq ≠ [] ∨ ∃ t, s.tasks.lastPort = some t ∧ s.clock < t + 8) →
      exec (.launch q a) s = .next { s with tasks := { s.tasks with portq := s.tasks.portq ++ [(q, a)] } }) ∧
    (∀ a, (2 ^ 52 ≤ a.toNat ∨ a.toNat % 64 ≠ 0) → taken a (refuse u 0x011D (shownPtr ⟨0, none, [], qRoot s q, false⟩ a))) ∧
    (∀ a s1 e, a.toNat < 2 ^ 52 → a.toNat % 64 = 0 → resolve u ⟨0, none, [], qRoot s q, false⟩ 0 a 128 true false = (s1, .error e) →
      taken a (refuse s1 0x011D a)) ∧
    (∀ a s1 s2 segs b, a.toNat < 2 ^ 52 → a.toNat % 64 = 0 → resolve u ⟨0, none, [], qRoot s q, false⟩ 0 a 128 true false = (s1, .ok segs) →
      (∀ e ∈ segs, e.1.sp = .hbm) → rdSegs s1 segs = (s2, b, false) → launchOk b = true → queueLen s q < 1024 →
        ∃ x, taken a x ∧ ∀ k, Tab.get [] x.tasks.queues k = if k = q then Tab.get [] s.tasks.queues q ++ [launchOf b] else Tab.get [] s.tasks.queues k) ∧
    (Tab.get [] s.tasks.queues q ≠ [] → Tab.get 0 s.tasks.aged q < ageSteps s q →
      exec (.priorityAging q) s = .next { s with tasks := { s.tasks with aged := Tab.insert s.tasks.aged q (Tab.get 0 s.tasks.aged q + 1) } }) ∧
    (has (taskCands s) q = true → ∀ t, Tab.find? s.tasks.candAt q = some t → t + 2 ^ 20 ≤ s.clock →
      exec (.candidateBlocking q) s = .next { s with tasks := { s.tasks with blocking := insNat s.tasks.blocking q } }) ∧
    (s.host.boot = 5 → (∀ t, s.tasks.lastDec = some t → t + 8 ≤ s.clock) →
      let d := ageAll (releaseHeld s.tasks.held { s with tasks := { s.tasks with lastDec := some s.clock } })
      (∀ d0, Passes (decisionOrder d) d d0 → exec .dispatchDecision s = .next d0) ∧
      (∀ before order d0 t rest d1 e r rid d2 l, decisionOrder d = before ++ q :: order → Passes before d d0 →
        Tab.get [] d0.tasks.queues q = t :: rest → readEnt d0 (bitsOf t.bits.toNat 112 12) = (d1, e) → entryCode d1.host.pool e = none → e.permits ≤ freePermits d1 → place d1 e = some r →
        let g := popTask d1 q
        let g1 := { g with tasks := { g.tasks with rr := Tab.insert g.tasks.rr (effPrio d0 q) q } }
        freeRid g1 = some rid →
        taskImage { g1 with free := g1.free + 1 } ⟨rid, some r, [], t.root.getD (qRoot d0 q), false⟩ (nth 0 r.dies 0) r e = (d2, .ok l) →
          ∃ x c, exec .dispatchDecision s = .next x ∧ Tab.find? x.res rid = some c ∧ c.region = r ∧ c.permits = e.permits ∧ c.queue = q ∧
            c.tidx = bitsOf t.bits.toNat 112 12 ∧ (Tab.rising d0.tasks.queues = true → Tab.get [] x.tasks.queues q = rest)))

/-- R301, R323, R324: how a task ends. Ports still bound are unbound with ABORT first; once nothing of it is left to perform, the completion counter
rises by 1, its dependence counter falls, the host is told, and the residency is gone. That its copy queues are cleared then is the model's choice
(log entry 57). The watchdog makes one record in a placement and lets the task run on. -/
def Obligations.TasksEnd : Prop :=
  ∀ (s : State) (rid : Nat) (r : Residency), Tab.find? s.res rid = some r →
    let u := clearCopies s r.region
    (mayRetire s rid r = true →
      (boundPorts s r.region ≠ [] → exec (.taskRetire rid) s = .next (abortPorts s (boundPorts s r.region))) ∧
      (boundPorts s r.region = [] → workLeft u rid = true → exec (.taskRetire rid) s = .next u) ∧
      (boundPorts s r.region = [] → workLeft u rid = false → Tab.rising s.res = true → Tab.rising s.tasks.dep = true →
        ∃ t, exec (.taskRetire rid) s = .next t ∧ Tab.find? t.res rid = none ∧ t.host.compl = s.host.compl + 1 ∧
          (∀ e, e ≠ rid → Tab.find? t.res e = Tab.find? s.res e) ∧
          (∃ v ∈ t.host.held, v = ⟨1, r.queue, s.host.compl + 1⟩) ∧
          ∀ k, Tab.get 0 t.tasks.dep k =
            if r.ent.dec = true ∧ k = r.ent.donectr then BitVec.ofNat 32 ((Tab.get 0 s.tasks.dep k).toNat - 1) else Tab.get 0 s.tasks.dep k)) ∧
    (r.wdFired = false → r.ent.cycles ≤ taskClocks s r →
      let t := openRec (modRes s rid fun q => { q with wdFired := true }) { Rec.zero with
        kind := 12, cause := 0x4A, rid := rid, loc := 16 * nth 0 r.region.coves 0, aux := BitVec.ofNat 64 r.ent.cycles
        cycle := cycleOf s (nth 0 r.region.coves 0) } none []
      exec (.watchdogExpiry rid) s = .next t ∧ Tab.find? t.res rid = some { r with wdFired := true } ∧
        (s.recs.wait = [] → ∀ y, t.ctx y = s.ctx y))

/-- R201, R326 to R328, R331, R332: the end of a coupling period moves the weights of the channel's producer and consumer by the difference of R326,
and, where a COUPLE waits to take effect, holds both within its limits; the end of a permit window sets the gate of the next one. That a period's end
is a step of its own, at the counts of its clocks, and the units in which the draw is counted are the model's choices (log entries 63 and 66). -/
def Obligations.RegulatorAndPermitsFollowTheirRules : Prop :=
  ∀ (s : State) (rid : Nat) (r : Residency), Tab.find? s.res rid = some r →
    (∀ k c, r.coups[k]? = some c → c.start + 2 ^ c.par.q ≤ dieClock s (dieOf (cvOfNode c.prod)) →
      (∀ d ∈ r.coups.take k, periodOver s d = false) → c.prod ≠ c.cons →
      let P : Int := 2 ^ c.par.q
      let clamp := fun (v lo hi : Int) => if v < lo then lo else if hi < v then hi else v
      let e : Int := (16 * c.sum) >>> c.par.q - 16 * (c.par.s : Int)
      let I : Int := if 2 * c.fc ≤ P ∧ 2 * c.ec ≤ P then clamp (c.integ + e) (-32768) 32767 else c.integ
      let t : Int := match c.par.i with | some i => I >>> i | none => 0
      let delta : Int := ((e >>> c.par.p) + t) >>> 4
      let moved := fun (w : Nat) (d : Int) => (clamp ((w : Int) + d) c.par.wmin c.par.wmax).toNat
      let held := fun (w : Nat) => match c.nxt with | some p => (clamp (w : Int) p.wmin p.wmax).toNat | none => w
      ∃ u, exec (.regulatorPeriod rid k) s = .next u ∧ SameMemory s u ∧ (∀ y, u.ctx y = s.ctx y) ∧
        (u.node c.prod).weight = held (if c.par.mode ≠ 2 then moved (s.node c.prod).weight (-delta) else (s.node c.prod).weight) ∧
        (u.node c.cons).weight = held (if c.par.mode ≠ 1 then moved (s.node c.cons).weight delta else (s.node c.cons).weight) ∧
        ∃ c1, ((Tab.find? u.res rid).map (·.coups)).bind (·[k]?) = some c1 ∧ c1.start = c.start + 2 ^ c.par.q ∧
          c1.integ = (if c.nxt.isSome then 0 else I) ∧ c1.par = c.nxt.getD c.par) ∧
    (r.winStart + 1024 ≤ dieClock s (nth 0 r.region.dies 0) →
      let a := r.act
      let draw := 265 * a.fires + 21200 * a.mac + 4240 * a.sort + 742 * a.hbm + 1400 * a.link + 33920 * a.jobs
      let held := r.permits * 4341760
      ∃ u, exec (.permitWindow rid) s = .next u ∧ SameMemory s u ∧ (∀ y, u.ctx y = s.ctx y) ∧
        Tab.find? u.res rid = some { r with
          gate := if draw ≤ held then 64 else max 1 (64 * held / draw), act := ⟨0, 0, 0, 0, 0, 0, 0⟩, winStart := r.winStart + 1024 })

/-- R340, R354, R355: the first freeze that waits gets the record that has become free, or, with none, the lost records are reported; with no record
free a freeze waits, its record of cause 0x56 lost and counted, and an information is lost and counted (that 0x56 finds no record and is counted is
the model's reading, log entry 18); a fatal fault stops its residency, halts its contexts and fences its shore slices. -/
def Obligations.FaultEventsHappen : Prop :=
  ∀ (s : State),
    (∀ idx, freeRec s = some idx →
      (∀ r ag asy rest, s.recs.wait = (r, ag, asy) :: rest → ∃ t, exec (.recordRelease idx) s = .next t ∧
        Tab.find? t.recs.live idx = some { r with st := if ag.isSome then 1 else 3 } ∧ t.recs.wait = rest ∧
        (∃ v ∈ t.host.held, v.cls = 0 ∧ v.index = idx) ∧ ∀ a, ag = some a → Tab.find? t.recs.owner idx = some a) ∧
      (s.recs.wait = [] → s.recs.lost ≠ 0 → ∃ t, exec (.recordRelease idx) s = .next t ∧ t.recs.lost = 0 ∧
        ∃ r, Tab.find? t.recs.live idx = some r ∧ r.kind = 15 ∧ r.count = s.recs.lost ∧ r.st = 3)) ∧
    (freeRec s = none → ∀ r ag asy, (openRec s r ag asy).recs.lost = s.recs.lost + 1 ∧
      (openRec s r ag asy).recs.wait = s.recs.wait ++ if ag.isSome then [(r, ag, asy)] else []) ∧
    (∀ k f r, s.fatals[k]? = some f → Tab.find? s.res f.rid = some r → ∃ t, exec (.fatalFault k) s = .next t ∧
      (Tab.find? t.res f.rid).map (·.st) = some .fatal ∧ (∀ x ∈ ctxsOf s f.rid, (t.ctx x).st = .halted) ∧
      (∀ ce ∈ r.region.cells, Tab.find? t.fences ce = some f.rid) ∧ t.fatals = s.fatals.eraseIdx k)

/-! ### Power and errors (R333, R362, R364, R388, R391, R399) -/

/-- R333, R388, R399: power and temperature. A die above its eighth of 3,200 W for 2^16 clocks, and the hottest die at 100 °C, is stretched, with a
class-3 event; below the limit it runs again; at the trip point the package powers down. A die that is not stretched counts every clock, a stretched
one at most as many. -/
def Obligations.PowerEventsHappen : Prop :=
  ∀ (s : State) (die power : Nat),
    let stretched := fun (i : Instr) => ∃ t, exec i s = .next t ∧ has t.power.stretched die = true ∧
      (∃ v ∈ t.host.held, v = ⟨3, die, BitVec.ofNat 64 power⟩) ∧ (∀ d, d ≠ die → has t.power.stretched d = has s.power.stretched d) ∧
      SameMemory s t ∧ ∀ y, t.ctx y = s.ctx y
    (die < 8 → power ≤ 2000 →
      exec (.powerStretch die power) s = .next { s with power := { s.power with overSince := Tab.erase s.power.overSince die } }) ∧
    (die < 8 → 2000 < power → Tab.find? s.power.overSince die = none →
      exec (.powerStretch die power) s = .next { s with power := { s.power with overSince := Tab.insert s.power.overSince die s.clock } }) ∧
    (die < 8 → 2000 < power → has s.power.stretched die = false → ∀ t, Tab.find? s.power.overSince die = some t → t + 65536 ≤ s.clock →
      stretched (.powerStretch die power)) ∧
    (die < 8 → stretched (.thermalThrottle die power)) ∧
    (power < 2000 → ∃ t, exec (.clockStretchingEnd die power) s = .next t ∧
      (∀ d, has t.power.stretched d = (has s.power.stretched d && d != die)) ∧ { t with power := s.power } = s) ∧
    (∃ t, exec .thermalTrip s = .next t ∧ t.boot.powered = false ∧ t.host.boot = 0 ∧ t.host.held = [] ∧ t.res = [] ∧
      ∀ w, takes t w = match w with | .event (.reset _) => true | _ => false) ∧
    ∀ n, die < 8 → Tab.rising s.power.skipped = true → Tab.get 0 s.power.skipped die ≤ s.clock →
      dieClock s die ≤ dieClock (tick s n) die ∧ dieClock (tick s n) die ≤ dieClock s die + n ∧
        (has s.power.stretched die = false → dieClock (tick s n) die = dieClock s die + n)

/-- R362, R364, R365, R391: errors. Corrected errors are counted, those of a demand read as those of the scrub, and reported every 2^24 clocks; a row
at 8 is spared where sparing is armed, else a repair is proposed, once; buckets fall by 1; the retirement of a unit is proposed; uncorrected errors
poison memory or fault their residency; a link goes down and up. How a row and a unit are named, and that a spare row begins with an empty bucket, are
the model's choices (log entry 67), as are the kind of the record of 0x4E (log entry 68) and the errors of the bucket as COUNT of a row's record (log
entry 142). -/
def Obligations.ErrorEventsHappen : Prop :=
  ∀ (s : State) (stack row l : Nat),
    let k := stack * 48 * 2 ^ 30 + row
    let reports := fun (t : State) (cause count : Nat) (aux : Word) => s.recs.wait = [] → s.recs.lost = 0 → ∀ idx, freeRec s = some idx →
      ∃ r, Tab.find? t.recs.live idx = some r ∧ r.kind = 14 ∧ r.cause = cause ∧ r.count = count ∧ r.aux = aux ∧ r.st = 3
    let bucket := fun (t : State) (i : Nat) => Tab.get 0 t.ras.bucket i
    (s.ras.lastSum + 2 ^ 24 ≤ s.clock → ∃ t, exec .corrSum s = .next t ∧ t.ras = { s.ras with corr := [], lastSum := s.ras.lastSum + 2 ^ 24 } ∧
      (s.ras.corr.foldl (fun n e => n + e.2) 0 ≠ 0 → reports t 0x50 (s.ras.corr.foldl (fun n e => n + e.2) 0) 0) ∧
      (s.ras.corr.foldl (fun n e => n + e.2) 0 = 0 → t.recs = s.recs)) ∧
    (stack < 16 → row < 48 * 2 ^ 30 →
      (∀ spare, bucket s k < 7 → ∃ t, exec (.patrolScrub stack row true spare) s = .next t ∧
        (∀ i, bucket t i = if i = k then bucket s k + 1 else bucket s i) ∧
        (∀ i, Tab.get 0 t.ras.corr i = if i = stack then Tab.get 0 s.ras.corr i + 1 else Tab.get 0 s.ras.corr i) ∧ { t with ras := s.ras } = s) ∧
      (∀ spare, exec (.patrolScrub stack row true spare) s = .next (sense s (.row stack row spare))) ∧
      (∀ spare, bucket s k < 8 → exec (.patrolScrub stack row false spare) s = .next s) ∧
      (8 ≤ bucket s k → has s.ras.sparing k = false →
        (bitOf s.host.raspol.toNat stack = true →
          exec (.patrolScrub stack row false true) s = .next { s with ras := { s.ras with sparing := s.ras.sparing ++ [k] } }) ∧
        (∀ spare, bitOf s.host.raspol.toNat stack = false ∨ spare = false → has s.ras.proposed k = false →
          ∃ t, exec (.patrolScrub stack row false spare) s = .next t ∧ reports t 0x52 (bucket s k) (BitVec.ofNat 64 k) ∧ has t.ras.proposed k = true))) ∧
    (has s.ras.sparing k = true → ∃ t, exec (.rowSpared stack row) s = .next t ∧ reports t 0x51 (bucket s k) (BitVec.ofNat 64 k) ∧
      has t.ras.spared k = true ∧ has t.ras.sparing k = false) ∧
    (s.ras.lastDec + 2 ^ 24 ≤ s.clock → Tab.rising s.ras.bucket = true → ∃ t, exec .bucketDecay s = .next t ∧
      (∀ i, bucket t i = bucket s i - 1) ∧ t.ras.lastDec = s.ras.lastDec + 2 ^ 24 ∧ { t with ras := s.ras } = s) ∧
    (∀ pa, pa < 768 * 2 ^ 30 → ∃ t, exec (.uncorrectedError (.hbm pa)) s = .next t ∧ { t with poison := s.poison } = s ∧
      ∀ q : PA, psnAt t q = (psnAt s q || (decide (q.sp = .hbm) && q.adr / 64 == pa / 64))) ∧
    (∀ off, ∃ t, exec (.uncorrectedError (.shore off)) s = .next t ∧ { t with poison := s.poison } = s ∧
      ∀ q : PA, psnAt t q = (psnAt s q || (decide (q.sp = .shore) && q.adr / 8 == off / 8))) ∧
    (∀ rid r, Tab.find? s.res rid = some r → r.st = .placed →
      let dies := fun (i : Instr) (cause kind : Nat) => ∃ t, exec i s = .next t ∧ Tab.find? t.res rid = some { r with st := .dying } ∧
        ∃ f, t.fatals = s.fatals ++ [f] ∧ f.rid = rid ∧ f.frec.kind = kind ∧ f.frec.cause = cause
      dies (.uncorrectedError (.residency rid)) 0x4D 10 ∧ dies (.uncorrectedError (.mesh [rid])) 0x4E 14) ∧
    (∃ t, exec (.uncorrectedError (.mesh [])) s = .next t ∧ reports t 0x4E 0 0 ∧ t.res = s.res) ∧
    (∀ u, let t := sense s (.unit u)
      { t with ras := s.ras } = s ∧ ∀ i, Tab.get 0 t.ras.corr i = Tab.get 0 s.ras.corr i + if i = 16 + u then 1 else 0) ∧
    (∀ loc v, reports (sense s (.defect loc v)) 0x52 0 (BitVec.ofNat 64 v)) ∧
    (l < 24 → has s.peersDown l = false → ∀ i ∈ [Instr.linkDown l, .uncorrectedError (.peerLink l)], ∃ t, exec i s = .next t ∧
      has t.peersDown l = true ∧ reports t 0x4E 0 0 ∧ ∃ v ∈ t.host.held, v = ⟨5, l, 0⟩) ∧
    (has s.peersDown l = true → ∃ t, exec (.peerLinkUp l) s = .next t ∧ has t.peersDown l = false ∧ ∃ v ∈ t.host.held, v = ⟨5, l, 1⟩)

/-! ### The host and the peers (R18, R293, R337, R382 to R384, R386 to R389) -/

/-- R293, R337, R382, R387 to R389, R397: the host's memory accesses, the event ring, the mailbox, and the accesses of other devices. A write reads
back at its bytes, but for physical page 0, and nowhere else; the oldest event enters the ring; a mailbox command that fails its checks sets CAUSE.
That a peer's request is translated by the unit of die 0 through the root of the queue it names is the model's choice (log entry 70). -/
def Obligations.HostAndPeerAccessesHappen : Prop :=
  ∀ (s : State), s.hbm.wf = true → s.hostMem.wf = true → s.shore.wf = true →
    (∀ pa bs, exec (.hostMemoryAccess false pa bs) s = .next s ∧
      (pa + bs.length ≤ 768 * 2 ^ 30 → ∃ t, exec (.hostMemoryAccess true pa bs) s = .next t ∧ t.hostMem = s.hostMem ∧ t.shore = s.shore ∧
        (∀ y, t.ctx y = s.ctx y) ∧
        ∀ a, t.hbm.rd a = if 65536 ≤ a ∧ pa ≤ a ∧ a < pa + bs.length then nth 0 bs (a - pa) else s.hbm.rd a)) ∧
    (∀ v, exec (.evtail v) s = .next { s with host := { s.host with evtail := v } }) ∧
    (∀ e rest, s.host.held = e :: rest →
      let size := 2 ^ (s.host.evsize.toNat + 4)
      let at_ := s.host.evbase.toNat + 16 * (s.host.evhead.toNat % size)
      (s.host.evhead.toNat - s.host.evtail.toNat ≠ size → ∃ t, exec .eventEntry s = .next t ∧ t.host.held = rest ∧
        t.host.evhead = s.host.evhead + 1 ∧ Tab.get 0 t.host.msix e.cls = Tab.get 0 s.host.msix e.cls + 1 ∧ t.hbm = s.hbm ∧ t.shore = s.shore ∧
        ∀ a, t.hostMem.rd a = if at_ ≤ a ∧ a < at_ + 16 then nth 0 e.bytes (a - at_) else s.hostMem.rd a) ∧
      (s.host.evhead.toNat - s.host.evtail.toNat = size → ∃ t, exec .eventEntry s = .next t ∧ t.host.evovf = true ∧ SameMemory s t ∧
        t.host.evhead = s.host.evhead)) ∧
    (∀ v : BitVec 64, let w : BitVec 128 := v ++ s.host.hcmd0
      (mailboxFault s w = none → ∃ t, exec (.hcmd1Write v) s = .next t ∧
        sbCmds t mailbox = sbCmds s mailbox ++ [Cmd.mk w 0 8192 .m true [] none none] ∧ { t with sbs := s.sbs } = s) ∧
      ∀ c, mailboxFault s w = some c → exec (.hcmd1Write v) s = .next { s with host := { s.host with hcause := BitVec.ofNat 8 c } }) ∧
    (∀ va root t segs, va.toNat < 2 ^ 52 →
      let asked := fun (k : PeerKind) (n : Nat) (r w : Bool) (P : State → Prop) =>
        resolve s ⟨8192, none, [], qRoot s root, false⟩ 0 va n r w = (t, .ok segs) → ∃ u, exec (.peerRequest ⟨root, va, k⟩) s = .next u ∧ P u
      (∀ n, n ≤ 65536 → asked (.read n) n true false fun u => SameMemory s u ∧ ∀ y, u.ctx y = s.ctx y) ∧
      (∀ bs pa, bs.length ≤ 65536 → segs = [(pa, bs.length)] → (pa.sp = .hbm → 65536 ≤ pa.adr) → (∀ dev l, pa.sp ≠ .peer dev l) →
        asked (.write bs) bs.length false true fun u => ∀ q : PA, (∀ dev l, q.sp ≠ .peer dev l) → rdPA u q =
          if q.sp = pa.sp ∧ pa.adr ≤ q.adr ∧ q.adr < pa.adr + bs.length then nth 0 bs (q.adr - pa.adr) else rdPA s q) ∧
      (∀ op v c pa, segs = [(pa, 8)] → (pa.sp = .hbm → 65536 ≤ pa.adr) → (∀ dev l, pa.sp ≠ .peer dev l) →
        (∀ i < 8, psnAt s ⟨pa.sp, pa.adr + i⟩ = false) →
        let old := BitVec.ofNat 64 (leNat ((span pa.adr 8).map fun a => rdPA s ⟨pa.sp, a⟩))
        asked (.atomic op v c) 8 true true fun u => ∀ q : PA, (∀ dev l, q.sp ≠ .peer dev l) → rdPA u q =
          if q.sp = pa.sp ∧ pa.adr ≤ q.adr ∧ q.adr < pa.adr + 8 then (atomicNew op old v c).extractLsb' (8 * (q.adr - pa.adr)) 8 else rdPA s q))

/-- R383, R384, R386, R387: writes of BAR0 registers. A base takes an aligned value while no task is placed or parked, DEVNUM and POOL a value of
their range, EVOVF and CAUSE are cleared by ones; a write to a read-only register or to an offset not listed, or one not aligned, has no effect. An
aligned read of 8 bytes gives what the register holds, and any other read 0. That a base's misaligned value is ignored is the model's choice (log
entry 69). -/
def Obligations.RegisterWritesHappen : Prop :=
  ∀ (s : State) (v : BitVec 64),
    let host := fun (off : Nat) (h : HostSt) => exec (.registerWrite off v) s = .next { s with host := h }
    let idle := s.res = [] ∧ s.parked = []
    let h := s.host
    (v.getLsbD 5 = true → host 0x1000 { h with evovf := false }) ∧
    (v.toNat < 1024 → host 0x1008 { h with devnum := v.setWidth 10 }) ∧
    (2600 ≤ v.toNat → v.toNat ≤ 65535 → host 0x1010 { h with pool := v.toNat }) ∧
    (v.toNat < 2600 ∨ 65535 < v.toNat → host 0x1010 h) ∧
    (idle → v.toNat % 65536 = 0 → host 0x1018 { h with ttbase := v } ∧ host 0x1020 { h with frtbase := v }) ∧
    (idle → v.toNat % 4096 = 0 → host 0x1028 { h with peertab := v } ∧ host 0x1030 { h with evbase := v }) ∧
    (idle → v.toNat < 16 → host 0x1038 { h with evsize := v.setWidth 4 }) ∧
    (¬idle → ∀ off ∈ [0x1018, 0x1020, 0x1028, 0x1030, 0x1038], host off h) ∧
    host 0x1048 { h with evtail := v } ∧ host 0x1050 { h with raspol := v } ∧ host 0x1060 { h with hcmd0 := v } ∧
    exec (.registerWrite 0x1068 v) s = exec (.hcmd1Write v) s ∧
    host 0x1070 { h with hcause := h.hcause &&& ~~~(v.extractLsb' 8 8) } ∧
    (∀ q, q < 256 → v.toNat / 2 ^ 52 = 0 → v.toNat / 16 % 1024 = 0 → Tab.rising h.qdesc = true →
      ∃ t, exec (.registerWrite (0x11000 + 8 * q) v) s = .next t ∧ SameMemory s t ∧
        ∀ k, Tab.get 0 t.host.qdesc k = if k = q then v else Tab.get 0 h.qdesc k) ∧
    (∀ off, off % 8 ≠ 0 ∨ off < 0x1000 ∨ off = 0x1040 ∨ off = 0x1058 ∨ (0x1078 ≤ off ∧ off < 0x10000) ∨
      (0x10800 ≤ off ∧ off < 0x11000) ∨ 0x11800 ≤ off → host off h) ∧
    (∀ q, q < 256 → exec (.registerWrite (0x10000 + 8 * q) v) s = exec (.launch q v) s) ∧
    devstat s = BitVec.ofNat 64 (h.boot + (if s.res.isEmpty && s.parked.isEmpty then 8 else 0) + (if s.peersDown.isEmpty then 0 else 16)
      + (if h.evovf then 32 else 0) + 256 * h.fail) ∧
    hcmdst s = BitVec.ofNat 64 ((sbCmds s mailbox).length + 256 * h.hcause.toNat) ∧
    (∀ r ∈ [(0x1000, devstat s), (0x1008, h.devnum.setWidth 64), (0x1010, BitVec.ofNat 64 h.pool), (0x1018, h.ttbase), (0x1020, h.frtbase),
        (0x1028, h.peertab), (0x1030, h.evbase), (0x1038, h.evsize.setWidth 64), (0x1040, h.evhead), (0x1048, h.evtail), (0x1050, h.raspol),
        (0x1058, h.compl), (0x1070, hcmdst s)], bar0Read s r.1 8 = leBytes r.2.toNat 8) ∧
    (∀ q, q < 256 → bar0Read s (0x11000 + 8 * q) 8 = leBytes (Tab.get 0 h.qdesc q).toNat 8) ∧
    (∀ off, off % 8 = 0 → off < 0x1000 → bar0Read s off 8 = (capWindow.drop off).take 8) ∧
    ∀ off n, n ≠ 8 ∨ off % 8 ≠ 0 → bar0Read s off n = List.replicate n 0

/-! ### Reset, boot and attestation (R392 to R397, R399) -/

/-- R392 to R394, R399: a reset and the boot after it. BOOT passes through its states, each with its class-6 event, to ready, or to recovery or
failure with its code; nothing is placed, the queues are disabled, and the measurements are chained; host memory, the flash and the repair map stay.
The reset after a thermal trip leaves BOOT 0. That all of it happens in one step, that powering down leaves BOOT 0 at that one reset, and that HBM and
the shore are cleared (log entry 72) to bytes that read 0 (log entry 2), are the model's choices; so is where an image's signature and key stand (log
entry 11). -/
def Obligations.ResetBootsTheDevice : Prop :=
  ∀ (s t : State) (h : BootHw), exec (.reset h) s = .next t →
    let flash := (s.boot.flash.getD Config.factoryFlash).take (2 ^ 26)
    let ok := imageVerifies flash
    let boots := fun (l : List (Nat × Nat)) (b fail : Nat) => t.host.boot = b ∧ t.host.fail = fail ∧
      t.host.held.filter (fun e => e.cls = 6) = l.map fun e => ⟨6, e.1, BitVec.ofNat 64 e.2⟩
    (s.boot.powered = false → boots [] 0 0) ∧
    (s.boot.powered = true →
      (ok = false → boots [(1, 0), (6, 1)] 6 1) ∧
      (ok = true → h.mapOk = false → boots [(1, 0), (2, 0), (3, 0), (7, 2)] 7 2) ∧
      (ok = true → h.mapOk = true → h.stacksOk = false → boots [(1, 0), (2, 0), (3, 0), (7, 3)] 7 3) ∧
      (ok = true → h.mapOk = true → h.stacksOk = true → h.testOk = false → boots [(1, 0), (2, 0), (3, 0), (4, 0), (7, 4)] 7 4) ∧
      (ok = true → h.mapOk = true → h.stacksOk = true → h.testOk = true →
        boots [(1, 0), (2, 0), (3, 0), (4, 0), (5, 0)] 5 0 ∧ t.boot.xvecm = Config.fwXvecm ∧
          ∀ a, t.hbm.rd a = nth 0 capWindow a) ∧
      (ok = true →
        let d := [shake256 Config.romCode, shake256 (imageBody flash), shake256 (s.boot.repair.getD Config.factoryRepairMap), shake256 Config.fuseConfig]
        t.boot.digests = d ∧ t.boot.chain = d.foldl (fun m x => shake256 (m ++ x)) (List.replicate 64 0))) ∧
    t.boot.powered = true ∧ t.res = [] ∧ t.parked = [] ∧ t.coves = [] ∧ t.cells = [] ∧ t.accs = [] ∧ t.wire = [] ∧ t.jobs = [] ∧
    t.tasks.queues = [] ∧ t.host.qdesc = [] ∧ t.host.devnum = 0 ∧ t.host.pool = 16000 ∧ t.hostMem = s.hostMem ∧ t.shore = [] ∧
    t.boot.flash = s.boot.flash ∧ t.boot.repair = s.boot.repair

/-- R393, R395 to R397: every reset and every request over the DOE mailbox completes. A request is answered with what the part holds, another with
SPDM's ERROR; in recovery an image that verifies becomes the flash, another leaves it, and one that is longer than the flash or holds no whole
signature of 29,792 bytes does not verify (the model's choice, log entry 11); the repair map is rewritten. What the answers hold beyond the
measurements is left open (log entry 12); the codes of the answers are SPDM's, which the spec does not number (log entry 73). -/
def Obligations.AttestationRequestsAreAnswered : Prop :=
  ∀ (s : State),
    let answers := fun (i : Instr) (code : Nat) (l : List Byte) => exec i s = .next { s with boot := { s.boot with reply := some (code, l) } }
    (∀ h, ∃ t, exec (.reset h) s = .next t) ∧
    answers .getVersion 0x04 Config.spdmVersions ∧ answers .getCapabilities 0x61 Config.spdmCapabilities ∧
    answers .negotiateAlgorithms 0x63 Config.spdmAlgorithms ∧ answers .getDigests 0x01 Config.certDigest ∧
    answers (.getCertificate 0) 0x02 Config.certChain ∧
    (∀ nonce, answers (.challenge 0 nonce) 0x03 (Config.challengeAnswer 0 nonce s.boot.chain)) ∧
    (∀ k, 1 ≤ k → k ≤ 4 → answers (.getMeasurements k) 0x60 (nth [] s.boot.digests (k - 1))) ∧
    answers (.getMeasurements 5) 0x60 s.boot.chain ∧
    (∀ k nonce, k ≠ 0 → answers (.getCertificate k) 0x7F [7] ∧ answers (.challenge k nonce) 0x7F [7]) ∧
    (∀ k, k = 0 ∨ 5 < k → answers (.getMeasurements k) 0x7F [7]) ∧
    (∀ c, answers (.unsupportedRequest c) 0x7F [7]) ∧
    (∀ img, (s.host.boot ≠ 6 → answers (.imageTransfer img) 0x7F [7]) ∧
      (s.host.boot = 6 → imageVerifies img = true →
        exec (.imageTransfer img) s = .next { s with boot := { s.boot with flash := some img, reply := some (0x7E, [0]) } }) ∧
      (s.host.boot = 6 → imageVerifies img = false → answers (.imageTransfer img) 0x7E [1]) ∧
      (2 ^ 26 < img.length ∨ img.length < Config.sigAt img + 29792 → imageVerifies img = false)) ∧
    ∀ m, exec (.repairMapRewrite m) s = .next { s with boot := { s.boot with repair := some m, reply := some (0x7E, [0]) } }

/-! ### The machine as a whole -/

/-- R130, R177, R325: what a step is, in the model's own terms: a turn is taken and counted, its clocks pass, what the hardware notices in them is
counted, and the agent's instruction, decoded from the word of its slot, from the node that the cell's arbitration picks, or from the head of its
scoreboard, or the event itself, is executed. A slot that would begin is executed in its context's turn: the core's contexts take turns, one in a
clock, past those that have nothing to issue. Which agent moves next and how many clocks pass is open (log entry 1); that a context may issue several
slots in its clock, and which context is first, are the model's choices (log entry 111). -/
def Obligations.StepRunsTheInstruction : Prop :=
  ∀ (s u : State) (w : Who) (dt : Nat) (sensed : List Sensed), takeTurn s = (u, ⟨dt, w, sensed⟩) →
    (∀ t r, s.agenda = t :: r → t = ⟨dt, w, sensed⟩ ∧ u = { s with agenda := r, turns := s.turns + 1 }) ∧
    (takes u w = false → step s = .next u) ∧
    (takes u w = true →
      let v := senseAll (tick u dt) sensed
      (∀ x k b word i, w = .slot x k → (v.ctx x).blk = some b → b.body[k]? = some word → b.isExt k = false →
        decodeSlot word b.body[k + 1]? = .ok i →
        let cv := cvOfX x
        let core := v.cove cv
        let at_ := { v with focus := .slot x k }
        let begins := b.slot k = none ∧ ∃ t, exec i at_ = .next t ∧ (t.ctx x).blk ≠ some b
        (core.issueAt = some (cycleOf v cv) → (coreTurn v x = true ↔ core.lastCtx = x % 4)) ∧
        (core.issueAt ≠ some (cycleOf v cv) → (coreTurn v x = true ↔
          ∀ n, 1 ≤ n → n ≤ (x + 3 - core.lastCtx) % 4 → ctxGoes v (4 * cv + (core.lastCtx + n) % 4) = false)) ∧
        (¬begins → step s = exec i at_) ∧
        (begins → coreTurn v x = true → step s = exec i
          { v.setCove cv { core with lastCtx := x % 4, issueAt := some (cycleOf v cv) } with focus := .slot x k }) ∧
        (begins → coreTurn v x = false → step s = .next at_)) ∧
      (∀ ce v1 n i, w = .cell ce → arbitrate v ce = (v1, some (n, i)) →
        step s = exec i { v1 with focus := .node n } ∧
          ∃ rid ctx, activeOf v rid = some ctx ∧ candidate v rid ce ctx (n - 16 * ce) = some i ∧ 16 * ce ≤ n ∧ n < 16 * ce + 16) ∧
      (∀ sb c rest i, w = .cmd sb → sbCmds v sb = c :: rest → decodeCmd c.w = .ok i → step s = exec i { v with focus := .cmd sb }) ∧
      ∀ i, w = .event i → encode i = .event → step s = exec i { v with focus := .none })

/-- R106, R116, R120: words written out from the encodings of the spec decode to the instructions that they stand for. -/
def Obligations.WrittenWordsDecode : Prop :=
  decodeSlot 0x018281FF none = .ok (.add 0x82 0x81 0xFF) ∧
  decodeSlot 0x28FFFFFE none = .ok (.imm 0xFFFFFE) ∧
  decodeSlot 0x74000005 none = .ok (.eret 0x05) ∧
  decodeCmd 0x05410100000000000000000000000000 = .ok (.unbind ⟨0x41, 1, 0, 0⟩) ∧
  decodeNode 0x0100400000010FF0200FF00000000000 =
    .ok (.nodeAdd ⟨0, 4, false, false, false, false, false, false, false, 0x000, 0x010, 0xFF0, 0x200, 0xFF0, 0⟩)

/-- R383, R384, R387, R393: what reset leaves, by the spec: BOOT 0 and FAIL 0, every base, index, descriptor and status register at 0, POOL 16,000, no
event, nothing placed or parked, no command, no record of a fault, and no context that runs. -/
def Obligations.ResetLeavesTheSpecsValues : Prop :=
  let h := State.reset.host
  h.boot = 0 ∧ h.fail = 0 ∧ h.evovf = false ∧ h.devnum = 0 ∧ h.pool = 16000 ∧ h.ttbase = 0 ∧ h.frtbase = 0 ∧ h.peertab = 0 ∧ h.evbase = 0 ∧
  h.evsize = 0 ∧ h.evhead = 0 ∧ h.evtail = 0 ∧ h.raspol = 0 ∧ h.compl = 0 ∧ h.hcause = 0 ∧ h.held = [] ∧ (∀ q, Tab.get 0 h.qdesc q = 0) ∧
  isIdle State.reset = true ∧ (∀ sb, sbCmds State.reset sb = []) ∧ (∀ x, (State.reset.ctx x).st = .halted) ∧
  State.reset.recs.live = [] ∧ State.reset.accs = [] ∧ State.reset.wire = []

/-- The memories in their canonical form: two that read alike are equal, and a write keeps the form and changes the read of its address alone. What an
address that is not listed reads as is the model's choice (log entry 2). -/
def Obligations.MemoryHasOneForm : Prop :=
  (∀ m n : Memory, m.wf = true → n.wf = true → (∀ a, m.rd a = n.rd a) → m = n) ∧
  ∀ (m : Memory) (a : Nat) (v : Byte), m.wf = true → (m.wr a v).wf = true ∧ ∀ q, (m.wr a v).rd q = if q = a then v else m.rd q

/-- R106, R116, R120: for every well-formed instruction that has an encoding, the decoder reads back what the encoder writes, with every operand at
every value that the encoding admits. -/
def Obligations.DecodingReadsTheEncoding : Prop := ∀ i : Instr, i.wf = true → encode i ≠ .event → decode (encode i) = .ok i

/-- R397: every step keeps the invariant of `Machine.Inv`: canonical memories, and physical page 0 as boot wrote it, whoever writes. What page 0 reads
as before BOOT 5, also after a reset or a trip, and beyond the window's 4 KiB is the model's choice (log entries 2 and 72). -/
def Obligations.EveryStepKeepsTheInvariant : Prop := ∀ s t : State, Machine.Inv s → step s = .next t → Machine.Inv t

/-- The invariant holds right after reset. That page 0 reads then as memory which nothing has written is the model's choice (log entries 2 and 72),
not R397's. -/
def Obligations.ResetMeetsTheInvariant : Prop := Machine.Inv State.reset
end

