-- ==== Sys2Proof/Laws/Tables.lean ====
section
/-!
SUPPORT. What the operations of tables and byte memories do: reads after writes, and the canonical form of a memory.
-/
namespace Sys2Proof.Machine

/-! ### Tables -/

section Tab
variable {V : Type}

@[simp] theorem Tab.find?_nil (k : Nat) : Tab.find? ([] : Tab V) k = none := rfl

/-- A change that keeps every value changes nothing. -/
theorem Tab.modify_self (t : Tab V) (k : Nat) : Tab.modify t k (fun v => v) = t := by
  induction t with
  | nil => rfl
  | cons e t ih =>
    simp_all only [Tab.modify, List.map_cons, List.cons.injEq, and_true]
    split
    · next h => rw [← h]
    · rfl

@[simp] theorem Tab.find?_insert_same (t : Tab V) (k : Nat) (v : V) : Tab.find? (Tab.insert t k v) k = some v := by
  induction t with
  | nil => simp [Tab.insert, Tab.find?]
  | cons e t ih =>
    obtain ⟨a, b⟩ := e
    unfold Tab.insert
    split
    · simp [Tab.find?]
    · split
      · simp [Tab.find?]
      · rename_i h1 h2
        simp [Tab.find?, ih, Ne.symm h2]

theorem Tab.find?_insert_other (t : Tab V) (k q : Nat) (v : V) (h : q ≠ k) :
    Tab.find? (Tab.insert t k v) q = Tab.find? t q := by
  induction t with
  | nil => simp [Tab.insert, Tab.find?, Ne.symm h]
  | cons e t ih =>
    obtain ⟨a, b⟩ := e
    unfold Tab.insert
    split
    · simp [Tab.find?, Ne.symm h]
    · split
      · rename_i h1 h2
        subst h2
        simp [Tab.find?, Ne.symm h]
      · simp only [Tab.find?, ih]

@[simp] theorem Tab.get_insert_same (d : V) (t : Tab V) (k : Nat) (v : V) : Tab.get d (Tab.insert t k v) k = v := by
  simp [Tab.get]

theorem Tab.get_insert_other (d : V) (t : Tab V) (k q : Nat) (v : V) (h : q ≠ k) :
    Tab.get d (Tab.insert t k v) q = Tab.get d t q := by
  simp [Tab.get, Tab.find?_insert_other t k q v h]

theorem Tab.find?_erase_other (t : Tab V) (k q : Nat) (h : q ≠ k) : Tab.find? (Tab.erase t k) q = Tab.find? t q := by
  induction t with
  | nil => rfl
  | cons e t ih =>
    obtain ⟨a, b⟩ := e
    unfold Tab.erase
    split
    · rename_i h1
      subst h1
      simp [Tab.find?, Ne.symm h]
    · simp only [Tab.find?, ih]

theorem Tab.get_put_other [DecidableEq V] (d : V) (t : Tab V) (k q : Nat) (v : V) (h : q ≠ k) :
    Tab.get d (Tab.put d t k v) q = Tab.get d t q := by
  unfold Tab.put
  split
  · simp [Tab.get, Tab.find?_erase_other t k q h]
  · exact Tab.get_insert_other d t k q v h

theorem Tab.rising_tail {a : Nat × V} {t : Tab V} (h : Tab.rising (a :: t) = true) : Tab.rising t = true := by
  cases t with
  | nil => rfl
  | cons b t => simp [Tab.rising] at h; exact h.2

theorem Tab.find?_below {a : Nat × V} {t : Tab V} (h : Tab.rising (a :: t) = true) {q : Nat} (hq : q ≤ a.1) :
    Tab.find? t q = none := by
  induction t generalizing a with
  | nil => rfl
  | cons b t ih =>
    simp only [Tab.rising, Bool.and_eq_true, decide_eq_true_eq] at h
    have hne : b.1 ≠ q := by omega
    have := ih h.2 (by omega : q ≤ b.1)
    simp [Tab.find?, hne, this]

theorem Tab.find?_erase_same (t : Tab V) (k : Nat) (h : Tab.rising t = true) : Tab.find? (Tab.erase t k) k = none := by
  induction t with
  | nil => rfl
  | cons e t ih =>
    unfold Tab.erase
    split
    · rename_i h1
      exact Tab.find?_below h (by omega)
    · rename_i h1
      simp [Tab.find?, h1, ih (Tab.rising_tail h)]

/-- A table whose keys rise reads back what `put` wrote. -/
theorem Tab.get_put_same [DecidableEq V] (d : V) (t : Tab V) (k : Nat) (v : V) (h : Tab.rising t = true) :
    Tab.get d (Tab.put d t k v) k = v := by
  unfold Tab.put
  split
  · rename_i hv
    simp [Tab.get, Tab.find?_erase_same t k h, hv]
  · exact Tab.get_insert_same d t k v

end Tab

/-! ### Byte memories -/

theorem Memory.wfFrom_le {lo hi : Nat} {m : Memory} (h : Memory.wfFrom hi m = true) (hl : lo ≤ hi) :
    Memory.wfFrom lo m = true := by
  cases m with
  | nil => rfl
  | cons e t =>
    obtain ⟨a, b⟩ := e
    simp only [Memory.wfFrom, Bool.and_eq_true, decide_eq_true_eq] at h ⊢
    exact ⟨⟨by omega, h.1.2⟩, h.2⟩

theorem Memory.wfFrom_wr {lo : Nat} {m : Memory} (h : Memory.wfFrom lo m = true) (q : Nat) (v : Byte) (hq : lo ≤ q) :
    Memory.wfFrom lo (Memory.wr m q v) = true := by
  induction m generalizing lo with
  | nil =>
    unfold Memory.wr
    split
    · rfl
    · rename_i hv
      simp [Memory.wfFrom, hq, hv]
  | cons e t ih =>
    obtain ⟨a, b⟩ := e
    have h' := h
    simp only [Memory.wfFrom, Bool.and_eq_true, decide_eq_true_eq, bne_iff_ne, ne_eq] at h
    unfold Memory.wr
    split
    · split
      · exact h'
      · rename_i h1 hv
        simp only [Memory.wfFrom, Bool.and_eq_true, decide_eq_true_eq, bne_iff_ne, ne_eq]
        exact ⟨⟨hq, hv⟩, ⟨by omega, h.1.2⟩, h.2⟩
    · split
      · rename_i h1 h2
        split
        · exact Memory.wfFrom_le h.2 (by omega)
        · rename_i hv
          subst h2
          simp only [Memory.wfFrom, Bool.and_eq_true, decide_eq_true_eq, bne_iff_ne, ne_eq]
          exact ⟨⟨hq, hv⟩, h.2⟩
      · simp only [Memory.wfFrom, Bool.and_eq_true, decide_eq_true_eq, bne_iff_ne, ne_eq]
        exact ⟨h.1, ih h.2 (by omega)⟩

/-- A write keeps the canonical form. -/
@[simp] theorem Memory.wf_wr {m : Memory} (h : m.wf = true) (q : Nat) (v : Byte) : (m.wr q v).wf = true :=
  Memory.wfFrom_wr h q v (Nat.zero_le q)

theorem Memory.rd_below {lo : Nat} {m : Memory} (h : Memory.wfFrom lo m = true) {q : Nat} (hq : q < lo) :
    Memory.rd m q = Memory.unlisted := by
  cases m with
  | nil => rfl
  | cons e t =>
    obtain ⟨a, b⟩ := e
    simp only [Memory.wfFrom, Bool.and_eq_true, decide_eq_true_eq] at h
    unfold Memory.rd
    rw [if_neg (by omega), if_pos (by omega)]

theorem Memory.rd_wrFrom {lo : Nat} {m : Memory} (h : Memory.wfFrom lo m = true) (q p : Nat) (v : Byte) :
    Memory.rd (Memory.wr m q v) p = if p = q then v else Memory.rd m p := by
  induction m generalizing lo with
  | nil =>
    unfold Memory.wr
    split
    · rename_i hv; simp [Memory.rd, hv]
    · by_cases hp : p = q
      · simp [Memory.rd, hp]
      · simp [Memory.rd, hp, Ne.symm hp]
  | cons e t ih =>
    obtain ⟨a, b⟩ := e
    have h' := h
    simp only [Memory.wfFrom, Bool.and_eq_true, decide_eq_true_eq, bne_iff_ne, ne_eq] at h
    unfold Memory.wr
    split
    · rename_i h1
      split
      · rename_i hv
        by_cases hp : p = q
        · subst hp; simp [Memory.rd, hv, h1, Nat.ne_of_gt h1]
        · simp [hp]
      · by_cases hp : p = q
        · subst hp; simp [Memory.rd]
        · simp only [Memory.rd, if_neg (Ne.symm hp), if_neg hp]
          split
          · rw [if_neg (by omega), if_pos (by omega)]
          · rfl
    · split
      · rename_i h1 h2
        subst h2
        have hb : ∀ p, p < a + 1 → Memory.rd t p = Memory.unlisted := fun p hp => Memory.rd_below h.2 hp
        split
        · rename_i hv
          by_cases hp : p = a
          · subst hp; simp [hb p (by omega), hv]
          · simp only [Memory.rd, if_neg (Ne.symm hp), if_neg hp]
            split
            · exact hb p (by omega)
            · rfl
        · by_cases hp : p = a
          · subst hp; simp [Memory.rd]
          · simp [Memory.rd, hp, Ne.symm hp]
      · rename_i h1 h2
        simp only [Memory.rd, ih h.2]
        by_cases hp : p = q
        · subst hp
          rw [if_neg h2, if_neg h1, if_pos rfl, if_pos rfl]
        · rw [if_neg hp, if_neg hp]

/-- A read of the byte written gives it, and of any other what it gave before. -/
theorem Memory.rd_wr {m : Memory} (h : m.wf = true) (q p : Nat) (v : Byte) :
    (m.wr q v).rd p = if p = q then v else m.rd p := Memory.rd_wrFrom h q p v

@[simp] theorem Memory.rd_wr_same {m : Memory} (h : m.wf = true) (q : Nat) (v : Byte) : (m.wr q v).rd q = v := by
  rw [Memory.rd_wr h, if_pos rfl]

theorem Memory.rd_wr_other {m : Memory} (h : m.wf = true) {q p : Nat} (v : Byte) (hp : p ≠ q) :
    (m.wr q v).rd p = m.rd p := by
  rw [Memory.rd_wr h, if_neg hp]

/-- Writing a run of bytes keeps the canonical form. -/
@[simp] theorem Memory.wf_wrN {m : Memory} (h : m.wf = true) (a : Nat) (l : List Byte) : (m.wrN a l).wf = true := by
  induction l generalizing m a with
  | nil => exact h
  | cons b t ih => exact ih (Memory.wf_wr h a b) (a + 1)

/-- A byte outside a run that is written reads as before. -/
theorem Memory.rd_wrN_other {m : Memory} (h : m.wf = true) (a : Nat) (l : List Byte) (p : Nat)
    (hp : p < a ∨ a + l.length ≤ p) : (m.wrN a l).rd p = m.rd p := by
  induction l generalizing m a with
  | nil => rfl
  | cons b t ih =>
    simp only [List.length_cons] at hp
    rw [Memory.wrN, ih (Memory.wf_wr h a b) (a + 1) (by omega), Memory.rd_wr_other h b (by omega)]

/-- A run that is written reads back. -/
theorem Memory.rdN_wrN {m : Memory} (h : m.wf = true) (a : Nat) (l : List Byte) : (m.wrN a l).rdN a l.length = l := by
  induction l generalizing m a with
  | nil => rfl
  | cons b t ih =>
    have hb : ((m.wr a b).wrN (a + 1) t).rd a = b := by
      rw [Memory.rd_wrN_other (Memory.wf_wr h a b) (a + 1) t a (by omega), Memory.rd_wr_same h]
    simp only [Memory.wrN, List.length_cons, Memory.rdN, hb, ih (Memory.wf_wr h a b) (a + 1)]

end Sys2Proof.Machine
end

