-- ==== Sys2Proof/Laws/State.lean ====
section
/-!
SUPPORT. What each update of the state leaves alone, one lemma per field, and what it writes reads back.
-/
namespace Sys2Proof.Machine

variable (s : State)

/-! ### State.setCove -/

@[simp] theorem State.setCove_clock (cv : Nat) (c : Cove) : (s.setCove cv c).clock = s.clock := rfl
@[simp] theorem State.setCove_agenda (cv : Nat) (c : Cove) : (s.setCove cv c).agenda = s.agenda := rfl
@[simp] theorem State.setCove_focus (cv : Nat) (c : Cove) : (s.setCove cv c).focus = s.focus := rfl
@[simp] theorem State.setCove_turns (cv : Nat) (c : Cove) : (s.setCove cv c).turns = s.turns := rfl
@[simp] theorem State.setCove_free (cv : Nat) (c : Cove) : (s.setCove cv c).free = s.free := rfl
@[simp] theorem State.setCove_host (cv : Nat) (c : Cove) : (s.setCove cv c).host = s.host := rfl
@[simp] theorem State.setCove_boot (cv : Nat) (c : Cove) : (s.setCove cv c).boot = s.boot := rfl
@[simp] theorem State.setCove_tasks (cv : Nat) (c : Cove) : (s.setCove cv c).tasks = s.tasks := rfl
@[simp] theorem State.setCove_res (cv : Nat) (c : Cove) : (s.setCove cv c).res = s.res := rfl
@[simp] theorem State.setCove_parked (cv : Nat) (c : Cove) : (s.setCove cv c).parked = s.parked := rfl
@[simp] theorem State.setCove_cells (cv : Nat) (c : Cove) : (s.setCove cv c).cells = s.cells := rfl
@[simp] theorem State.setCove_sbs (cv : Nat) (c : Cove) : (s.setCove cv c).sbs = s.sbs := rfl
@[simp] theorem State.setCove_sbFz (cv : Nat) (c : Cove) : (s.setCove cv c).sbFz = s.sbFz := rfl
@[simp] theorem State.setCove_hbm (cv : Nat) (c : Cove) : (s.setCove cv c).hbm = s.hbm := rfl
@[simp] theorem State.setCove_hostMem (cv : Nat) (c : Cove) : (s.setCove cv c).hostMem = s.hostMem := rfl
@[simp] theorem State.setCove_shore (cv : Nat) (c : Cove) : (s.setCove cv c).shore = s.shore := rfl
@[simp] theorem State.setCove_poison (cv : Nat) (c : Cove) : (s.setCove cv c).poison = s.poison := rfl
@[simp] theorem State.setCove_accs (cv : Nat) (c : Cove) : (s.setCove cv c).accs = s.accs := rfl
@[simp] theorem State.setCove_nextId (cv : Nat) (c : Cove) : (s.setCove cv c).nextId = s.nextId := rfl
@[simp] theorem State.setCove_nextWave (cv : Nat) (c : Cove) : (s.setCove cv c).nextWave = s.nextWave := rfl
@[simp] theorem State.setCove_wire (cv : Nat) (c : Cove) : (s.setCove cv c).wire = s.wire := rfl
@[simp] theorem State.setCove_credits (cv : Nat) (c : Cove) : (s.setCove cv c).credits = s.credits := rfl
@[simp] theorem State.setCove_tlb (cv : Nat) (c : Cove) : (s.setCove cv c).tlb = s.tlb := rfl
@[simp] theorem State.setCove_walks (cv : Nat) (c : Cove) : (s.setCove cv c).walks = s.walks := rfl
@[simp] theorem State.setCove_recs (cv : Nat) (c : Cove) : (s.setCove cv c).recs = s.recs := rfl
@[simp] theorem State.setCove_fatals (cv : Nat) (c : Cove) : (s.setCove cv c).fatals = s.fatals := rfl
@[simp] theorem State.setCove_fences (cv : Nat) (c : Cove) : (s.setCove cv c).fences = s.fences := rfl
@[simp] theorem State.setCove_told (cv : Nat) (c : Cove) : (s.setCove cv c).told = s.told := rfl
@[simp] theorem State.setCove_logs (cv : Nat) (c : Cove) : (s.setCove cv c).logs = s.logs := rfl
@[simp] theorem State.setCove_jobs (cv : Nat) (c : Cove) : (s.setCove cv c).jobs = s.jobs := rfl
@[simp] theorem State.setCove_nextJob (cv : Nat) (c : Cove) : (s.setCove cv c).nextJob = s.nextJob := rfl
@[simp] theorem State.setCove_earb (cv : Nat) (c : Cove) : (s.setCove cv c).earb = s.earb := rfl
@[simp] theorem State.setCove_umx (cv : Nat) (c : Cove) : (s.setCove cv c).umx = s.umx := rfl
@[simp] theorem State.setCove_arrs (cv : Nat) (c : Cove) : (s.setCove cv c).arrs = s.arrs := rfl
@[simp] theorem State.setCove_grpMsgs (cv : Nat) (c : Cove) : (s.setCove cv c).grpMsgs = s.grpMsgs := rfl
@[simp] theorem State.setCove_peersDown (cv : Nat) (c : Cove) : (s.setCove cv c).peersDown = s.peersDown := rfl
@[simp] theorem State.setCove_ras (cv : Nat) (c : Cove) : (s.setCove cv c).ras = s.ras := rfl
@[simp] theorem State.setCove_power (cv : Nat) (c : Cove) : (s.setCove cv c).power = s.power := rfl
@[simp] theorem State.setCove_ckpt (cv : Nat) (c : Cove) : (s.setCove cv c).ckpt = s.ckpt := rfl
@[simp] theorem State.setCove_ckptQ (cv : Nat) (c : Cove) : (s.setCove cv c).ckptQ = s.ckptQ := rfl

/-! ### State.setCtx -/

@[simp] theorem State.setCtx_clock (x : Nat) (c : Ctx) : (s.setCtx x c).clock = s.clock := rfl
@[simp] theorem State.setCtx_agenda (x : Nat) (c : Ctx) : (s.setCtx x c).agenda = s.agenda := rfl
@[simp] theorem State.setCtx_focus (x : Nat) (c : Ctx) : (s.setCtx x c).focus = s.focus := rfl
@[simp] theorem State.setCtx_turns (x : Nat) (c : Ctx) : (s.setCtx x c).turns = s.turns := rfl
@[simp] theorem State.setCtx_free (x : Nat) (c : Ctx) : (s.setCtx x c).free = s.free := rfl
@[simp] theorem State.setCtx_host (x : Nat) (c : Ctx) : (s.setCtx x c).host = s.host := rfl
@[simp] theorem State.setCtx_boot (x : Nat) (c : Ctx) : (s.setCtx x c).boot = s.boot := rfl
@[simp] theorem State.setCtx_tasks (x : Nat) (c : Ctx) : (s.setCtx x c).tasks = s.tasks := rfl
@[simp] theorem State.setCtx_res (x : Nat) (c : Ctx) : (s.setCtx x c).res = s.res := rfl
@[simp] theorem State.setCtx_parked (x : Nat) (c : Ctx) : (s.setCtx x c).parked = s.parked := rfl
@[simp] theorem State.setCtx_cells (x : Nat) (c : Ctx) : (s.setCtx x c).cells = s.cells := rfl
@[simp] theorem State.setCtx_sbs (x : Nat) (c : Ctx) : (s.setCtx x c).sbs = s.sbs := rfl
@[simp] theorem State.setCtx_sbFz (x : Nat) (c : Ctx) : (s.setCtx x c).sbFz = s.sbFz := rfl
@[simp] theorem State.setCtx_hbm (x : Nat) (c : Ctx) : (s.setCtx x c).hbm = s.hbm := rfl
@[simp] theorem State.setCtx_hostMem (x : Nat) (c : Ctx) : (s.setCtx x c).hostMem = s.hostMem := rfl
@[simp] theorem State.setCtx_shore (x : Nat) (c : Ctx) : (s.setCtx x c).shore = s.shore := rfl
@[simp] theorem State.setCtx_poison (x : Nat) (c : Ctx) : (s.setCtx x c).poison = s.poison := rfl
@[simp] theorem State.setCtx_accs (x : Nat) (c : Ctx) : (s.setCtx x c).accs = s.accs := rfl
@[simp] theorem State.setCtx_nextId (x : Nat) (c : Ctx) : (s.setCtx x c).nextId = s.nextId := rfl
@[simp] theorem State.setCtx_nextWave (x : Nat) (c : Ctx) : (s.setCtx x c).nextWave = s.nextWave := rfl
@[simp] theorem State.setCtx_wire (x : Nat) (c : Ctx) : (s.setCtx x c).wire = s.wire := rfl
@[simp] theorem State.setCtx_credits (x : Nat) (c : Ctx) : (s.setCtx x c).credits = s.credits := rfl
@[simp] theorem State.setCtx_tlb (x : Nat) (c : Ctx) : (s.setCtx x c).tlb = s.tlb := rfl
@[simp] theorem State.setCtx_walks (x : Nat) (c : Ctx) : (s.setCtx x c).walks = s.walks := rfl
@[simp] theorem State.setCtx_recs (x : Nat) (c : Ctx) : (s.setCtx x c).recs = s.recs := rfl
@[simp] theorem State.setCtx_fatals (x : Nat) (c : Ctx) : (s.setCtx x c).fatals = s.fatals := rfl
@[simp] theorem State.setCtx_fences (x : Nat) (c : Ctx) : (s.setCtx x c).fences = s.fences := rfl
@[simp] theorem State.setCtx_told (x : Nat) (c : Ctx) : (s.setCtx x c).told = s.told := rfl
@[simp] theorem State.setCtx_logs (x : Nat) (c : Ctx) : (s.setCtx x c).logs = s.logs := rfl
@[simp] theorem State.setCtx_jobs (x : Nat) (c : Ctx) : (s.setCtx x c).jobs = s.jobs := rfl
@[simp] theorem State.setCtx_nextJob (x : Nat) (c : Ctx) : (s.setCtx x c).nextJob = s.nextJob := rfl
@[simp] theorem State.setCtx_earb (x : Nat) (c : Ctx) : (s.setCtx x c).earb = s.earb := rfl
@[simp] theorem State.setCtx_umx (x : Nat) (c : Ctx) : (s.setCtx x c).umx = s.umx := rfl
@[simp] theorem State.setCtx_arrs (x : Nat) (c : Ctx) : (s.setCtx x c).arrs = s.arrs := rfl
@[simp] theorem State.setCtx_grpMsgs (x : Nat) (c : Ctx) : (s.setCtx x c).grpMsgs = s.grpMsgs := rfl
@[simp] theorem State.setCtx_peersDown (x : Nat) (c : Ctx) : (s.setCtx x c).peersDown = s.peersDown := rfl
@[simp] theorem State.setCtx_ras (x : Nat) (c : Ctx) : (s.setCtx x c).ras = s.ras := rfl
@[simp] theorem State.setCtx_power (x : Nat) (c : Ctx) : (s.setCtx x c).power = s.power := rfl
@[simp] theorem State.setCtx_ckpt (x : Nat) (c : Ctx) : (s.setCtx x c).ckpt = s.ckpt := rfl
@[simp] theorem State.setCtx_ckptQ (x : Nat) (c : Ctx) : (s.setCtx x c).ckptQ = s.ckptQ := rfl

/-! ### State.setCell -/

@[simp] theorem State.setCell_clock (ce : Nat) (c : Cell) : (s.setCell ce c).clock = s.clock := rfl
@[simp] theorem State.setCell_agenda (ce : Nat) (c : Cell) : (s.setCell ce c).agenda = s.agenda := rfl
@[simp] theorem State.setCell_focus (ce : Nat) (c : Cell) : (s.setCell ce c).focus = s.focus := rfl
@[simp] theorem State.setCell_turns (ce : Nat) (c : Cell) : (s.setCell ce c).turns = s.turns := rfl
@[simp] theorem State.setCell_free (ce : Nat) (c : Cell) : (s.setCell ce c).free = s.free := rfl
@[simp] theorem State.setCell_host (ce : Nat) (c : Cell) : (s.setCell ce c).host = s.host := rfl
@[simp] theorem State.setCell_boot (ce : Nat) (c : Cell) : (s.setCell ce c).boot = s.boot := rfl
@[simp] theorem State.setCell_tasks (ce : Nat) (c : Cell) : (s.setCell ce c).tasks = s.tasks := rfl
@[simp] theorem State.setCell_res (ce : Nat) (c : Cell) : (s.setCell ce c).res = s.res := rfl
@[simp] theorem State.setCell_parked (ce : Nat) (c : Cell) : (s.setCell ce c).parked = s.parked := rfl
@[simp] theorem State.setCell_coves (ce : Nat) (c : Cell) : (s.setCell ce c).coves = s.coves := rfl
@[simp] theorem State.setCell_sbs (ce : Nat) (c : Cell) : (s.setCell ce c).sbs = s.sbs := rfl
@[simp] theorem State.setCell_sbFz (ce : Nat) (c : Cell) : (s.setCell ce c).sbFz = s.sbFz := rfl
@[simp] theorem State.setCell_hbm (ce : Nat) (c : Cell) : (s.setCell ce c).hbm = s.hbm := rfl
@[simp] theorem State.setCell_hostMem (ce : Nat) (c : Cell) : (s.setCell ce c).hostMem = s.hostMem := rfl
@[simp] theorem State.setCell_shore (ce : Nat) (c : Cell) : (s.setCell ce c).shore = s.shore := rfl
@[simp] theorem State.setCell_poison (ce : Nat) (c : Cell) : (s.setCell ce c).poison = s.poison := rfl
@[simp] theorem State.setCell_accs (ce : Nat) (c : Cell) : (s.setCell ce c).accs = s.accs := rfl
@[simp] theorem State.setCell_nextId (ce : Nat) (c : Cell) : (s.setCell ce c).nextId = s.nextId := rfl
@[simp] theorem State.setCell_nextWave (ce : Nat) (c : Cell) : (s.setCell ce c).nextWave = s.nextWave := rfl
@[simp] theorem State.setCell_wire (ce : Nat) (c : Cell) : (s.setCell ce c).wire = s.wire := rfl
@[simp] theorem State.setCell_credits (ce : Nat) (c : Cell) : (s.setCell ce c).credits = s.credits := rfl
@[simp] theorem State.setCell_tlb (ce : Nat) (c : Cell) : (s.setCell ce c).tlb = s.tlb := rfl
@[simp] theorem State.setCell_walks (ce : Nat) (c : Cell) : (s.setCell ce c).walks = s.walks := rfl
@[simp] theorem State.setCell_recs (ce : Nat) (c : Cell) : (s.setCell ce c).recs = s.recs := rfl
@[simp] theorem State.setCell_fatals (ce : Nat) (c : Cell) : (s.setCell ce c).fatals = s.fatals := rfl
@[simp] theorem State.setCell_fences (ce : Nat) (c : Cell) : (s.setCell ce c).fences = s.fences := rfl
@[simp] theorem State.setCell_told (ce : Nat) (c : Cell) : (s.setCell ce c).told = s.told := rfl
@[simp] theorem State.setCell_logs (ce : Nat) (c : Cell) : (s.setCell ce c).logs = s.logs := rfl
@[simp] theorem State.setCell_jobs (ce : Nat) (c : Cell) : (s.setCell ce c).jobs = s.jobs := rfl
@[simp] theorem State.setCell_nextJob (ce : Nat) (c : Cell) : (s.setCell ce c).nextJob = s.nextJob := rfl
@[simp] theorem State.setCell_earb (ce : Nat) (c : Cell) : (s.setCell ce c).earb = s.earb := rfl
@[simp] theorem State.setCell_umx (ce : Nat) (c : Cell) : (s.setCell ce c).umx = s.umx := rfl
@[simp] theorem State.setCell_arrs (ce : Nat) (c : Cell) : (s.setCell ce c).arrs = s.arrs := rfl
@[simp] theorem State.setCell_grpMsgs (ce : Nat) (c : Cell) : (s.setCell ce c).grpMsgs = s.grpMsgs := rfl
@[simp] theorem State.setCell_peersDown (ce : Nat) (c : Cell) : (s.setCell ce c).peersDown = s.peersDown := rfl
@[simp] theorem State.setCell_ras (ce : Nat) (c : Cell) : (s.setCell ce c).ras = s.ras := rfl
@[simp] theorem State.setCell_power (ce : Nat) (c : Cell) : (s.setCell ce c).power = s.power := rfl
@[simp] theorem State.setCell_ckpt (ce : Nat) (c : Cell) : (s.setCell ce c).ckpt = s.ckpt := rfl
@[simp] theorem State.setCell_ckptQ (ce : Nat) (c : Cell) : (s.setCell ce c).ckptQ = s.ckptQ := rfl

/-! ### State.setPort -/

@[simp] theorem State.setPort_clock (cv p : Nat) (q : Port) : (s.setPort cv p q).clock = s.clock := rfl
@[simp] theorem State.setPort_agenda (cv p : Nat) (q : Port) : (s.setPort cv p q).agenda = s.agenda := rfl
@[simp] theorem State.setPort_focus (cv p : Nat) (q : Port) : (s.setPort cv p q).focus = s.focus := rfl
@[simp] theorem State.setPort_turns (cv p : Nat) (q : Port) : (s.setPort cv p q).turns = s.turns := rfl
@[simp] theorem State.setPort_free (cv p : Nat) (q : Port) : (s.setPort cv p q).free = s.free := rfl
@[simp] theorem State.setPort_host (cv p : Nat) (q : Port) : (s.setPort cv p q).host = s.host := rfl
@[simp] theorem State.setPort_boot (cv p : Nat) (q : Port) : (s.setPort cv p q).boot = s.boot := rfl
@[simp] theorem State.setPort_tasks (cv p : Nat) (q : Port) : (s.setPort cv p q).tasks = s.tasks := rfl
@[simp] theorem State.setPort_res (cv p : Nat) (q : Port) : (s.setPort cv p q).res = s.res := rfl
@[simp] theorem State.setPort_parked (cv p : Nat) (q : Port) : (s.setPort cv p q).parked = s.parked := rfl
@[simp] theorem State.setPort_cells (cv p : Nat) (q : Port) : (s.setPort cv p q).cells = s.cells := rfl
@[simp] theorem State.setPort_sbs (cv p : Nat) (q : Port) : (s.setPort cv p q).sbs = s.sbs := rfl
@[simp] theorem State.setPort_sbFz (cv p : Nat) (q : Port) : (s.setPort cv p q).sbFz = s.sbFz := rfl
@[simp] theorem State.setPort_hbm (cv p : Nat) (q : Port) : (s.setPort cv p q).hbm = s.hbm := rfl
@[simp] theorem State.setPort_hostMem (cv p : Nat) (q : Port) : (s.setPort cv p q).hostMem = s.hostMem := rfl
@[simp] theorem State.setPort_shore (cv p : Nat) (q : Port) : (s.setPort cv p q).shore = s.shore := rfl
@[simp] theorem State.setPort_poison (cv p : Nat) (q : Port) : (s.setPort cv p q).poison = s.poison := rfl
@[simp] theorem State.setPort_accs (cv p : Nat) (q : Port) : (s.setPort cv p q).accs = s.accs := rfl
@[simp] theorem State.setPort_nextId (cv p : Nat) (q : Port) : (s.setPort cv p q).nextId = s.nextId := rfl
@[simp] theorem State.setPort_nextWave (cv p : Nat) (q : Port) : (s.setPort cv p q).nextWave = s.nextWave := rfl
@[simp] theorem State.setPort_wire (cv p : Nat) (q : Port) : (s.setPort cv p q).wire = s.wire := rfl
@[simp] theorem State.setPort_credits (cv p : Nat) (q : Port) : (s.setPort cv p q).credits = s.credits := rfl
@[simp] theorem State.setPort_tlb (cv p : Nat) (q : Port) : (s.setPort cv p q).tlb = s.tlb := rfl
@[simp] theorem State.setPort_walks (cv p : Nat) (q : Port) : (s.setPort cv p q).walks = s.walks := rfl
@[simp] theorem State.setPort_recs (cv p : Nat) (q : Port) : (s.setPort cv p q).recs = s.recs := rfl
@[simp] theorem State.setPort_fatals (cv p : Nat) (q : Port) : (s.setPort cv p q).fatals = s.fatals := rfl
@[simp] theorem State.setPort_fences (cv p : Nat) (q : Port) : (s.setPort cv p q).fences = s.fences := rfl
@[simp] theorem State.setPort_told (cv p : Nat) (q : Port) : (s.setPort cv p q).told = s.told := rfl
@[simp] theorem State.setPort_logs (cv p : Nat) (q : Port) : (s.setPort cv p q).logs = s.logs := rfl
@[simp] theorem State.setPort_jobs (cv p : Nat) (q : Port) : (s.setPort cv p q).jobs = s.jobs := rfl
@[simp] theorem State.setPort_nextJob (cv p : Nat) (q : Port) : (s.setPort cv p q).nextJob = s.nextJob := rfl
@[simp] theorem State.setPort_earb (cv p : Nat) (q : Port) : (s.setPort cv p q).earb = s.earb := rfl
@[simp] theorem State.setPort_umx (cv p : Nat) (q : Port) : (s.setPort cv p q).umx = s.umx := rfl
@[simp] theorem State.setPort_arrs (cv p : Nat) (q : Port) : (s.setPort cv p q).arrs = s.arrs := rfl
@[simp] theorem State.setPort_grpMsgs (cv p : Nat) (q : Port) : (s.setPort cv p q).grpMsgs = s.grpMsgs := rfl
@[simp] theorem State.setPort_peersDown (cv p : Nat) (q : Port) : (s.setPort cv p q).peersDown = s.peersDown := rfl
@[simp] theorem State.setPort_ras (cv p : Nat) (q : Port) : (s.setPort cv p q).ras = s.ras := rfl
@[simp] theorem State.setPort_power (cv p : Nat) (q : Port) : (s.setPort cv p q).power = s.power := rfl
@[simp] theorem State.setPort_ckpt (cv p : Nat) (q : Port) : (s.setPort cv p q).ckpt = s.ckpt := rfl
@[simp] theorem State.setPort_ckptQ (cv p : Nat) (q : Port) : (s.setPort cv p q).ckptQ = s.ckptQ := rfl

/-! ### State.setCq -/

@[simp] theorem State.setCq_clock (cv q : Nat) (c : CopyQ) : (s.setCq cv q c).clock = s.clock := rfl
@[simp] theorem State.setCq_agenda (cv q : Nat) (c : CopyQ) : (s.setCq cv q c).agenda = s.agenda := rfl
@[simp] theorem State.setCq_focus (cv q : Nat) (c : CopyQ) : (s.setCq cv q c).focus = s.focus := rfl
@[simp] theorem State.setCq_turns (cv q : Nat) (c : CopyQ) : (s.setCq cv q c).turns = s.turns := rfl
@[simp] theorem State.setCq_free (cv q : Nat) (c : CopyQ) : (s.setCq cv q c).free = s.free := rfl
@[simp] theorem State.setCq_host (cv q : Nat) (c : CopyQ) : (s.setCq cv q c).host = s.host := rfl
@[simp] theorem State.setCq_boot (cv q : Nat) (c : CopyQ) : (s.setCq cv q c).boot = s.boot := rfl
@[simp] theorem State.setCq_tasks (cv q : Nat) (c : CopyQ) : (s.setCq cv q c).tasks = s.tasks := rfl
@[simp] theorem State.setCq_res (cv q : Nat) (c : CopyQ) : (s.setCq cv q c).res = s.res := rfl
@[simp] theorem State.setCq_parked (cv q : Nat) (c : CopyQ) : (s.setCq cv q c).parked = s.parked := rfl
@[simp] theorem State.setCq_cells (cv q : Nat) (c : CopyQ) : (s.setCq cv q c).cells = s.cells := rfl
@[simp] theorem State.setCq_sbs (cv q : Nat) (c : CopyQ) : (s.setCq cv q c).sbs = s.sbs := rfl
@[simp] theorem State.setCq_sbFz (cv q : Nat) (c : CopyQ) : (s.setCq cv q c).sbFz = s.sbFz := rfl
@[simp] theorem State.setCq_hbm (cv q : Nat) (c : CopyQ) : (s.setCq cv q c).hbm = s.hbm := rfl
@[simp] theorem State.setCq_hostMem (cv q : Nat) (c : CopyQ) : (s.setCq cv q c).hostMem = s.hostMem := rfl
@[simp] theorem State.setCq_shore (cv q : Nat) (c : CopyQ) : (s.setCq cv q c).shore = s.shore := rfl
@[simp] theorem State.setCq_poison (cv q : Nat) (c : CopyQ) : (s.setCq cv q c).poison = s.poison := rfl
@[simp] theorem State.setCq_accs (cv q : Nat) (c : CopyQ) : (s.setCq cv q c).accs = s.accs := rfl
@[simp] theorem State.setCq_nextId (cv q : Nat) (c : CopyQ) : (s.setCq cv q c).nextId = s.nextId := rfl
@[simp] theorem State.setCq_nextWave (cv q : Nat) (c : CopyQ) : (s.setCq cv q c).nextWave = s.nextWave := rfl
@[simp] theorem State.setCq_wire (cv q : Nat) (c : CopyQ) : (s.setCq cv q c).wire = s.wire := rfl
@[simp] theorem State.setCq_credits (cv q : Nat) (c : CopyQ) : (s.setCq cv q c).credits = s.credits := rfl
@[simp] theorem State.setCq_tlb (cv q : Nat) (c : CopyQ) : (s.setCq cv q c).tlb = s.tlb := rfl
@[simp] theorem State.setCq_walks (cv q : Nat) (c : CopyQ) : (s.setCq cv q c).walks = s.walks := rfl
@[simp] theorem State.setCq_recs (cv q : Nat) (c : CopyQ) : (s.setCq cv q c).recs = s.recs := rfl
@[simp] theorem State.setCq_fatals (cv q : Nat) (c : CopyQ) : (s.setCq cv q c).fatals = s.fatals := rfl
@[simp] theorem State.setCq_fences (cv q : Nat) (c : CopyQ) : (s.setCq cv q c).fences = s.fences := rfl
@[simp] theorem State.setCq_told (cv q : Nat) (c : CopyQ) : (s.setCq cv q c).told = s.told := rfl
@[simp] theorem State.setCq_logs (cv q : Nat) (c : CopyQ) : (s.setCq cv q c).logs = s.logs := rfl
@[simp] theorem State.setCq_jobs (cv q : Nat) (c : CopyQ) : (s.setCq cv q c).jobs = s.jobs := rfl
@[simp] theorem State.setCq_nextJob (cv q : Nat) (c : CopyQ) : (s.setCq cv q c).nextJob = s.nextJob := rfl
@[simp] theorem State.setCq_earb (cv q : Nat) (c : CopyQ) : (s.setCq cv q c).earb = s.earb := rfl
@[simp] theorem State.setCq_umx (cv q : Nat) (c : CopyQ) : (s.setCq cv q c).umx = s.umx := rfl
@[simp] theorem State.setCq_arrs (cv q : Nat) (c : CopyQ) : (s.setCq cv q c).arrs = s.arrs := rfl
@[simp] theorem State.setCq_grpMsgs (cv q : Nat) (c : CopyQ) : (s.setCq cv q c).grpMsgs = s.grpMsgs := rfl
@[simp] theorem State.setCq_peersDown (cv q : Nat) (c : CopyQ) : (s.setCq cv q c).peersDown = s.peersDown := rfl
@[simp] theorem State.setCq_ras (cv q : Nat) (c : CopyQ) : (s.setCq cv q c).ras = s.ras := rfl
@[simp] theorem State.setCq_power (cv q : Nat) (c : CopyQ) : (s.setCq cv q c).power = s.power := rfl
@[simp] theorem State.setCq_ckpt (cv q : Nat) (c : CopyQ) : (s.setCq cv q c).ckpt = s.ckpt := rfl
@[simp] theorem State.setCq_ckptQ (cv q : Nat) (c : CopyQ) : (s.setCq cv q c).ckptQ = s.ckptQ := rfl

/-! ### State.setBar -/

@[simp] theorem State.setBar_clock (cv b : Nat) (v : BitVec 32) : (s.setBar cv b v).clock = s.clock := rfl
@[simp] theorem State.setBar_agenda (cv b : Nat) (v : BitVec 32) : (s.setBar cv b v).agenda = s.agenda := rfl
@[simp] theorem State.setBar_focus (cv b : Nat) (v : BitVec 32) : (s.setBar cv b v).focus = s.focus := rfl
@[simp] theorem State.setBar_turns (cv b : Nat) (v : BitVec 32) : (s.setBar cv b v).turns = s.turns := rfl
@[simp] theorem State.setBar_free (cv b : Nat) (v : BitVec 32) : (s.setBar cv b v).free = s.free := rfl
@[simp] theorem State.setBar_host (cv b : Nat) (v : BitVec 32) : (s.setBar cv b v).host = s.host := rfl
@[simp] theorem State.setBar_boot (cv b : Nat) (v : BitVec 32) : (s.setBar cv b v).boot = s.boot := rfl
@[simp] theorem State.setBar_tasks (cv b : Nat) (v : BitVec 32) : (s.setBar cv b v).tasks = s.tasks := rfl
@[simp] theorem State.setBar_res (cv b : Nat) (v : BitVec 32) : (s.setBar cv b v).res = s.res := rfl
@[simp] theorem State.setBar_parked (cv b : Nat) (v : BitVec 32) : (s.setBar cv b v).parked = s.parked := rfl
@[simp] theorem State.setBar_cells (cv b : Nat) (v : BitVec 32) : (s.setBar cv b v).cells = s.cells := rfl
@[simp] theorem State.setBar_sbs (cv b : Nat) (v : BitVec 32) : (s.setBar cv b v).sbs = s.sbs := rfl
@[simp] theorem State.setBar_sbFz (cv b : Nat) (v : BitVec 32) : (s.setBar cv b v).sbFz = s.sbFz := rfl
@[simp] theorem State.setBar_hbm (cv b : Nat) (v : BitVec 32) : (s.setBar cv b v).hbm = s.hbm := rfl
@[simp] theorem State.setBar_hostMem (cv b : Nat) (v : BitVec 32) : (s.setBar cv b v).hostMem = s.hostMem := rfl
@[simp] theorem State.setBar_shore (cv b : Nat) (v : BitVec 32) : (s.setBar cv b v).shore = s.shore := rfl
@[simp] theorem State.setBar_poison (cv b : Nat) (v : BitVec 32) : (s.setBar cv b v).poison = s.poison := rfl
@[simp] theorem State.setBar_accs (cv b : Nat) (v : BitVec 32) : (s.setBar cv b v).accs = s.accs := rfl
@[simp] theorem State.setBar_nextId (cv b : Nat) (v : BitVec 32) : (s.setBar cv b v).nextId = s.nextId := rfl
@[simp] theorem State.setBar_nextWave (cv b : Nat) (v : BitVec 32) : (s.setBar cv b v).nextWave = s.nextWave := rfl
@[simp] theorem State.setBar_wire (cv b : Nat) (v : BitVec 32) : (s.setBar cv b v).wire = s.wire := rfl
@[simp] theorem State.setBar_credits (cv b : Nat) (v : BitVec 32) : (s.setBar cv b v).credits = s.credits := rfl
@[simp] theorem State.setBar_tlb (cv b : Nat) (v : BitVec 32) : (s.setBar cv b v).tlb = s.tlb := rfl
@[simp] theorem State.setBar_walks (cv b : Nat) (v : BitVec 32) : (s.setBar cv b v).walks = s.walks := rfl
@[simp] theorem State.setBar_recs (cv b : Nat) (v : BitVec 32) : (s.setBar cv b v).recs = s.recs := rfl
@[simp] theorem State.setBar_fatals (cv b : Nat) (v : BitVec 32) : (s.setBar cv b v).fatals = s.fatals := rfl
@[simp] theorem State.setBar_fences (cv b : Nat) (v : BitVec 32) : (s.setBar cv b v).fences = s.fences := rfl
@[simp] theorem State.setBar_told (cv b : Nat) (v : BitVec 32) : (s.setBar cv b v).told = s.told := rfl
@[simp] theorem State.setBar_logs (cv b : Nat) (v : BitVec 32) : (s.setBar cv b v).logs = s.logs := rfl
@[simp] theorem State.setBar_jobs (cv b : Nat) (v : BitVec 32) : (s.setBar cv b v).jobs = s.jobs := rfl
@[simp] theorem State.setBar_nextJob (cv b : Nat) (v : BitVec 32) : (s.setBar cv b v).nextJob = s.nextJob := rfl
@[simp] theorem State.setBar_earb (cv b : Nat) (v : BitVec 32) : (s.setBar cv b v).earb = s.earb := rfl
@[simp] theorem State.setBar_umx (cv b : Nat) (v : BitVec 32) : (s.setBar cv b v).umx = s.umx := rfl
@[simp] theorem State.setBar_arrs (cv b : Nat) (v : BitVec 32) : (s.setBar cv b v).arrs = s.arrs := rfl
@[simp] theorem State.setBar_grpMsgs (cv b : Nat) (v : BitVec 32) : (s.setBar cv b v).grpMsgs = s.grpMsgs := rfl
@[simp] theorem State.setBar_peersDown (cv b : Nat) (v : BitVec 32) : (s.setBar cv b v).peersDown = s.peersDown := rfl
@[simp] theorem State.setBar_ras (cv b : Nat) (v : BitVec 32) : (s.setBar cv b v).ras = s.ras := rfl
@[simp] theorem State.setBar_power (cv b : Nat) (v : BitVec 32) : (s.setBar cv b v).power = s.power := rfl
@[simp] theorem State.setBar_ckpt (cv b : Nat) (v : BitVec 32) : (s.setBar cv b v).ckpt = s.ckpt := rfl
@[simp] theorem State.setBar_ckptQ (cv b : Nat) (v : BitVec 32) : (s.setBar cv b v).ckptQ = s.ckptQ := rfl

/-! ### State.setPlane -/

@[simp] theorem State.setPlane_clock (cv p : Nat) (q : Plane) : (s.setPlane cv p q).clock = s.clock := rfl
@[simp] theorem State.setPlane_agenda (cv p : Nat) (q : Plane) : (s.setPlane cv p q).agenda = s.agenda := rfl
@[simp] theorem State.setPlane_focus (cv p : Nat) (q : Plane) : (s.setPlane cv p q).focus = s.focus := rfl
@[simp] theorem State.setPlane_turns (cv p : Nat) (q : Plane) : (s.setPlane cv p q).turns = s.turns := rfl
@[simp] theorem State.setPlane_free (cv p : Nat) (q : Plane) : (s.setPlane cv p q).free = s.free := rfl
@[simp] theorem State.setPlane_host (cv p : Nat) (q : Plane) : (s.setPlane cv p q).host = s.host := rfl
@[simp] theorem State.setPlane_boot (cv p : Nat) (q : Plane) : (s.setPlane cv p q).boot = s.boot := rfl
@[simp] theorem State.setPlane_tasks (cv p : Nat) (q : Plane) : (s.setPlane cv p q).tasks = s.tasks := rfl
@[simp] theorem State.setPlane_res (cv p : Nat) (q : Plane) : (s.setPlane cv p q).res = s.res := rfl
@[simp] theorem State.setPlane_parked (cv p : Nat) (q : Plane) : (s.setPlane cv p q).parked = s.parked := rfl
@[simp] theorem State.setPlane_cells (cv p : Nat) (q : Plane) : (s.setPlane cv p q).cells = s.cells := rfl
@[simp] theorem State.setPlane_sbs (cv p : Nat) (q : Plane) : (s.setPlane cv p q).sbs = s.sbs := rfl
@[simp] theorem State.setPlane_sbFz (cv p : Nat) (q : Plane) : (s.setPlane cv p q).sbFz = s.sbFz := rfl
@[simp] theorem State.setPlane_hbm (cv p : Nat) (q : Plane) : (s.setPlane cv p q).hbm = s.hbm := rfl
@[simp] theorem State.setPlane_hostMem (cv p : Nat) (q : Plane) : (s.setPlane cv p q).hostMem = s.hostMem := rfl
@[simp] theorem State.setPlane_shore (cv p : Nat) (q : Plane) : (s.setPlane cv p q).shore = s.shore := rfl
@[simp] theorem State.setPlane_poison (cv p : Nat) (q : Plane) : (s.setPlane cv p q).poison = s.poison := rfl
@[simp] theorem State.setPlane_accs (cv p : Nat) (q : Plane) : (s.setPlane cv p q).accs = s.accs := rfl
@[simp] theorem State.setPlane_nextId (cv p : Nat) (q : Plane) : (s.setPlane cv p q).nextId = s.nextId := rfl
@[simp] theorem State.setPlane_nextWave (cv p : Nat) (q : Plane) : (s.setPlane cv p q).nextWave = s.nextWave := rfl
@[simp] theorem State.setPlane_wire (cv p : Nat) (q : Plane) : (s.setPlane cv p q).wire = s.wire := rfl
@[simp] theorem State.setPlane_credits (cv p : Nat) (q : Plane) : (s.setPlane cv p q).credits = s.credits := rfl
@[simp] theorem State.setPlane_tlb (cv p : Nat) (q : Plane) : (s.setPlane cv p q).tlb = s.tlb := rfl
@[simp] theorem State.setPlane_walks (cv p : Nat) (q : Plane) : (s.setPlane cv p q).walks = s.walks := rfl
@[simp] theorem State.setPlane_recs (cv p : Nat) (q : Plane) : (s.setPlane cv p q).recs = s.recs := rfl
@[simp] theorem State.setPlane_fatals (cv p : Nat) (q : Plane) : (s.setPlane cv p q).fatals = s.fatals := rfl
@[simp] theorem State.setPlane_fences (cv p : Nat) (q : Plane) : (s.setPlane cv p q).fences = s.fences := rfl
@[simp] theorem State.setPlane_told (cv p : Nat) (q : Plane) : (s.setPlane cv p q).told = s.told := rfl
@[simp] theorem State.setPlane_logs (cv p : Nat) (q : Plane) : (s.setPlane cv p q).logs = s.logs := rfl
@[simp] theorem State.setPlane_jobs (cv p : Nat) (q : Plane) : (s.setPlane cv p q).jobs = s.jobs := rfl
@[simp] theorem State.setPlane_nextJob (cv p : Nat) (q : Plane) : (s.setPlane cv p q).nextJob = s.nextJob := rfl
@[simp] theorem State.setPlane_earb (cv p : Nat) (q : Plane) : (s.setPlane cv p q).earb = s.earb := rfl
@[simp] theorem State.setPlane_umx (cv p : Nat) (q : Plane) : (s.setPlane cv p q).umx = s.umx := rfl
@[simp] theorem State.setPlane_arrs (cv p : Nat) (q : Plane) : (s.setPlane cv p q).arrs = s.arrs := rfl
@[simp] theorem State.setPlane_grpMsgs (cv p : Nat) (q : Plane) : (s.setPlane cv p q).grpMsgs = s.grpMsgs := rfl
@[simp] theorem State.setPlane_peersDown (cv p : Nat) (q : Plane) : (s.setPlane cv p q).peersDown = s.peersDown := rfl
@[simp] theorem State.setPlane_ras (cv p : Nat) (q : Plane) : (s.setPlane cv p q).ras = s.ras := rfl
@[simp] theorem State.setPlane_power (cv p : Nat) (q : Plane) : (s.setPlane cv p q).power = s.power := rfl
@[simp] theorem State.setPlane_ckpt (cv p : Nat) (q : Plane) : (s.setPlane cv p q).ckpt = s.ckpt := rfl
@[simp] theorem State.setPlane_ckptQ (cv p : Nat) (q : Plane) : (s.setPlane cv p q).ckptQ = s.ckptQ := rfl

/-! ### State.setFifo -/

@[simp] theorem State.setFifo_clock (cv f : Nat) (q : Queue) : (s.setFifo cv f q).clock = s.clock := rfl
@[simp] theorem State.setFifo_agenda (cv f : Nat) (q : Queue) : (s.setFifo cv f q).agenda = s.agenda := rfl
@[simp] theorem State.setFifo_focus (cv f : Nat) (q : Queue) : (s.setFifo cv f q).focus = s.focus := rfl
@[simp] theorem State.setFifo_turns (cv f : Nat) (q : Queue) : (s.setFifo cv f q).turns = s.turns := rfl
@[simp] theorem State.setFifo_free (cv f : Nat) (q : Queue) : (s.setFifo cv f q).free = s.free := rfl
@[simp] theorem State.setFifo_host (cv f : Nat) (q : Queue) : (s.setFifo cv f q).host = s.host := rfl
@[simp] theorem State.setFifo_boot (cv f : Nat) (q : Queue) : (s.setFifo cv f q).boot = s.boot := rfl
@[simp] theorem State.setFifo_tasks (cv f : Nat) (q : Queue) : (s.setFifo cv f q).tasks = s.tasks := rfl
@[simp] theorem State.setFifo_res (cv f : Nat) (q : Queue) : (s.setFifo cv f q).res = s.res := rfl
@[simp] theorem State.setFifo_parked (cv f : Nat) (q : Queue) : (s.setFifo cv f q).parked = s.parked := rfl
@[simp] theorem State.setFifo_cells (cv f : Nat) (q : Queue) : (s.setFifo cv f q).cells = s.cells := rfl
@[simp] theorem State.setFifo_sbs (cv f : Nat) (q : Queue) : (s.setFifo cv f q).sbs = s.sbs := rfl
@[simp] theorem State.setFifo_sbFz (cv f : Nat) (q : Queue) : (s.setFifo cv f q).sbFz = s.sbFz := rfl
@[simp] theorem State.setFifo_hbm (cv f : Nat) (q : Queue) : (s.setFifo cv f q).hbm = s.hbm := rfl
@[simp] theorem State.setFifo_hostMem (cv f : Nat) (q : Queue) : (s.setFifo cv f q).hostMem = s.hostMem := rfl
@[simp] theorem State.setFifo_shore (cv f : Nat) (q : Queue) : (s.setFifo cv f q).shore = s.shore := rfl
@[simp] theorem State.setFifo_poison (cv f : Nat) (q : Queue) : (s.setFifo cv f q).poison = s.poison := rfl
@[simp] theorem State.setFifo_accs (cv f : Nat) (q : Queue) : (s.setFifo cv f q).accs = s.accs := rfl
@[simp] theorem State.setFifo_nextId (cv f : Nat) (q : Queue) : (s.setFifo cv f q).nextId = s.nextId := rfl
@[simp] theorem State.setFifo_nextWave (cv f : Nat) (q : Queue) : (s.setFifo cv f q).nextWave = s.nextWave := rfl
@[simp] theorem State.setFifo_wire (cv f : Nat) (q : Queue) : (s.setFifo cv f q).wire = s.wire := rfl
@[simp] theorem State.setFifo_credits (cv f : Nat) (q : Queue) : (s.setFifo cv f q).credits = s.credits := rfl
@[simp] theorem State.setFifo_tlb (cv f : Nat) (q : Queue) : (s.setFifo cv f q).tlb = s.tlb := rfl
@[simp] theorem State.setFifo_walks (cv f : Nat) (q : Queue) : (s.setFifo cv f q).walks = s.walks := rfl
@[simp] theorem State.setFifo_recs (cv f : Nat) (q : Queue) : (s.setFifo cv f q).recs = s.recs := rfl
@[simp] theorem State.setFifo_fatals (cv f : Nat) (q : Queue) : (s.setFifo cv f q).fatals = s.fatals := rfl
@[simp] theorem State.setFifo_fences (cv f : Nat) (q : Queue) : (s.setFifo cv f q).fences = s.fences := rfl
@[simp] theorem State.setFifo_told (cv f : Nat) (q : Queue) : (s.setFifo cv f q).told = s.told := rfl
@[simp] theorem State.setFifo_logs (cv f : Nat) (q : Queue) : (s.setFifo cv f q).logs = s.logs := rfl
@[simp] theorem State.setFifo_jobs (cv f : Nat) (q : Queue) : (s.setFifo cv f q).jobs = s.jobs := rfl
@[simp] theorem State.setFifo_nextJob (cv f : Nat) (q : Queue) : (s.setFifo cv f q).nextJob = s.nextJob := rfl
@[simp] theorem State.setFifo_earb (cv f : Nat) (q : Queue) : (s.setFifo cv f q).earb = s.earb := rfl
@[simp] theorem State.setFifo_umx (cv f : Nat) (q : Queue) : (s.setFifo cv f q).umx = s.umx := rfl
@[simp] theorem State.setFifo_arrs (cv f : Nat) (q : Queue) : (s.setFifo cv f q).arrs = s.arrs := rfl
@[simp] theorem State.setFifo_grpMsgs (cv f : Nat) (q : Queue) : (s.setFifo cv f q).grpMsgs = s.grpMsgs := rfl
@[simp] theorem State.setFifo_peersDown (cv f : Nat) (q : Queue) : (s.setFifo cv f q).peersDown = s.peersDown := rfl
@[simp] theorem State.setFifo_ras (cv f : Nat) (q : Queue) : (s.setFifo cv f q).ras = s.ras := rfl
@[simp] theorem State.setFifo_power (cv f : Nat) (q : Queue) : (s.setFifo cv f q).power = s.power := rfl
@[simp] theorem State.setFifo_ckpt (cv f : Nat) (q : Queue) : (s.setFifo cv f q).ckpt = s.ckpt := rfl
@[simp] theorem State.setFifo_ckptQ (cv f : Nat) (q : Queue) : (s.setFifo cv f q).ckptQ = s.ckptQ := rfl

/-! ### State.setNode -/

@[simp] theorem State.setNode_clock (n : Nat) (d : Node) : (s.setNode n d).clock = s.clock := rfl
@[simp] theorem State.setNode_agenda (n : Nat) (d : Node) : (s.setNode n d).agenda = s.agenda := rfl
@[simp] theorem State.setNode_focus (n : Nat) (d : Node) : (s.setNode n d).focus = s.focus := rfl
@[simp] theorem State.setNode_turns (n : Nat) (d : Node) : (s.setNode n d).turns = s.turns := rfl
@[simp] theorem State.setNode_free (n : Nat) (d : Node) : (s.setNode n d).free = s.free := rfl
@[simp] theorem State.setNode_host (n : Nat) (d : Node) : (s.setNode n d).host = s.host := rfl
@[simp] theorem State.setNode_boot (n : Nat) (d : Node) : (s.setNode n d).boot = s.boot := rfl
@[simp] theorem State.setNode_tasks (n : Nat) (d : Node) : (s.setNode n d).tasks = s.tasks := rfl
@[simp] theorem State.setNode_res (n : Nat) (d : Node) : (s.setNode n d).res = s.res := rfl
@[simp] theorem State.setNode_parked (n : Nat) (d : Node) : (s.setNode n d).parked = s.parked := rfl
@[simp] theorem State.setNode_coves (n : Nat) (d : Node) : (s.setNode n d).coves = s.coves := rfl
@[simp] theorem State.setNode_sbs (n : Nat) (d : Node) : (s.setNode n d).sbs = s.sbs := rfl
@[simp] theorem State.setNode_sbFz (n : Nat) (d : Node) : (s.setNode n d).sbFz = s.sbFz := rfl
@[simp] theorem State.setNode_hbm (n : Nat) (d : Node) : (s.setNode n d).hbm = s.hbm := rfl
@[simp] theorem State.setNode_hostMem (n : Nat) (d : Node) : (s.setNode n d).hostMem = s.hostMem := rfl
@[simp] theorem State.setNode_shore (n : Nat) (d : Node) : (s.setNode n d).shore = s.shore := rfl
@[simp] theorem State.setNode_poison (n : Nat) (d : Node) : (s.setNode n d).poison = s.poison := rfl
@[simp] theorem State.setNode_accs (n : Nat) (d : Node) : (s.setNode n d).accs = s.accs := rfl
@[simp] theorem State.setNode_nextId (n : Nat) (d : Node) : (s.setNode n d).nextId = s.nextId := rfl
@[simp] theorem State.setNode_nextWave (n : Nat) (d : Node) : (s.setNode n d).nextWave = s.nextWave := rfl
@[simp] theorem State.setNode_wire (n : Nat) (d : Node) : (s.setNode n d).wire = s.wire := rfl
@[simp] theorem State.setNode_credits (n : Nat) (d : Node) : (s.setNode n d).credits = s.credits := rfl
@[simp] theorem State.setNode_tlb (n : Nat) (d : Node) : (s.setNode n d).tlb = s.tlb := rfl
@[simp] theorem State.setNode_walks (n : Nat) (d : Node) : (s.setNode n d).walks = s.walks := rfl
@[simp] theorem State.setNode_recs (n : Nat) (d : Node) : (s.setNode n d).recs = s.recs := rfl
@[simp] theorem State.setNode_fatals (n : Nat) (d : Node) : (s.setNode n d).fatals = s.fatals := rfl
@[simp] theorem State.setNode_fences (n : Nat) (d : Node) : (s.setNode n d).fences = s.fences := rfl
@[simp] theorem State.setNode_told (n : Nat) (d : Node) : (s.setNode n d).told = s.told := rfl
@[simp] theorem State.setNode_logs (n : Nat) (d : Node) : (s.setNode n d).logs = s.logs := rfl
@[simp] theorem State.setNode_jobs (n : Nat) (d : Node) : (s.setNode n d).jobs = s.jobs := rfl
@[simp] theorem State.setNode_nextJob (n : Nat) (d : Node) : (s.setNode n d).nextJob = s.nextJob := rfl
@[simp] theorem State.setNode_earb (n : Nat) (d : Node) : (s.setNode n d).earb = s.earb := rfl
@[simp] theorem State.setNode_umx (n : Nat) (d : Node) : (s.setNode n d).umx = s.umx := rfl
@[simp] theorem State.setNode_arrs (n : Nat) (d : Node) : (s.setNode n d).arrs = s.arrs := rfl
@[simp] theorem State.setNode_grpMsgs (n : Nat) (d : Node) : (s.setNode n d).grpMsgs = s.grpMsgs := rfl
@[simp] theorem State.setNode_peersDown (n : Nat) (d : Node) : (s.setNode n d).peersDown = s.peersDown := rfl
@[simp] theorem State.setNode_ras (n : Nat) (d : Node) : (s.setNode n d).ras = s.ras := rfl
@[simp] theorem State.setNode_power (n : Nat) (d : Node) : (s.setNode n d).power = s.power := rfl
@[simp] theorem State.setNode_ckpt (n : Nat) (d : Node) : (s.setNode n d).ckpt = s.ckpt := rfl
@[simp] theorem State.setNode_ckptQ (n : Nat) (d : Node) : (s.setNode n d).ckptQ = s.ckptQ := rfl

/-! ### State.setRound -/

@[simp] theorem State.setRound_clock (e k : Nat) (r : Round) : (s.setRound e k r).clock = s.clock := rfl
@[simp] theorem State.setRound_agenda (e k : Nat) (r : Round) : (s.setRound e k r).agenda = s.agenda := rfl
@[simp] theorem State.setRound_focus (e k : Nat) (r : Round) : (s.setRound e k r).focus = s.focus := rfl
@[simp] theorem State.setRound_turns (e k : Nat) (r : Round) : (s.setRound e k r).turns = s.turns := rfl
@[simp] theorem State.setRound_free (e k : Nat) (r : Round) : (s.setRound e k r).free = s.free := rfl
@[simp] theorem State.setRound_host (e k : Nat) (r : Round) : (s.setRound e k r).host = s.host := rfl
@[simp] theorem State.setRound_boot (e k : Nat) (r : Round) : (s.setRound e k r).boot = s.boot := rfl
@[simp] theorem State.setRound_tasks (e k : Nat) (r : Round) : (s.setRound e k r).tasks = s.tasks := rfl
@[simp] theorem State.setRound_res (e k : Nat) (r : Round) : (s.setRound e k r).res = s.res := rfl
@[simp] theorem State.setRound_parked (e k : Nat) (r : Round) : (s.setRound e k r).parked = s.parked := rfl
@[simp] theorem State.setRound_coves (e k : Nat) (r : Round) : (s.setRound e k r).coves = s.coves := rfl
@[simp] theorem State.setRound_cells (e k : Nat) (r : Round) : (s.setRound e k r).cells = s.cells := rfl
@[simp] theorem State.setRound_sbs (e k : Nat) (r : Round) : (s.setRound e k r).sbs = s.sbs := rfl
@[simp] theorem State.setRound_sbFz (e k : Nat) (r : Round) : (s.setRound e k r).sbFz = s.sbFz := rfl
@[simp] theorem State.setRound_hbm (e k : Nat) (r : Round) : (s.setRound e k r).hbm = s.hbm := rfl
@[simp] theorem State.setRound_hostMem (e k : Nat) (r : Round) : (s.setRound e k r).hostMem = s.hostMem := rfl
@[simp] theorem State.setRound_shore (e k : Nat) (r : Round) : (s.setRound e k r).shore = s.shore := rfl
@[simp] theorem State.setRound_poison (e k : Nat) (r : Round) : (s.setRound e k r).poison = s.poison := rfl
@[simp] theorem State.setRound_accs (e k : Nat) (r : Round) : (s.setRound e k r).accs = s.accs := rfl
@[simp] theorem State.setRound_nextId (e k : Nat) (r : Round) : (s.setRound e k r).nextId = s.nextId := rfl
@[simp] theorem State.setRound_nextWave (e k : Nat) (r : Round) : (s.setRound e k r).nextWave = s.nextWave := rfl
@[simp] theorem State.setRound_wire (e k : Nat) (r : Round) : (s.setRound e k r).wire = s.wire := rfl
@[simp] theorem State.setRound_credits (e k : Nat) (r : Round) : (s.setRound e k r).credits = s.credits := rfl
@[simp] theorem State.setRound_tlb (e k : Nat) (r : Round) : (s.setRound e k r).tlb = s.tlb := rfl
@[simp] theorem State.setRound_walks (e k : Nat) (r : Round) : (s.setRound e k r).walks = s.walks := rfl
@[simp] theorem State.setRound_recs (e k : Nat) (r : Round) : (s.setRound e k r).recs = s.recs := rfl
@[simp] theorem State.setRound_fatals (e k : Nat) (r : Round) : (s.setRound e k r).fatals = s.fatals := rfl
@[simp] theorem State.setRound_fences (e k : Nat) (r : Round) : (s.setRound e k r).fences = s.fences := rfl
@[simp] theorem State.setRound_told (e k : Nat) (r : Round) : (s.setRound e k r).told = s.told := rfl
@[simp] theorem State.setRound_logs (e k : Nat) (r : Round) : (s.setRound e k r).logs = s.logs := rfl
@[simp] theorem State.setRound_jobs (e k : Nat) (r : Round) : (s.setRound e k r).jobs = s.jobs := rfl
@[simp] theorem State.setRound_nextJob (e k : Nat) (r : Round) : (s.setRound e k r).nextJob = s.nextJob := rfl
@[simp] theorem State.setRound_earb (e k : Nat) (r : Round) : (s.setRound e k r).earb = s.earb := rfl
@[simp] theorem State.setRound_arrs (e k : Nat) (r : Round) : (s.setRound e k r).arrs = s.arrs := rfl
@[simp] theorem State.setRound_grpMsgs (e k : Nat) (r : Round) : (s.setRound e k r).grpMsgs = s.grpMsgs := rfl
@[simp] theorem State.setRound_peersDown (e k : Nat) (r : Round) : (s.setRound e k r).peersDown = s.peersDown := rfl
@[simp] theorem State.setRound_ras (e k : Nat) (r : Round) : (s.setRound e k r).ras = s.ras := rfl
@[simp] theorem State.setRound_power (e k : Nat) (r : Round) : (s.setRound e k r).power = s.power := rfl
@[simp] theorem State.setRound_ckpt (e k : Nat) (r : Round) : (s.setRound e k r).ckpt = s.ckpt := rfl
@[simp] theorem State.setRound_ckptQ (e k : Nat) (r : Round) : (s.setRound e k r).ckptQ = s.ckptQ := rfl

/-! ### setEndp -/

@[simp] theorem setEndp_clock (e : Nat) (p : Endp) : (setEndp s e p).clock = s.clock := rfl
@[simp] theorem setEndp_agenda (e : Nat) (p : Endp) : (setEndp s e p).agenda = s.agenda := rfl
@[simp] theorem setEndp_focus (e : Nat) (p : Endp) : (setEndp s e p).focus = s.focus := rfl
@[simp] theorem setEndp_turns (e : Nat) (p : Endp) : (setEndp s e p).turns = s.turns := rfl
@[simp] theorem setEndp_free (e : Nat) (p : Endp) : (setEndp s e p).free = s.free := rfl
@[simp] theorem setEndp_host (e : Nat) (p : Endp) : (setEndp s e p).host = s.host := rfl
@[simp] theorem setEndp_boot (e : Nat) (p : Endp) : (setEndp s e p).boot = s.boot := rfl
@[simp] theorem setEndp_tasks (e : Nat) (p : Endp) : (setEndp s e p).tasks = s.tasks := rfl
@[simp] theorem setEndp_res (e : Nat) (p : Endp) : (setEndp s e p).res = s.res := rfl
@[simp] theorem setEndp_parked (e : Nat) (p : Endp) : (setEndp s e p).parked = s.parked := rfl
@[simp] theorem setEndp_coves (e : Nat) (p : Endp) : (setEndp s e p).coves = s.coves := rfl
@[simp] theorem setEndp_sbs (e : Nat) (p : Endp) : (setEndp s e p).sbs = s.sbs := rfl
@[simp] theorem setEndp_sbFz (e : Nat) (p : Endp) : (setEndp s e p).sbFz = s.sbFz := rfl
@[simp] theorem setEndp_hbm (e : Nat) (p : Endp) : (setEndp s e p).hbm = s.hbm := rfl
@[simp] theorem setEndp_hostMem (e : Nat) (p : Endp) : (setEndp s e p).hostMem = s.hostMem := rfl
@[simp] theorem setEndp_shore (e : Nat) (p : Endp) : (setEndp s e p).shore = s.shore := rfl
@[simp] theorem setEndp_poison (e : Nat) (p : Endp) : (setEndp s e p).poison = s.poison := rfl
@[simp] theorem setEndp_accs (e : Nat) (p : Endp) : (setEndp s e p).accs = s.accs := rfl
@[simp] theorem setEndp_nextId (e : Nat) (p : Endp) : (setEndp s e p).nextId = s.nextId := rfl
@[simp] theorem setEndp_nextWave (e : Nat) (p : Endp) : (setEndp s e p).nextWave = s.nextWave := rfl
@[simp] theorem setEndp_wire (e : Nat) (p : Endp) : (setEndp s e p).wire = s.wire := rfl
@[simp] theorem setEndp_credits (e : Nat) (p : Endp) : (setEndp s e p).credits = s.credits := rfl
@[simp] theorem setEndp_tlb (e : Nat) (p : Endp) : (setEndp s e p).tlb = s.tlb := rfl
@[simp] theorem setEndp_walks (e : Nat) (p : Endp) : (setEndp s e p).walks = s.walks := rfl
@[simp] theorem setEndp_recs (e : Nat) (p : Endp) : (setEndp s e p).recs = s.recs := rfl
@[simp] theorem setEndp_fatals (e : Nat) (p : Endp) : (setEndp s e p).fatals = s.fatals := rfl
@[simp] theorem setEndp_fences (e : Nat) (p : Endp) : (setEndp s e p).fences = s.fences := rfl
@[simp] theorem setEndp_told (e : Nat) (p : Endp) : (setEndp s e p).told = s.told := rfl
@[simp] theorem setEndp_logs (e : Nat) (p : Endp) : (setEndp s e p).logs = s.logs := rfl
@[simp] theorem setEndp_jobs (e : Nat) (p : Endp) : (setEndp s e p).jobs = s.jobs := rfl
@[simp] theorem setEndp_nextJob (e : Nat) (p : Endp) : (setEndp s e p).nextJob = s.nextJob := rfl
@[simp] theorem setEndp_earb (e : Nat) (p : Endp) : (setEndp s e p).earb = s.earb := rfl
@[simp] theorem setEndp_umx (e : Nat) (p : Endp) : (setEndp s e p).umx = s.umx := rfl
@[simp] theorem setEndp_arrs (e : Nat) (p : Endp) : (setEndp s e p).arrs = s.arrs := rfl
@[simp] theorem setEndp_grpMsgs (e : Nat) (p : Endp) : (setEndp s e p).grpMsgs = s.grpMsgs := rfl
@[simp] theorem setEndp_peersDown (e : Nat) (p : Endp) : (setEndp s e p).peersDown = s.peersDown := rfl
@[simp] theorem setEndp_ras (e : Nat) (p : Endp) : (setEndp s e p).ras = s.ras := rfl
@[simp] theorem setEndp_power (e : Nat) (p : Endp) : (setEndp s e p).power = s.power := rfl
@[simp] theorem setEndp_ckpt (e : Nat) (p : Endp) : (setEndp s e p).ckpt = s.ckpt := rfl
@[simp] theorem setEndp_ckptQ (e : Nat) (p : Endp) : (setEndp s e p).ckptQ = s.ckptQ := rfl

/-! ### modRes -/

@[simp] theorem modRes_clock (rid : Nat) (f : Residency → Residency) : (modRes s rid f).clock = s.clock := rfl
@[simp] theorem modRes_agenda (rid : Nat) (f : Residency → Residency) : (modRes s rid f).agenda = s.agenda := rfl
@[simp] theorem modRes_focus (rid : Nat) (f : Residency → Residency) : (modRes s rid f).focus = s.focus := rfl
@[simp] theorem modRes_turns (rid : Nat) (f : Residency → Residency) : (modRes s rid f).turns = s.turns := rfl
@[simp] theorem modRes_free (rid : Nat) (f : Residency → Residency) : (modRes s rid f).free = s.free := rfl
@[simp] theorem modRes_host (rid : Nat) (f : Residency → Residency) : (modRes s rid f).host = s.host := rfl
@[simp] theorem modRes_boot (rid : Nat) (f : Residency → Residency) : (modRes s rid f).boot = s.boot := rfl
@[simp] theorem modRes_tasks (rid : Nat) (f : Residency → Residency) : (modRes s rid f).tasks = s.tasks := rfl
@[simp] theorem modRes_parked (rid : Nat) (f : Residency → Residency) : (modRes s rid f).parked = s.parked := rfl
@[simp] theorem modRes_coves (rid : Nat) (f : Residency → Residency) : (modRes s rid f).coves = s.coves := rfl
@[simp] theorem modRes_cells (rid : Nat) (f : Residency → Residency) : (modRes s rid f).cells = s.cells := rfl
@[simp] theorem modRes_sbs (rid : Nat) (f : Residency → Residency) : (modRes s rid f).sbs = s.sbs := rfl
@[simp] theorem modRes_sbFz (rid : Nat) (f : Residency → Residency) : (modRes s rid f).sbFz = s.sbFz := rfl
@[simp] theorem modRes_hbm (rid : Nat) (f : Residency → Residency) : (modRes s rid f).hbm = s.hbm := rfl
@[simp] theorem modRes_hostMem (rid : Nat) (f : Residency → Residency) : (modRes s rid f).hostMem = s.hostMem := rfl
@[simp] theorem modRes_shore (rid : Nat) (f : Residency → Residency) : (modRes s rid f).shore = s.shore := rfl
@[simp] theorem modRes_poison (rid : Nat) (f : Residency → Residency) : (modRes s rid f).poison = s.poison := rfl
@[simp] theorem modRes_accs (rid : Nat) (f : Residency → Residency) : (modRes s rid f).accs = s.accs := rfl
@[simp] theorem modRes_nextId (rid : Nat) (f : Residency → Residency) : (modRes s rid f).nextId = s.nextId := rfl
@[simp] theorem modRes_nextWave (rid : Nat) (f : Residency → Residency) : (modRes s rid f).nextWave = s.nextWave := rfl
@[simp] theorem modRes_wire (rid : Nat) (f : Residency → Residency) : (modRes s rid f).wire = s.wire := rfl
@[simp] theorem modRes_credits (rid : Nat) (f : Residency → Residency) : (modRes s rid f).credits = s.credits := rfl
@[simp] theorem modRes_tlb (rid : Nat) (f : Residency → Residency) : (modRes s rid f).tlb = s.tlb := rfl
@[simp] theorem modRes_walks (rid : Nat) (f : Residency → Residency) : (modRes s rid f).walks = s.walks := rfl
@[simp] theorem modRes_recs (rid : Nat) (f : Residency → Residency) : (modRes s rid f).recs = s.recs := rfl
@[simp] theorem modRes_fatals (rid : Nat) (f : Residency → Residency) : (modRes s rid f).fatals = s.fatals := rfl
@[simp] theorem modRes_fences (rid : Nat) (f : Residency → Residency) : (modRes s rid f).fences = s.fences := rfl
@[simp] theorem modRes_told (rid : Nat) (f : Residency → Residency) : (modRes s rid f).told = s.told := rfl
@[simp] theorem modRes_logs (rid : Nat) (f : Residency → Residency) : (modRes s rid f).logs = s.logs := rfl
@[simp] theorem modRes_jobs (rid : Nat) (f : Residency → Residency) : (modRes s rid f).jobs = s.jobs := rfl
@[simp] theorem modRes_nextJob (rid : Nat) (f : Residency → Residency) : (modRes s rid f).nextJob = s.nextJob := rfl
@[simp] theorem modRes_earb (rid : Nat) (f : Residency → Residency) : (modRes s rid f).earb = s.earb := rfl
@[simp] theorem modRes_umx (rid : Nat) (f : Residency → Residency) : (modRes s rid f).umx = s.umx := rfl
@[simp] theorem modRes_arrs (rid : Nat) (f : Residency → Residency) : (modRes s rid f).arrs = s.arrs := rfl
@[simp] theorem modRes_grpMsgs (rid : Nat) (f : Residency → Residency) : (modRes s rid f).grpMsgs = s.grpMsgs := rfl
@[simp] theorem modRes_peersDown (rid : Nat) (f : Residency → Residency) : (modRes s rid f).peersDown = s.peersDown := rfl
@[simp] theorem modRes_ras (rid : Nat) (f : Residency → Residency) : (modRes s rid f).ras = s.ras := rfl
@[simp] theorem modRes_power (rid : Nat) (f : Residency → Residency) : (modRes s rid f).power = s.power := rfl
@[simp] theorem modRes_ckpt (rid : Nat) (f : Residency → Residency) : (modRes s rid f).ckpt = s.ckpt := rfl
@[simp] theorem modRes_ckptQ (rid : Nat) (f : Residency → Residency) : (modRes s rid f).ckptQ = s.ckptQ := rfl

/-! ### sendCredit -/

@[simp] theorem sendCredit_clock (cv b n : Nat) (l : List Nat) : (sendCredit s cv b n l).clock = s.clock := rfl
@[simp] theorem sendCredit_agenda (cv b n : Nat) (l : List Nat) : (sendCredit s cv b n l).agenda = s.agenda := rfl
@[simp] theorem sendCredit_focus (cv b n : Nat) (l : List Nat) : (sendCredit s cv b n l).focus = s.focus := rfl
@[simp] theorem sendCredit_turns (cv b n : Nat) (l : List Nat) : (sendCredit s cv b n l).turns = s.turns := rfl
@[simp] theorem sendCredit_free (cv b n : Nat) (l : List Nat) : (sendCredit s cv b n l).free = s.free := rfl
@[simp] theorem sendCredit_host (cv b n : Nat) (l : List Nat) : (sendCredit s cv b n l).host = s.host := rfl
@[simp] theorem sendCredit_boot (cv b n : Nat) (l : List Nat) : (sendCredit s cv b n l).boot = s.boot := rfl
@[simp] theorem sendCredit_tasks (cv b n : Nat) (l : List Nat) : (sendCredit s cv b n l).tasks = s.tasks := rfl
@[simp] theorem sendCredit_res (cv b n : Nat) (l : List Nat) : (sendCredit s cv b n l).res = s.res := rfl
@[simp] theorem sendCredit_parked (cv b n : Nat) (l : List Nat) : (sendCredit s cv b n l).parked = s.parked := rfl
@[simp] theorem sendCredit_coves (cv b n : Nat) (l : List Nat) : (sendCredit s cv b n l).coves = s.coves := rfl
@[simp] theorem sendCredit_cells (cv b n : Nat) (l : List Nat) : (sendCredit s cv b n l).cells = s.cells := rfl
@[simp] theorem sendCredit_sbs (cv b n : Nat) (l : List Nat) : (sendCredit s cv b n l).sbs = s.sbs := rfl
@[simp] theorem sendCredit_sbFz (cv b n : Nat) (l : List Nat) : (sendCredit s cv b n l).sbFz = s.sbFz := rfl
@[simp] theorem sendCredit_hbm (cv b n : Nat) (l : List Nat) : (sendCredit s cv b n l).hbm = s.hbm := rfl
@[simp] theorem sendCredit_hostMem (cv b n : Nat) (l : List Nat) : (sendCredit s cv b n l).hostMem = s.hostMem := rfl
@[simp] theorem sendCredit_shore (cv b n : Nat) (l : List Nat) : (sendCredit s cv b n l).shore = s.shore := rfl
@[simp] theorem sendCredit_poison (cv b n : Nat) (l : List Nat) : (sendCredit s cv b n l).poison = s.poison := rfl
@[simp] theorem sendCredit_accs (cv b n : Nat) (l : List Nat) : (sendCredit s cv b n l).accs = s.accs := rfl
@[simp] theorem sendCredit_nextId (cv b n : Nat) (l : List Nat) : (sendCredit s cv b n l).nextId = s.nextId := rfl
@[simp] theorem sendCredit_nextWave (cv b n : Nat) (l : List Nat) : (sendCredit s cv b n l).nextWave = s.nextWave := rfl
@[simp] theorem sendCredit_wire (cv b n : Nat) (l : List Nat) : (sendCredit s cv b n l).wire = s.wire := rfl
@[simp] theorem sendCredit_tlb (cv b n : Nat) (l : List Nat) : (sendCredit s cv b n l).tlb = s.tlb := rfl
@[simp] theorem sendCredit_walks (cv b n : Nat) (l : List Nat) : (sendCredit s cv b n l).walks = s.walks := rfl
@[simp] theorem sendCredit_recs (cv b n : Nat) (l : List Nat) : (sendCredit s cv b n l).recs = s.recs := rfl
@[simp] theorem sendCredit_fatals (cv b n : Nat) (l : List Nat) : (sendCredit s cv b n l).fatals = s.fatals := rfl
@[simp] theorem sendCredit_fences (cv b n : Nat) (l : List Nat) : (sendCredit s cv b n l).fences = s.fences := rfl
@[simp] theorem sendCredit_told (cv b n : Nat) (l : List Nat) : (sendCredit s cv b n l).told = s.told := rfl
@[simp] theorem sendCredit_logs (cv b n : Nat) (l : List Nat) : (sendCredit s cv b n l).logs = s.logs := rfl
@[simp] theorem sendCredit_jobs (cv b n : Nat) (l : List Nat) : (sendCredit s cv b n l).jobs = s.jobs := rfl
@[simp] theorem sendCredit_nextJob (cv b n : Nat) (l : List Nat) : (sendCredit s cv b n l).nextJob = s.nextJob := rfl
@[simp] theorem sendCredit_earb (cv b n : Nat) (l : List Nat) : (sendCredit s cv b n l).earb = s.earb := rfl
@[simp] theorem sendCredit_umx (cv b n : Nat) (l : List Nat) : (sendCredit s cv b n l).umx = s.umx := rfl
@[simp] theorem sendCredit_arrs (cv b n : Nat) (l : List Nat) : (sendCredit s cv b n l).arrs = s.arrs := rfl
@[simp] theorem sendCredit_grpMsgs (cv b n : Nat) (l : List Nat) : (sendCredit s cv b n l).grpMsgs = s.grpMsgs := rfl
@[simp] theorem sendCredit_peersDown (cv b n : Nat) (l : List Nat) : (sendCredit s cv b n l).peersDown = s.peersDown := rfl
@[simp] theorem sendCredit_ras (cv b n : Nat) (l : List Nat) : (sendCredit s cv b n l).ras = s.ras := rfl
@[simp] theorem sendCredit_power (cv b n : Nat) (l : List Nat) : (sendCredit s cv b n l).power = s.power := rfl
@[simp] theorem sendCredit_ckpt (cv b n : Nat) (l : List Nat) : (sendCredit s cv b n l).ckpt = s.ckpt := rfl
@[simp] theorem sendCredit_ckptQ (cv b n : Nat) (l : List Nat) : (sendCredit s cv b n l).ckptQ = s.ckptQ := rfl

/-! ### sendPkt -/

@[simp] theorem sendPkt_clock (ch cv : Nat) (c : Cargo) : (sendPkt s ch cv c).clock = s.clock := rfl
@[simp] theorem sendPkt_agenda (ch cv : Nat) (c : Cargo) : (sendPkt s ch cv c).agenda = s.agenda := rfl
@[simp] theorem sendPkt_focus (ch cv : Nat) (c : Cargo) : (sendPkt s ch cv c).focus = s.focus := rfl
@[simp] theorem sendPkt_turns (ch cv : Nat) (c : Cargo) : (sendPkt s ch cv c).turns = s.turns := rfl
@[simp] theorem sendPkt_free (ch cv : Nat) (c : Cargo) : (sendPkt s ch cv c).free = s.free := rfl
@[simp] theorem sendPkt_host (ch cv : Nat) (c : Cargo) : (sendPkt s ch cv c).host = s.host := rfl
@[simp] theorem sendPkt_boot (ch cv : Nat) (c : Cargo) : (sendPkt s ch cv c).boot = s.boot := rfl
@[simp] theorem sendPkt_tasks (ch cv : Nat) (c : Cargo) : (sendPkt s ch cv c).tasks = s.tasks := rfl
@[simp] theorem sendPkt_res (ch cv : Nat) (c : Cargo) : (sendPkt s ch cv c).res = s.res := rfl
@[simp] theorem sendPkt_parked (ch cv : Nat) (c : Cargo) : (sendPkt s ch cv c).parked = s.parked := rfl
@[simp] theorem sendPkt_coves (ch cv : Nat) (c : Cargo) : (sendPkt s ch cv c).coves = s.coves := rfl
@[simp] theorem sendPkt_cells (ch cv : Nat) (c : Cargo) : (sendPkt s ch cv c).cells = s.cells := rfl
@[simp] theorem sendPkt_sbs (ch cv : Nat) (c : Cargo) : (sendPkt s ch cv c).sbs = s.sbs := rfl
@[simp] theorem sendPkt_sbFz (ch cv : Nat) (c : Cargo) : (sendPkt s ch cv c).sbFz = s.sbFz := rfl
@[simp] theorem sendPkt_hbm (ch cv : Nat) (c : Cargo) : (sendPkt s ch cv c).hbm = s.hbm := rfl
@[simp] theorem sendPkt_hostMem (ch cv : Nat) (c : Cargo) : (sendPkt s ch cv c).hostMem = s.hostMem := rfl
@[simp] theorem sendPkt_shore (ch cv : Nat) (c : Cargo) : (sendPkt s ch cv c).shore = s.shore := rfl
@[simp] theorem sendPkt_poison (ch cv : Nat) (c : Cargo) : (sendPkt s ch cv c).poison = s.poison := rfl
@[simp] theorem sendPkt_accs (ch cv : Nat) (c : Cargo) : (sendPkt s ch cv c).accs = s.accs := rfl
@[simp] theorem sendPkt_nextId (ch cv : Nat) (c : Cargo) : (sendPkt s ch cv c).nextId = s.nextId := rfl
@[simp] theorem sendPkt_nextWave (ch cv : Nat) (c : Cargo) : (sendPkt s ch cv c).nextWave = s.nextWave := rfl
@[simp] theorem sendPkt_credits (ch cv : Nat) (c : Cargo) : (sendPkt s ch cv c).credits = s.credits := rfl
@[simp] theorem sendPkt_tlb (ch cv : Nat) (c : Cargo) : (sendPkt s ch cv c).tlb = s.tlb := rfl
@[simp] theorem sendPkt_walks (ch cv : Nat) (c : Cargo) : (sendPkt s ch cv c).walks = s.walks := rfl
@[simp] theorem sendPkt_recs (ch cv : Nat) (c : Cargo) : (sendPkt s ch cv c).recs = s.recs := rfl
@[simp] theorem sendPkt_fatals (ch cv : Nat) (c : Cargo) : (sendPkt s ch cv c).fatals = s.fatals := rfl
@[simp] theorem sendPkt_fences (ch cv : Nat) (c : Cargo) : (sendPkt s ch cv c).fences = s.fences := rfl
@[simp] theorem sendPkt_told (ch cv : Nat) (c : Cargo) : (sendPkt s ch cv c).told = s.told := rfl
@[simp] theorem sendPkt_logs (ch cv : Nat) (c : Cargo) : (sendPkt s ch cv c).logs = s.logs := rfl
@[simp] theorem sendPkt_jobs (ch cv : Nat) (c : Cargo) : (sendPkt s ch cv c).jobs = s.jobs := rfl
@[simp] theorem sendPkt_nextJob (ch cv : Nat) (c : Cargo) : (sendPkt s ch cv c).nextJob = s.nextJob := rfl
@[simp] theorem sendPkt_earb (ch cv : Nat) (c : Cargo) : (sendPkt s ch cv c).earb = s.earb := rfl
@[simp] theorem sendPkt_umx (ch cv : Nat) (c : Cargo) : (sendPkt s ch cv c).umx = s.umx := rfl
@[simp] theorem sendPkt_arrs (ch cv : Nat) (c : Cargo) : (sendPkt s ch cv c).arrs = s.arrs := rfl
@[simp] theorem sendPkt_grpMsgs (ch cv : Nat) (c : Cargo) : (sendPkt s ch cv c).grpMsgs = s.grpMsgs := rfl
@[simp] theorem sendPkt_peersDown (ch cv : Nat) (c : Cargo) : (sendPkt s ch cv c).peersDown = s.peersDown := rfl
@[simp] theorem sendPkt_ras (ch cv : Nat) (c : Cargo) : (sendPkt s ch cv c).ras = s.ras := rfl
@[simp] theorem sendPkt_power (ch cv : Nat) (c : Cargo) : (sendPkt s ch cv c).power = s.power := rfl
@[simp] theorem sendPkt_ckpt (ch cv : Nat) (c : Cargo) : (sendPkt s ch cv c).ckpt = s.ckpt := rfl
@[simp] theorem sendPkt_ckptQ (ch cv : Nat) (c : Cargo) : (sendPkt s ch cv c).ckptQ = s.ckptQ := rfl

/-! ### popCmd -/

@[simp] theorem popCmd_clock (sb : Nat) : (popCmd s sb).clock = s.clock := rfl
@[simp] theorem popCmd_agenda (sb : Nat) : (popCmd s sb).agenda = s.agenda := rfl
@[simp] theorem popCmd_focus (sb : Nat) : (popCmd s sb).focus = s.focus := rfl
@[simp] theorem popCmd_turns (sb : Nat) : (popCmd s sb).turns = s.turns := rfl
@[simp] theorem popCmd_free (sb : Nat) : (popCmd s sb).free = s.free := rfl
@[simp] theorem popCmd_host (sb : Nat) : (popCmd s sb).host = s.host := rfl
@[simp] theorem popCmd_boot (sb : Nat) : (popCmd s sb).boot = s.boot := rfl
@[simp] theorem popCmd_tasks (sb : Nat) : (popCmd s sb).tasks = s.tasks := rfl
@[simp] theorem popCmd_res (sb : Nat) : (popCmd s sb).res = s.res := rfl
@[simp] theorem popCmd_parked (sb : Nat) : (popCmd s sb).parked = s.parked := rfl
@[simp] theorem popCmd_coves (sb : Nat) : (popCmd s sb).coves = s.coves := rfl
@[simp] theorem popCmd_cells (sb : Nat) : (popCmd s sb).cells = s.cells := rfl
@[simp] theorem popCmd_sbFz (sb : Nat) : (popCmd s sb).sbFz = s.sbFz := rfl
@[simp] theorem popCmd_hbm (sb : Nat) : (popCmd s sb).hbm = s.hbm := rfl
@[simp] theorem popCmd_hostMem (sb : Nat) : (popCmd s sb).hostMem = s.hostMem := rfl
@[simp] theorem popCmd_shore (sb : Nat) : (popCmd s sb).shore = s.shore := rfl
@[simp] theorem popCmd_poison (sb : Nat) : (popCmd s sb).poison = s.poison := rfl
@[simp] theorem popCmd_accs (sb : Nat) : (popCmd s sb).accs = s.accs := rfl
@[simp] theorem popCmd_nextId (sb : Nat) : (popCmd s sb).nextId = s.nextId := rfl
@[simp] theorem popCmd_nextWave (sb : Nat) : (popCmd s sb).nextWave = s.nextWave := rfl
@[simp] theorem popCmd_wire (sb : Nat) : (popCmd s sb).wire = s.wire := rfl
@[simp] theorem popCmd_credits (sb : Nat) : (popCmd s sb).credits = s.credits := rfl
@[simp] theorem popCmd_tlb (sb : Nat) : (popCmd s sb).tlb = s.tlb := rfl
@[simp] theorem popCmd_walks (sb : Nat) : (popCmd s sb).walks = s.walks := rfl
@[simp] theorem popCmd_recs (sb : Nat) : (popCmd s sb).recs = s.recs := rfl
@[simp] theorem popCmd_fatals (sb : Nat) : (popCmd s sb).fatals = s.fatals := rfl
@[simp] theorem popCmd_fences (sb : Nat) : (popCmd s sb).fences = s.fences := rfl
@[simp] theorem popCmd_told (sb : Nat) : (popCmd s sb).told = s.told := rfl
@[simp] theorem popCmd_logs (sb : Nat) : (popCmd s sb).logs = s.logs := rfl
@[simp] theorem popCmd_jobs (sb : Nat) : (popCmd s sb).jobs = s.jobs := rfl
@[simp] theorem popCmd_nextJob (sb : Nat) : (popCmd s sb).nextJob = s.nextJob := rfl
@[simp] theorem popCmd_earb (sb : Nat) : (popCmd s sb).earb = s.earb := rfl
@[simp] theorem popCmd_umx (sb : Nat) : (popCmd s sb).umx = s.umx := rfl
@[simp] theorem popCmd_arrs (sb : Nat) : (popCmd s sb).arrs = s.arrs := rfl
@[simp] theorem popCmd_grpMsgs (sb : Nat) : (popCmd s sb).grpMsgs = s.grpMsgs := rfl
@[simp] theorem popCmd_peersDown (sb : Nat) : (popCmd s sb).peersDown = s.peersDown := rfl
@[simp] theorem popCmd_ras (sb : Nat) : (popCmd s sb).ras = s.ras := rfl
@[simp] theorem popCmd_power (sb : Nat) : (popCmd s sb).power = s.power := rfl
@[simp] theorem popCmd_ckpt (sb : Nat) : (popCmd s sb).ckpt = s.ckpt := rfl
@[simp] theorem popCmd_ckptQ (sb : Nat) : (popCmd s sb).ckptQ = s.ckptQ := rfl

/-! ### creditBar -/

@[simp] theorem creditBar_clock (cv b n : Nat) : (creditBar s cv b n).clock = s.clock := rfl
@[simp] theorem creditBar_agenda (cv b n : Nat) : (creditBar s cv b n).agenda = s.agenda := rfl
@[simp] theorem creditBar_focus (cv b n : Nat) : (creditBar s cv b n).focus = s.focus := rfl
@[simp] theorem creditBar_turns (cv b n : Nat) : (creditBar s cv b n).turns = s.turns := rfl
@[simp] theorem creditBar_free (cv b n : Nat) : (creditBar s cv b n).free = s.free := rfl
@[simp] theorem creditBar_host (cv b n : Nat) : (creditBar s cv b n).host = s.host := rfl
@[simp] theorem creditBar_boot (cv b n : Nat) : (creditBar s cv b n).boot = s.boot := rfl
@[simp] theorem creditBar_tasks (cv b n : Nat) : (creditBar s cv b n).tasks = s.tasks := rfl
@[simp] theorem creditBar_res (cv b n : Nat) : (creditBar s cv b n).res = s.res := rfl
@[simp] theorem creditBar_parked (cv b n : Nat) : (creditBar s cv b n).parked = s.parked := rfl
@[simp] theorem creditBar_cells (cv b n : Nat) : (creditBar s cv b n).cells = s.cells := rfl
@[simp] theorem creditBar_sbs (cv b n : Nat) : (creditBar s cv b n).sbs = s.sbs := rfl
@[simp] theorem creditBar_sbFz (cv b n : Nat) : (creditBar s cv b n).sbFz = s.sbFz := rfl
@[simp] theorem creditBar_hbm (cv b n : Nat) : (creditBar s cv b n).hbm = s.hbm := rfl
@[simp] theorem creditBar_hostMem (cv b n : Nat) : (creditBar s cv b n).hostMem = s.hostMem := rfl
@[simp] theorem creditBar_shore (cv b n : Nat) : (creditBar s cv b n).shore = s.shore := rfl
@[simp] theorem creditBar_poison (cv b n : Nat) : (creditBar s cv b n).poison = s.poison := rfl
@[simp] theorem creditBar_accs (cv b n : Nat) : (creditBar s cv b n).accs = s.accs := rfl
@[simp] theorem creditBar_nextId (cv b n : Nat) : (creditBar s cv b n).nextId = s.nextId := rfl
@[simp] theorem creditBar_nextWave (cv b n : Nat) : (creditBar s cv b n).nextWave = s.nextWave := rfl
@[simp] theorem creditBar_wire (cv b n : Nat) : (creditBar s cv b n).wire = s.wire := rfl
@[simp] theorem creditBar_credits (cv b n : Nat) : (creditBar s cv b n).credits = s.credits := rfl
@[simp] theorem creditBar_tlb (cv b n : Nat) : (creditBar s cv b n).tlb = s.tlb := rfl
@[simp] theorem creditBar_walks (cv b n : Nat) : (creditBar s cv b n).walks = s.walks := rfl
@[simp] theorem creditBar_recs (cv b n : Nat) : (creditBar s cv b n).recs = s.recs := rfl
@[simp] theorem creditBar_fatals (cv b n : Nat) : (creditBar s cv b n).fatals = s.fatals := rfl
@[simp] theorem creditBar_fences (cv b n : Nat) : (creditBar s cv b n).fences = s.fences := rfl
@[simp] theorem creditBar_told (cv b n : Nat) : (creditBar s cv b n).told = s.told := rfl
@[simp] theorem creditBar_logs (cv b n : Nat) : (creditBar s cv b n).logs = s.logs := rfl
@[simp] theorem creditBar_jobs (cv b n : Nat) : (creditBar s cv b n).jobs = s.jobs := rfl
@[simp] theorem creditBar_nextJob (cv b n : Nat) : (creditBar s cv b n).nextJob = s.nextJob := rfl
@[simp] theorem creditBar_earb (cv b n : Nat) : (creditBar s cv b n).earb = s.earb := rfl
@[simp] theorem creditBar_umx (cv b n : Nat) : (creditBar s cv b n).umx = s.umx := rfl
@[simp] theorem creditBar_arrs (cv b n : Nat) : (creditBar s cv b n).arrs = s.arrs := rfl
@[simp] theorem creditBar_grpMsgs (cv b n : Nat) : (creditBar s cv b n).grpMsgs = s.grpMsgs := rfl
@[simp] theorem creditBar_peersDown (cv b n : Nat) : (creditBar s cv b n).peersDown = s.peersDown := rfl
@[simp] theorem creditBar_ras (cv b n : Nat) : (creditBar s cv b n).ras = s.ras := rfl
@[simp] theorem creditBar_power (cv b n : Nat) : (creditBar s cv b n).power = s.power := rfl
@[simp] theorem creditBar_ckpt (cv b n : Nat) : (creditBar s cv b n).ckpt = s.ckpt := rfl
@[simp] theorem creditBar_ckptQ (cv b n : Nat) : (creditBar s cv b n).ckptQ = s.ckptQ := rfl

/-! ### acquire -/

@[simp] theorem acquire_clock (cv : Nat) : (acquire s cv).clock = s.clock := rfl
@[simp] theorem acquire_agenda (cv : Nat) : (acquire s cv).agenda = s.agenda := rfl
@[simp] theorem acquire_focus (cv : Nat) : (acquire s cv).focus = s.focus := rfl
@[simp] theorem acquire_turns (cv : Nat) : (acquire s cv).turns = s.turns := rfl
@[simp] theorem acquire_free (cv : Nat) : (acquire s cv).free = s.free := rfl
@[simp] theorem acquire_host (cv : Nat) : (acquire s cv).host = s.host := rfl
@[simp] theorem acquire_boot (cv : Nat) : (acquire s cv).boot = s.boot := rfl
@[simp] theorem acquire_tasks (cv : Nat) : (acquire s cv).tasks = s.tasks := rfl
@[simp] theorem acquire_res (cv : Nat) : (acquire s cv).res = s.res := rfl
@[simp] theorem acquire_parked (cv : Nat) : (acquire s cv).parked = s.parked := rfl
@[simp] theorem acquire_cells (cv : Nat) : (acquire s cv).cells = s.cells := rfl
@[simp] theorem acquire_sbs (cv : Nat) : (acquire s cv).sbs = s.sbs := rfl
@[simp] theorem acquire_sbFz (cv : Nat) : (acquire s cv).sbFz = s.sbFz := rfl
@[simp] theorem acquire_hbm (cv : Nat) : (acquire s cv).hbm = s.hbm := rfl
@[simp] theorem acquire_hostMem (cv : Nat) : (acquire s cv).hostMem = s.hostMem := rfl
@[simp] theorem acquire_shore (cv : Nat) : (acquire s cv).shore = s.shore := rfl
@[simp] theorem acquire_poison (cv : Nat) : (acquire s cv).poison = s.poison := rfl
@[simp] theorem acquire_accs (cv : Nat) : (acquire s cv).accs = s.accs := rfl
@[simp] theorem acquire_nextId (cv : Nat) : (acquire s cv).nextId = s.nextId := rfl
@[simp] theorem acquire_nextWave (cv : Nat) : (acquire s cv).nextWave = s.nextWave := rfl
@[simp] theorem acquire_wire (cv : Nat) : (acquire s cv).wire = s.wire := rfl
@[simp] theorem acquire_credits (cv : Nat) : (acquire s cv).credits = s.credits := rfl
@[simp] theorem acquire_tlb (cv : Nat) : (acquire s cv).tlb = s.tlb := rfl
@[simp] theorem acquire_walks (cv : Nat) : (acquire s cv).walks = s.walks := rfl
@[simp] theorem acquire_recs (cv : Nat) : (acquire s cv).recs = s.recs := rfl
@[simp] theorem acquire_fatals (cv : Nat) : (acquire s cv).fatals = s.fatals := rfl
@[simp] theorem acquire_fences (cv : Nat) : (acquire s cv).fences = s.fences := rfl
@[simp] theorem acquire_told (cv : Nat) : (acquire s cv).told = s.told := rfl
@[simp] theorem acquire_logs (cv : Nat) : (acquire s cv).logs = s.logs := rfl
@[simp] theorem acquire_jobs (cv : Nat) : (acquire s cv).jobs = s.jobs := rfl
@[simp] theorem acquire_nextJob (cv : Nat) : (acquire s cv).nextJob = s.nextJob := rfl
@[simp] theorem acquire_earb (cv : Nat) : (acquire s cv).earb = s.earb := rfl
@[simp] theorem acquire_umx (cv : Nat) : (acquire s cv).umx = s.umx := rfl
@[simp] theorem acquire_arrs (cv : Nat) : (acquire s cv).arrs = s.arrs := rfl
@[simp] theorem acquire_grpMsgs (cv : Nat) : (acquire s cv).grpMsgs = s.grpMsgs := rfl
@[simp] theorem acquire_peersDown (cv : Nat) : (acquire s cv).peersDown = s.peersDown := rfl
@[simp] theorem acquire_ras (cv : Nat) : (acquire s cv).ras = s.ras := rfl
@[simp] theorem acquire_power (cv : Nat) : (acquire s cv).power = s.power := rfl
@[simp] theorem acquire_ckpt (cv : Nat) : (acquire s cv).ckpt = s.ckpt := rfl
@[simp] theorem acquire_ckptQ (cv : Nat) : (acquire s cv).ckptQ = s.ckptQ := rfl

/-! ### A register of a context -/

variable (c : Ctx)

@[simp] theorem Ctx.setReg_st (r : Nat) (v : Word) : (c.setReg r v).st = c.st := rfl
@[simp] theorem Ctx.setReg_rid (r : Nat) (v : Word) : (c.setReg r v).rid = c.rid := rfl
@[simp] theorem Ctx.setReg_xcause (r : Nat) (v : Word) : (c.setReg r v).xcause = c.xcause := rfl
@[simp] theorem Ctx.setReg_xblock (r : Nat) (v : Word) : (c.setReg r v).xblock = c.xblock := rfl
@[simp] theorem Ctx.setReg_xslot (r : Nat) (v : Word) : (c.setReg r v).xslot = c.xslot := rfl
@[simp] theorem Ctx.setReg_xaddr (r : Nat) (v : Word) : (c.setReg r v).xaddr = c.xaddr := rfl
@[simp] theorem Ctx.setReg_xvec (r : Nat) (v : Word) : (c.setReg r v).xvec = c.xvec := rfl
@[simp] theorem Ctx.setReg_xvecm (r : Nat) (v : Word) : (c.setReg r v).xvecm = c.xvecm := rfl
@[simp] theorem Ctx.setReg_xscratch (r : Nat) (v : Word) : (c.setReg r v).xscratch = c.xscratch := rfl
@[simp] theorem Ctx.setReg_aie (r : Nat) (v : Word) : (c.setReg r v).aie = c.aie := rfl
@[simp] theorem Ctx.setReg_intrap (r : Nat) (v : Word) : (c.setReg r v).intrap = c.intrap := rfl
@[simp] theorem Ctx.setReg_pprv (r : Nat) (v : Word) : (c.setReg r v).pprv = c.pprv := rfl
@[simp] theorem Ctx.setReg_prv (r : Nat) (v : Word) : (c.setReg r v).prv = c.prv := rfl
@[simp] theorem Ctx.setReg_frm (r : Nat) (v : Word) : (c.setReg r v).frm = c.frm := rfl
@[simp] theorem Ctx.setReg_ff (r : Nat) (v : Word) : (c.setReg r v).ff = c.ff := rfl
@[simp] theorem Ctx.setReg_evts (r : Nat) (v : Word) : (c.setReg r v).evts = c.evts := rfl
@[simp] theorem Ctx.setReg_next (r : Nat) (v : Word) : (c.setReg r v).next = c.next := rfl
@[simp] theorem Ctx.setReg_blk (r : Nat) (v : Word) : (c.setReg r v).blk = c.blk := rfl
@[simp] theorem Ctx.setReg_back (r : Nat) (v : Word) : (c.setReg r v).back = c.back := rfl
@[simp] theorem Ctx.setReg_commits (r : Nat) (v : Word) : (c.setReg r v).commits = c.commits := rfl
@[simp] theorem Ctx.setReg_seen (r : Nat) (v : Word) : (c.setReg r v).seen = c.seen := rfl

/-- A register reads back what was written, where the table of registers is in its form. -/
theorem Ctx.reg_setReg_same (r : Nat) (v : Word) (h : Tab.rising c.g = true) : (c.setReg r v).reg r = v :=
  Tab.get_put_same 0 c.g r v h

theorem Ctx.reg_setReg_other (r q : Nat) (v : Word) (h : q ≠ r) : (c.setReg r v).reg q = c.reg q :=
  Tab.get_put_other 0 c.g r q v h

/-! ### What is written reads back -/

@[simp] theorem State.cove_setCove_same (cv : Nat) (v : Cove) : (s.setCove cv v).cove cv = v :=
  Tab.get_insert_same Cove.empty s.coves cv v

theorem State.cove_setCove_other (cv w : Nat) (v : Cove) (h : w ≠ cv) : (s.setCove cv v).cove w = s.cove w :=
  Tab.get_insert_other Cove.empty s.coves cv w v h

@[simp] theorem State.cell_setCell_same (ce : Nat) (v : Cell) : (s.setCell ce v).cell ce = v :=
  Tab.get_insert_same Cell.empty s.cells ce v

theorem State.cell_setCell_other (ce w : Nat) (v : Cell) (h : w ≠ ce) : (s.setCell ce v).cell w = s.cell w :=
  Tab.get_insert_other Cell.empty s.cells ce w v h

@[simp] theorem State.ctx_setCtx_same (x : Nat) (v : Ctx) : (s.setCtx x v).ctx x = v := by
  simp [State.ctx, State.setCtx]

theorem State.ctx_setCtx_other (x y : Nat) (v : Ctx) (h : y ≠ x) : (s.setCtx x v).ctx y = s.ctx y := by
  unfold State.ctx State.setCtx
  by_cases hc : y / 4 = x / 4
  · have hm : y % 4 ≠ x % 4 := fun hm => h (by omega)
    rw [hc, State.cove_setCove_same]
    exact Tab.get_insert_other _ _ _ _ _ hm
  · rw [State.cove_setCove_other _ _ _ _ hc]

@[simp] theorem State.node_setNode_same (n : Nat) (d : Node) : (s.setNode n d).node n = d := by
  simp [State.node, State.setNode]

@[simp] theorem State.port_setPort_same (cv p : Nat) (q : Port) : (s.setPort cv p q).port cv p = q := by
  simp [State.port, State.setPort]

@[simp] theorem State.cq_setCq_same (cv q : Nat) (c : CopyQ) : (s.setCq cv q c).cq cv q = c := by
  simp [State.cq, State.setCq]

end Sys2Proof.Machine
end

