-- ==== Sys2Proof/Laws/Addr.lean ====
section
/-!
SUPPORT. What translation and resolution may change: the translation caches and the count of free values.
-/
namespace Sys2Proof.Machine

/-- `t` is `s` but for the translation caches and the count of free values. -/
def Cached (s t : State) : Prop := ∃ l n, t = { s with tlb := l, free := n }

theorem Cached.refl (s : State) : Cached s s := ⟨s.tlb, s.free, rfl⟩

theorem Cached.trans {s t u : State} (h : Cached s t) (g : Cached t u) : Cached s u := by
  obtain ⟨l, n, rfl⟩ := h
  obtain ⟨l', n', rfl⟩ := g
  exact ⟨l', n', rfl⟩

theorem xlateDeep_cached (s : State) (u root va : Nat) (r w : Bool) : Cached s (xlateDeep s u root va r w).1 := by
  unfold xlateDeep
  dsimp only
  split
  · split <;> exact Cached.refl s
  · split
    · exact ⟨_, _, rfl⟩
    · exact Cached.refl s

theorem xlateSegs_cached (s : State) (u root va n : Nat) (r w : Bool) : Cached s (xlateSegs s u root va n r w).1 := by
  have h := xlateDeep_cached s u root va r w
  unfold xlateSegs
  dsimp only
  split
  · rename_i s1 c e; rw [e] at h; exact h
  · rename_i s1 p e
    rw [e] at h
    split
    · exact h
    · have g := xlateDeep_cached s1 u root (va + (65536 - va % 65536)) r w
      split
      · rename_i s2 c e2; rw [e2] at g; exact h.trans g
      · rename_i s2 c e2; rw [e2] at g; exact h.trans g

theorem xlatePeer_cached (s : State) (dev va n : Nat) : Cached s (xlatePeer s dev va n).1 := by
  unfold xlatePeer
  dsimp only
  split <;> exact ⟨s.tlb, _, rfl⟩

theorem resolve_cached (s : State) (rt : Rt) (u : Nat) (a : Word) (n : Nat) (r w : Bool) :
    Cached s (resolve s rt u a n r w).1 := by
  unfold resolve
  split
  · exact Cached.refl s
  · exact Cached.refl s
  · exact xlatePeer_cached _ _ _ _
  · rename_i va e
    have h := xlateSegs_cached s u rt.root va n r w
    split
    · rename_i s1 segs e2; rw [e2] at h; exact h
    · rename_i s1 segs e2; rw [e2] at h; exact h

theorem tryXl_cached (s : State) (rt : Rt) (u : Nat) (a : Word) (n : Nat) (r w : Bool) : Cached s (tryXl s rt u a n r w).1 := by
  unfold tryXl
  split
  · exact Cached.refl s
  · exact Cached.refl s
  · rename_i dev va e
    have h := xlatePeer_cached s dev va n
    split
    · rename_i s1 segs e2; rw [e2] at h; exact h
    · rename_i s1 segs e2; rw [e2] at h; exact h
  · exact Cached.refl s

theorem rdSegs_cached (s : State) (segs : List (PA × Nat)) : Cached s (rdSegs s segs).1 := by
  unfold rdSegs
  split
  · exact ⟨s.tlb, _, rfl⟩
  · exact Cached.refl s

end Sys2Proof.Machine
end

