-- ==== Sys2Proof/Laws/Encode.lean ====
section
/-!
SUPPORT. Fields of appended words, and one lemma per format of R110: the decoder reads back what the encoder writes.
-/
namespace Sys2Proof

theorem append_extract_high {n m : Nat} (x : BitVec n) (y : BitVec m) (k l : Nat) (h : m ≤ k) :
    (x ++ y).extractLsb' k l = x.extractLsb' (k - m) l := by
  ext i hi
  rw [BitVec.getElem_extractLsb', BitVec.getElem_extractLsb', BitVec.getLsbD_append, if_neg (by omega)]
  congr 1; omega

theorem append_extract_low {n m : Nat} (x : BitVec n) (y : BitVec m) (k l : Nat) (h : k + l ≤ m) :
    (x ++ y).extractLsb' k l = y.extractLsb' k l := by
  ext i hi
  rw [BitVec.getElem_extractLsb', BitVec.getElem_extractLsb', BitVec.getLsbD_append, if_pos (by omega)]

theorem append_bit_high {n m : Nat} (x : BitVec n) (y : BitVec m) (k : Nat) (h : m ≤ k) :
    (x ++ y).getLsbD k = x.getLsbD (k - m) := by
  rw [BitVec.getLsbD_append, if_neg (by omega)]

theorem append_bit_low {n m : Nat} (x : BitVec n) (y : BitVec m) (k : Nat) (h : k < m) :
    (x ++ y).getLsbD k = y.getLsbD k := by
  rw [BitVec.getLsbD_append, if_pos h]

theorem extract_whole {n : Nat} (x : BitVec n) : x.extractLsb' 0 n = x := by simp

theorem bit1_zero (b : Bool) : (bit1 b).getLsbD 0 = b := by simp [bit1]

/-! ### Slot words -/

variable (op a b p : Byte)

@[simp] theorem slotOp_word : slotOp (word op a b p) = op.toNat := by
  unfold slotOp word
  rw [append_extract_high, append_extract_high, append_extract_high, extract_whole] <;> decide

@[simp] theorem word_a : (word op a b p).extractLsb' 16 8 = a := by
  unfold word
  rw [append_extract_high, append_extract_high, append_extract_low, extract_whole] <;> decide

@[simp] theorem word_b : (word op a b p).extractLsb' 8 8 = b := by
  unfold word
  rw [append_extract_high, append_extract_low, extract_whole] <;> decide

@[simp] theorem word_p : (word op a b p).extractLsb' 0 8 = p := by
  unfold word
  rw [append_extract_low, extract_whole] <;> decide

/-- The fields of a slot word and of the EXT word after it. -/
theorem slotFields_word (op' c d m : Byte) :
    slotFields (word op a b p) (word op' c d m) =
      { a := a, b := b, p := p, o := (word op a b p).extractLsb' 8 16, i := (word op a b p).extractLsb' 0 24,
        j := (word op a b p).extractLsb' 0 16, c := c, d := d, m := m } := by
  simp [slotFields]

/-- What each format without EXT shows of its word: the row is found, and the checks pass. -/
theorem decode_plain (w : BitVec 32) (r : SlotRow) (hr : slotRow (slotOp w) = some r)
    (h0 : slotOp w ≠ 0 ∧ slotOp w ≠ 0x78) (he : r.ext = none) (ho : (r.operands (slotFields w 0)).all opOk = true)
    (hp : (!r.fmt.hasPred || predOk (slotFields w 0).p) = true) (hz : r.fieldsOk (slotFields w 0) = true) :
    decodeSlot w none = .ok (r.build (slotFields w 0)) := by
  cases hh : r.fmt.hasPred <;> simp_all [decodeSlot]

theorem op_ne (h : op ≠ 0 ∧ op ≠ 0x78) : op.toNat ≠ 0 ∧ op.toNat ≠ 0x78 :=
  ⟨fun e => h.1 (BitVec.eq_of_toNat_eq e), fun e => h.2 (BitVec.eq_of_toNat_eq e)⟩

theorem decode_f2 (r : SlotRow) (hr : slotRow op.toNat = some r) (h0 : op ≠ 0 ∧ op ≠ 0x78) (hf : r.fmt = .f2)
    (he : r.ext = none) (h : (opOk a && opOk b && predOk p) = true) :
    decodeSlot (word op a b p) none = .ok (r.build { slotFields (word op a b p) 0 with a := a, b := b, p := p }) := by
  simp only [Bool.and_eq_true] at h
  rw [decode_plain (word op a b p) r (by rwa [slotOp_word]) (by rw [slotOp_word]; exact op_ne op h0) he] <;>
    simp [SlotRow.operands, SlotRow.fieldsOk, hf, Fmt.usesA, Fmt.usesB, Fmt.hasPred, slotFields, h]

theorem decode_f1 (r : SlotRow) (hr : slotRow op.toNat = some r) (h0 : op ≠ 0 ∧ op ≠ 0x78) (hf : r.fmt = .f1)
    (he : r.ext = none) (h : (opOk a && predOk p) = true) :
    decodeSlot (word op a 0 p) none = .ok (r.build { slotFields (word op a 0 p) 0 with a := a, p := p }) := by
  simp only [Bool.and_eq_true] at h
  rw [decode_plain (word op a 0 p) r (by rwa [slotOp_word]) (by rw [slotOp_word]; exact op_ne op h0) he] <;>
    simp [SlotRow.operands, SlotRow.fieldsOk, hf, Fmt.usesA, Fmt.usesB, Fmt.hasPred, slotFields, h]

theorem decode_f0 (r : SlotRow) (hr : slotRow op.toNat = some r) (h0 : op ≠ 0 ∧ op ≠ 0x78) (hf : r.fmt = .f0)
    (he : r.ext = none) (h : predOk p = true) :
    decodeSlot (word op 0 0 p) none = .ok (r.build { slotFields (word op 0 0 p) 0 with p := p }) := by
  rw [decode_plain (word op 0 0 p) r (by rwa [slotOp_word]) (by rw [slotOp_word]; exact op_ne op h0) he] <;>
    simp [SlotRow.operands, SlotRow.fieldsOk, hf, Fmt.usesA, Fmt.usesB, Fmt.hasPred, slotFields, h]

theorem decode_rb (r : SlotRow) (hr : slotRow op.toNat = some r) (h0 : op ≠ 0 ∧ op ≠ 0x78) (hf : r.fmt = .rb)
    (he : r.ext = none) (h : (rawOk r.raw.1 r.raw.2 b && predOk p) = true) :
    decodeSlot (word op 0 b p) none = .ok (r.build { slotFields (word op 0 b p) 0 with b := b, p := p }) := by
  simp only [Bool.and_eq_true] at h
  rw [decode_plain (word op 0 b p) r (by rwa [slotOp_word]) (by rw [slotOp_word]; exact op_ne op h0) he] <;>
    simp [SlotRow.operands, SlotRow.fieldsOk, hf, Fmt.usesA, Fmt.usesB, Fmt.hasPred, slotFields, h]

theorem decode_ar (r : SlotRow) (hr : slotRow op.toNat = some r) (h0 : op ≠ 0 ∧ op ≠ 0x78) (hf : r.fmt = .ar)
    (he : r.ext = none) (h : (opOk a && rawOk r.raw.1 r.raw.2 b && predOk p) = true) :
    decodeSlot (word op a b p) none = .ok (r.build { slotFields (word op a b p) 0 with a := a, b := b, p := p }) := by
  simp only [Bool.and_eq_true] at h
  rw [decode_plain (word op a b p) r (by rwa [slotOp_word]) (by rw [slotOp_word]; exact op_ne op h0) he] <;>
    simp [SlotRow.operands, SlotRow.fieldsOk, hf, Fmt.usesA, Fmt.usesB, Fmt.hasPred, slotFields, h]

/-- A slot word with an EXT word behind it. -/
theorem decode_ext (c d m : Byte) (r : SlotRow) (u : ExtUse) (hr : slotRow op.toNat = some r) (h0 : op ≠ 0 ∧ op ≠ 0x78)
    (he : r.ext = some u) (ho : (r.operands (slotFields (word op a b p) (word 0x78 c d m))).all opOk = true)
    (hp : r.fmt.hasPred = true ∧ predOk p = true) (hc : (!u.c || opOk c) = true)
    (hz : (r.fieldsOk (slotFields (word op a b p) (word 0x78 c d m)) &&
      u.fieldsOk (slotFields (word op a b p) (word 0x78 c d m))) = true) :
    decodeSlot (word op a b p) (some (word 0x78 c d m)) =
      .ok (r.build (slotFields (word op a b p) (word 0x78 c d m))) := by
  have ⟨h1, h2⟩ := op_ne op h0
  have hq : (slotFields (word op a b p) (word 0x78 c d m)).p = p := word_p op a b p
  have hc' : (slotFields (word op a b p) (word 0x78 c d m)).c = c := word_a 0x78 c d m
  cases hu : u.c <;> simp_all [decodeSlot]

theorem decode_fx (c d m : Byte) (r : SlotRow) (u : ExtUse) (hr : slotRow op.toNat = some r) (h0 : op ≠ 0 ∧ op ≠ 0x78)
    (hf : r.fmt = .fx) (he : r.ext = some u)
    (h : (opOk a && opOk b && predOk p && ((!u.c || opOk c) && (u.c || c == 0) && rawOk 0 u.d d && rawOk 0 u.m m)) = true) :
    decodeSlot (word op a b p) (some (word 0x78 c d m)) = .ok (r.build
      { slotFields (word op a b p) (word 0x78 c d m) with a := a, b := b, p := p, c := c, d := d, m := m }) := by
  simp only [Bool.and_eq_true] at h
  have hc := h.2.1.1.2
  rw [decode_ext op a b p c d m r u hr h0 he] <;>
    simp_all [SlotRow.operands, SlotRow.fieldsOk, ExtUse.fieldsOk, Fmt.usesA, Fmt.usesB, Fmt.hasPred, slotFields]

/-! ### Slot words with a long field -/

@[simp] theorem slotOp_long (o : BitVec 24) : slotOp (op ++ o) = op.toNat := by
  unfold slotOp
  rw [append_extract_high, extract_whole]; decide

@[simp] theorem slotOp_offset (o : BitVec 16) : slotOp ((op ++ o) ++ p) = op.toNat := by
  unfold slotOp
  rw [append_extract_high, append_extract_high, extract_whole] <;> decide

@[simp] theorem offset_o (o : BitVec 16) : ((op ++ o) ++ p).extractLsb' 8 16 = o := by
  rw [append_extract_high, append_extract_low, extract_whole] <;> decide

@[simp] theorem offset_p (o : BitVec 16) : ((op ++ o) ++ p).extractLsb' 0 8 = p := by
  rw [append_extract_low, extract_whole]; decide

theorem decode_off (o : BitVec 16) (r : SlotRow) (hr : slotRow op.toNat = some r) (h0 : op ≠ 0 ∧ op ≠ 0x78)
    (hf : r.fmt = .br ∨ r.fmt = .pool ∨ r.fmt = .code) (he : r.ext = none) (h : predOk p = true) :
    decodeSlot ((op ++ o) ++ p) none = .ok (r.build { slotFields ((op ++ o) ++ p) 0 with o := o, p := p }) := by
  rw [decode_plain ((op ++ o) ++ p) r (by rwa [slotOp_offset]) (by rw [slotOp_offset]; exact op_ne op h0) he] <;>
    rcases hf with hf | hf | hf <;>
    simp [SlotRow.operands, SlotRow.fieldsOk, hf, Fmt.usesA, Fmt.usesB, Fmt.hasPred, slotFields, h]

theorem decode_imm (i : BitVec 24) : decodeSlot ((0x28 : Byte) ++ i) none = .ok (.imm i) := by
  rw [decode_plain ((0x28 : Byte) ++ i) ⟨0x28, .imm, (0, 0), none, fun f => .imm f.i⟩ (by rw [slotOp_long]; rfl)
    (by rw [slotOp_long]; decide) rfl rfl rfl rfl]
  simp only [slotFields]
  rw [append_extract_low, extract_whole]; decide

@[simp] theorem slotOp_high (i : BitVec 16) : slotOp (op ++ a ++ i) = op.toNat := by
  unfold slotOp
  rw [append_extract_high, append_extract_high, extract_whole] <;> decide

@[simp] theorem high_a (i : BitVec 16) : (op ++ a ++ i).extractLsb' 16 8 = a := by
  rw [append_extract_high, append_extract_low, extract_whole] <;> decide

@[simp] theorem high_i (i : BitVec 16) : (op ++ a ++ i).extractLsb' 0 16 = i := by
  rw [append_extract_low, extract_whole]; decide

theorem decode_immh (i : BitVec 16) (r : SlotRow) (hr : slotRow op.toNat = some r) (h0 : op ≠ 0 ∧ op ≠ 0x78)
    (hf : r.fmt = .immh) (he : r.ext = none) (h : opOk a = true) :
    decodeSlot (op ++ a ++ i) none = .ok (r.build { slotFields (op ++ a ++ i) 0 with a := a, j := i }) := by
  rw [decode_plain (op ++ a ++ i) r (by rwa [slotOp_high]) (by rw [slotOp_high]; exact op_ne op h0) he] <;>
    simp [SlotRow.operands, SlotRow.fieldsOk, hf, Fmt.usesA, Fmt.usesB, Fmt.hasPred, slotFields, h]

theorem decode_call (o : BitVec 16) (c d : Byte) (r : SlotRow) (hr : slotRow op.toNat = some r) (h0 : op ≠ 0 ∧ op ≠ 0x78)
    (hf : r.fmt = .call) (he : r.ext = some ⟨true, 63, 0⟩) (h : (predOk p && opOk c && rawOk 0 63 d) = true) :
    decodeSlot ((op ++ o) ++ p) (some (word 0x78 c d 0)) =
      .ok (r.build { slotFields ((op ++ o) ++ p) 0 with o := o, p := p, c := c, d := d }) := by
  simp only [Bool.and_eq_true] at h
  have ⟨h1, h2⟩ := op_ne op h0
  simp [decodeSlot, hr, h1, h2, SlotRow.operands, SlotRow.fieldsOk, ExtUse.fieldsOk, hf, he, Fmt.usesA, Fmt.usesB, Fmt.hasPred,
    slotFields, h]
  rfl

/-! ### Commands and node words -/

theorem decode_cmd (sop : Byte) (c : CmdW) (r : Nat × (CmdW → Instr))
    (hr : (cmdRows.find? fun r => r.1 == sop.toNat) = some r) : decodeCmd (cmdWord sop c) = .ok (r.2 c) := by
  have ho : cmdSop (cmdWord sop c) = sop.toNat := by
    unfold cmdSop cmdWord
    rw [append_extract_high, append_extract_high, append_extract_high, append_extract_high, extract_whole] <;> decide
  have hf : cmdFields (cmdWord sop c) = c := by
    cases c
    unfold cmdFields cmdWord
    simp only [CmdW.mk.injEq]
    refine ⟨?_, ?_, ?_, ?_⟩ <;>
      repeat (first
        | with_reducible exact extract_whole _
        | rw [append_extract_high _ _ _ _ (by decide)]
        | rw [append_extract_low _ _ _ _ (by decide)])
  simp [decodeCmd, ho, hr, hf]

theorem nodeFields_word (n : NodeW) : nodeFields (nodeWord op n) = n := by
  cases n
  unfold nodeFields nodeWord
  simp only [NodeW.mk.injEq]
  refine ⟨?_, ?_, ?_, ?_, ?_, ?_, ?_, ?_, ?_, ?_, ?_, ?_, ?_, ?_, ?_⟩ <;>
    repeat (first
      | with_reducible exact extract_whole _
      | with_reducible exact bit1_zero _
      | rw [append_extract_high _ _ _ _ (by decide)]
      | rw [append_extract_low _ _ _ _ (by decide)]
      | rw [append_bit_high _ _ _ (by decide)]
      | rw [append_bit_low _ _ _ (by decide)])

theorem nodeOpc_word (n : NodeW) : nodeOpc (nodeWord op n) = op.toNat := by
  unfold nodeOpc nodeWord
  refine congrArg BitVec.toNat ?_
  repeat (first | with_reducible exact extract_whole _ | rw [append_extract_high _ _ _ _ (by decide)])

theorem nodeWord_zero (n : NodeW) : (nodeWord op n).getLsbD 100 = false := by
  unfold nodeWord
  repeat (first
    | rw [append_bit_high _ _ _ (by decide)]
    | rw [append_bit_low _ _ _ (by decide)])
  decide

theorem decode_node (n : NodeW) (i : Instr) (hi : nodeInstr op.toNat n = some i) (h : n.wf = true) :
    decodeNode (nodeWord op n) = .ok i := by
  unfold NodeW.wf at h
  simp only [Bool.and_eq_true] at h
  unfold decodeNode
  simp only [nodeFields_word, nodeOpc_word, nodeWord_zero, hi, h]
  simp

end Sys2Proof
end

