-- ==== Sys2Proof/Laws/PerInstr.lean ====
section
/-!
SUPPORT. The family RoundTrip: what the encoder writes for a well-formed instruction the decoder reads back, one lemma per
constructor.
-/
namespace Sys2Proof.Laws.RoundTrip

/-- Decoding the encoded form of a well-formed instruction gives the instruction back. An event has no encoded form. -/
def Statement (i : Instr) : Prop :=
  i.wf = true → encode i ≠ .event → decode (encode i) = .ok i

theorem add a b p : Statement (.add a b p) := fun h _ => decode_f2 0x01 a b p _ rfl (by decide) rfl rfl h
theorem sub a b p : Statement (.sub a b p) := fun h _ => decode_f2 0x02 a b p _ rfl (by decide) rfl rfl h
theorem mul a b p : Statement (.mul a b p) := fun h _ => decode_f2 0x03 a b p _ rfl (by decide) rfl rfl h
theorem mulh a b p : Statement (.mulh a b p) := fun h _ => decode_f2 0x04 a b p _ rfl (by decide) rfl rfl h
theorem mulhn a b p : Statement (.mulhn a b p) := fun h _ => decode_f2 0x05 a b p _ rfl (by decide) rfl rfl h
theorem div a b p : Statement (.div a b p) := fun h _ => decode_f2 0x06 a b p _ rfl (by decide) rfl rfl h
theorem divn a b p : Statement (.divn a b p) := fun h _ => decode_f2 0x07 a b p _ rfl (by decide) rfl rfl h
theorem rem a b p : Statement (.rem a b p) := fun h _ => decode_f2 0x08 a b p _ rfl (by decide) rfl rfl h
theorem remn a b p : Statement (.remn a b p) := fun h _ => decode_f2 0x09 a b p _ rfl (by decide) rfl rfl h
theorem and a b p : Statement (.and a b p) := fun h _ => decode_f2 0x0A a b p _ rfl (by decide) rfl rfl h
theorem or a b p : Statement (.or a b p) := fun h _ => decode_f2 0x0B a b p _ rfl (by decide) rfl rfl h
theorem xor a b p : Statement (.xor a b p) := fun h _ => decode_f2 0x0C a b p _ rfl (by decide) rfl rfl h
theorem andn a b p : Statement (.andn a b p) := fun h _ => decode_f2 0x0D a b p _ rfl (by decide) rfl rfl h
theorem shl a b p : Statement (.shl a b p) := fun h _ => decode_f2 0x0E a b p _ rfl (by decide) rfl rfl h
theorem shr a b p : Statement (.shr a b p) := fun h _ => decode_f2 0x0F a b p _ rfl (by decide) rfl rfl h
theorem sar a b p : Statement (.sar a b p) := fun h _ => decode_f2 0x10 a b p _ rfl (by decide) rfl rfl h
theorem rol a b p : Statement (.rol a b p) := fun h _ => decode_f2 0x11 a b p _ rfl (by decide) rfl rfl h
theorem min a b p : Statement (.min a b p) := fun h _ => decode_f2 0x12 a b p _ rfl (by decide) rfl rfl h
theorem max a b p : Statement (.max a b p) := fun h _ => decode_f2 0x13 a b p _ rfl (by decide) rfl rfl h
theorem minn a b p : Statement (.minn a b p) := fun h _ => decode_f2 0x14 a b p _ rfl (by decide) rfl rfl h
theorem maxn a b p : Statement (.maxn a b p) := fun h _ => decode_f2 0x15 a b p _ rfl (by decide) rfl rfl h
theorem sext a b p : Statement (.sext a b p) := fun h _ => decode_f2 0x18 a b p _ rfl (by decide) rfl rfl h
theorem zext a b p : Statement (.zext a b p) := fun h _ => decode_f2 0x19 a b p _ rfl (by decide) rfl rfl h
theorem cmpEq a b p : Statement (.cmpEq a b p) := fun h _ => decode_f2 0x20 a b p _ rfl (by decide) rfl rfl h
theorem cmpNe a b p : Statement (.cmpNe a b p) := fun h _ => decode_f2 0x21 a b p _ rfl (by decide) rfl rfl h
theorem cmpLt a b p : Statement (.cmpLt a b p) := fun h _ => decode_f2 0x22 a b p _ rfl (by decide) rfl rfl h
theorem cmpLe a b p : Statement (.cmpLe a b p) := fun h _ => decode_f2 0x23 a b p _ rfl (by decide) rfl rfl h
theorem cmpLtn a b p : Statement (.cmpLtn a b p) := fun h _ => decode_f2 0x24 a b p _ rfl (by decide) rfl rfl h
theorem cmpLen a b p : Statement (.cmpLen a b p) := fun h _ => decode_f2 0x25 a b p _ rfl (by decide) rfl rfl h
theorem test a b p : Statement (.test a b p) := fun h _ => decode_f2 0x26 a b p _ rfl (by decide) rfl rfl h
theorem rdx a b p : Statement (.rdx a b p) := fun h _ => decode_f2 0x2B a b p _ rfl (by decide) rfl rfl h
theorem fadd a b p : Statement (.fadd a b p) := fun h _ => decode_f2 0x30 a b p _ rfl (by decide) rfl rfl h
theorem fsub a b p : Statement (.fsub a b p) := fun h _ => decode_f2 0x31 a b p _ rfl (by decide) rfl rfl h
theorem fmul a b p : Statement (.fmul a b p) := fun h _ => decode_f2 0x32 a b p _ rfl (by decide) rfl rfl h
theorem fdiv a b p : Statement (.fdiv a b p) := fun h _ => decode_f2 0x34 a b p _ rfl (by decide) rfl rfl h
theorem fmin a b p : Statement (.fmin a b p) := fun h _ => decode_f2 0x36 a b p _ rfl (by decide) rfl rfl h
theorem fmax a b p : Statement (.fmax a b p) := fun h _ => decode_f2 0x37 a b p _ rfl (by decide) rfl rfl h
theorem ldB a b p : Statement (.ldB a b p) := fun h _ => decode_f2 0x40 a b p _ rfl (by decide) rfl rfl h
theorem ldH a b p : Statement (.ldH a b p) := fun h _ => decode_f2 0x41 a b p _ rfl (by decide) rfl rfl h
theorem ldW a b p : Statement (.ldW a b p) := fun h _ => decode_f2 0x42 a b p _ rfl (by decide) rfl rfl h
theorem ldD a b p : Statement (.ldD a b p) := fun h _ => decode_f2 0x43 a b p _ rfl (by decide) rfl rfl h
theorem ldnB a b p : Statement (.ldnB a b p) := fun h _ => decode_f2 0x44 a b p _ rfl (by decide) rfl rfl h
theorem ldnH a b p : Statement (.ldnH a b p) := fun h _ => decode_f2 0x45 a b p _ rfl (by decide) rfl rfl h
theorem ldnW a b p : Statement (.ldnW a b p) := fun h _ => decode_f2 0x46 a b p _ rfl (by decide) rfl rfl h
theorem stB a b p : Statement (.stB a b p) := fun h _ => decode_f2 0x47 a b p _ rfl (by decide) rfl rfl h
theorem stH a b p : Statement (.stH a b p) := fun h _ => decode_f2 0x48 a b p _ rfl (by decide) rfl rfl h
theorem stW a b p : Statement (.stW a b p) := fun h _ => decode_f2 0x49 a b p _ rfl (by decide) rfl rfl h
theorem stD a b p : Statement (.stD a b p) := fun h _ => decode_f2 0x4A a b p _ rfl (by decide) rfl rfl h
theorem signal a b p : Statement (.signal a b p) := fun h _ => decode_f2 0x62 a b p _ rfl (by decide) rfl rfl h
theorem bbarm a b p : Statement (.bbarm a b p) := fun h _ => decode_f2 0x66 a b p _ rfl (by decide) rfl rfl h
theorem scmd a b p : Statement (.scmd a b p) := fun h _ => decode_f2 0x68 a b p _ rfl (by decide) rfl rfl h
theorem xlate a b p : Statement (.xlate a b p) := fun h _ => decode_f2 0x75 a b p _ rfl (by decide) rfl rfl h
theorem clz a p : Statement (.clz a p) := fun h _ => decode_f1 0x16 a p _ rfl (by decide) rfl rfl h
theorem popc a p : Statement (.popc a p) := fun h _ => decode_f1 0x17 a p _ rfl (by decide) rfl rfl h
theorem fsqrt a p : Statement (.fsqrt a p) := fun h _ => decode_f1 0x35 a p _ rfl (by decide) rfl rfl h
theorem fclass a p : Statement (.fclass a p) := fun h _ => decode_f1 0x3A a p _ rfl (by decide) rfl rfl h
theorem pref a p : Statement (.pref a p) := fun h _ => decode_f1 0x4C a p _ rfl (by decide) rfl rfl h
theorem bri a p : Statement (.bri a p) := fun h _ => decode_f1 0x59 a p _ rfl (by decide) rfl rfl h
theorem ret a p : Statement (.ret a p) := fun h _ => decode_f1 0x5B a p _ rfl (by decide) rfl rfl h
theorem wait a p : Statement (.wait a p) := fun h _ => decode_f1 0x61 a p _ rfl (by decide) rfl rfl h
theorem bar a p : Statement (.bar a p) := fun h _ => decode_f1 0x63 a p _ rfl (by decide) rfl rfl h
theorem qpop a p : Statement (.qpop a p) := fun h _ => decode_f1 0x64 a p _ rfl (by decide) rfl rfl h
theorem sqry a p : Statement (.sqry a p) := fun h _ => decode_f1 0x6A a p _ rfl (by decide) rfl rfl h
theorem bext a b p c : Statement (.bext a b p c) := fun h _ => decode_fx 0x1A a b p c 0 0 _ _ rfl (by decide) rfl rfl (by simpa [Instr.wf, rawOk, Bool.and_assoc] using h)
theorem bins a b p c : Statement (.bins a b p c) := fun h _ => decode_fx 0x1B a b p c 0 0 _ _ rfl (by decide) rfl rfl (by simpa [Instr.wf, rawOk, Bool.and_assoc] using h)
theorem sel a b p c : Statement (.sel a b p c) := fun h _ => decode_fx 0x1C a b p c 0 0 _ _ rfl (by decide) rfl rfl (by simpa [Instr.wf, rawOk, Bool.and_assoc] using h)
theorem ffma a b p c : Statement (.ffma a b p c) := fun h _ => decode_fx 0x33 a b p c 0 0 _ _ rfl (by decide) rfl rfl (by simpa [Instr.wf, rawOk, Bool.and_assoc] using h)
theorem qpush a b p c : Statement (.qpush a b p c) := fun h _ => decode_fx 0x65 a b p c 0 0 _ _ rfl (by decide) rfl rfl (by simpa [Instr.wf, rawOk, Bool.and_assoc] using h)
theorem fcmp a b p m : Statement (.fcmp a b p m) := fun h _ => decode_fx 0x38 a b p 0 0 m _ _ rfl (by decide) rfl rfl (by simpa [Instr.wf, rawOk, Bool.and_assoc] using h)
theorem fcvt a b p m : Statement (.fcvt a b p m) := fun h _ => decode_fx 0x39 a b p 0 0 m _ _ rfl (by decide) rfl rfl (by simpa [Instr.wf, rawOk, Bool.and_assoc] using h)
theorem aadd a b p d : Statement (.aadd a b p d) := fun h _ => decode_fx 0x50 a b p 0 d 0 _ _ rfl (by decide) rfl rfl (by simpa [Instr.wf, rawOk, Bool.and_assoc] using h)
theorem aand a b p d : Statement (.aand a b p d) := fun h _ => decode_fx 0x51 a b p 0 d 0 _ _ rfl (by decide) rfl rfl (by simpa [Instr.wf, rawOk, Bool.and_assoc] using h)
theorem aor a b p d : Statement (.aor a b p d) := fun h _ => decode_fx 0x52 a b p 0 d 0 _ _ rfl (by decide) rfl rfl (by simpa [Instr.wf, rawOk, Bool.and_assoc] using h)
theorem axor a b p d : Statement (.axor a b p d) := fun h _ => decode_fx 0x53 a b p 0 d 0 _ _ rfl (by decide) rfl rfl (by simpa [Instr.wf, rawOk, Bool.and_assoc] using h)
theorem amin a b p d : Statement (.amin a b p d) := fun h _ => decode_fx 0x54 a b p 0 d 0 _ _ rfl (by decide) rfl rfl (by simpa [Instr.wf, rawOk, Bool.and_assoc] using h)
theorem amax a b p d : Statement (.amax a b p d) := fun h _ => decode_fx 0x55 a b p 0 d 0 _ _ rfl (by decide) rfl rfl (by simpa [Instr.wf, rawOk, Bool.and_assoc] using h)
theorem axchg a b p d : Statement (.axchg a b p d) := fun h _ => decode_fx 0x56 a b p 0 d 0 _ _ rfl (by decide) rfl rfl (by simpa [Instr.wf, rawOk, Bool.and_assoc] using h)
theorem acas a b p c d : Statement (.acas a b p c d) := fun h _ => decode_fx 0x57 a b p c d 0 _ _ rfl (by decide) rfl rfl (by simpa [Instr.wf, rawOk, Bool.and_assoc] using h)
theorem imm i : Statement (.imm i) := fun _ _ => decode_imm i
theorem immh a i : Statement (.immh a i) := fun h _ => decode_immh 0x29 a i _ rfl (by decide) rfl rfl h
theorem rds r p : Statement (.rds r p) := fun h _ => decode_rb 0x2A r p _ rfl (by decide) rfl rfl h
theorem fence r p : Statement (.fence r p) := fun h _ => decode_rb 0x60 r p _ rfl (by decide) rfl rfl h
theorem rdcsr r p : Statement (.rdcsr r p) := fun h _ => decode_rb 0x72 r p _ rfl (by decide) rfl rfl h
theorem put a r p : Statement (.put a r p) := fun h _ => decode_ar 0x5C a r p _ rfl (by decide) rfl rfl h
theorem wrcsr a r p : Statement (.wrcsr a r p) := fun h _ => decode_ar 0x73 a r p _ rfl (by decide) rfl rfl h
theorem br o p : Statement (.br o p) := fun h _ => decode_off 0x58 p o _ rfl (by decide) (by decide) rfl h
theorem yield o p : Statement (.yield o p) := fun h _ => decode_off 0x5D p o _ rfl (by decide) (by decide) rfl h
theorem call o p c d : Statement (.call o p c d) := fun h _ => decode_call 0x5A p o c d _ rfl (by decide) rfl rfl h
theorem ldr o p : Statement (.ldr o p) := fun h _ => decode_off 0x4B p o _ rfl (by decide) (by decide) rfl h
theorem scmdk o p : Statement (.scmdk o p) := fun h _ => decode_off 0x69 p o _ rfl (by decide) (by decide) rfl h
theorem trap o p : Statement (.trap o p) := fun h _ => decode_off 0x70 p o _ rfl (by decide) (by decide) rfl h
theorem sys o p : Statement (.sys o p) := fun h _ => decode_off 0x71 p o _ rfl (by decide) (by decide) rfl h
theorem halt p : Statement (.halt p) := fun h _ => decode_f0 0x5E p _ rfl (by decide) rfl rfl h
theorem eret p : Statement (.eret p) := fun h _ => decode_f0 0x74 p _ rfl (by decide) rfl rfl h
theorem bindAff (c : CmdW) : Statement (.bindAff c) := fun _ _ => decode_cmd 0x01 c _ rfl
theorem bindInd (c : CmdW) : Statement (.bindInd c) := fun _ _ => decode_cmd 0x02 c _ rfl
theorem bindScat (c : CmdW) : Statement (.bindScat c) := fun _ _ => decode_cmd 0x03 c _ rfl
theorem bindShore (c : CmdW) : Statement (.bindShore c) := fun _ _ => decode_cmd 0x04 c _ rfl
theorem unbind (c : CmdW) : Statement (.unbind c) := fun _ _ => decode_cmd 0x05 c _ rfl
theorem armCopy (c : CmdW) : Statement (.armCopy c) := fun _ _ => decode_cmd 0x06 c _ rfl
theorem disarmCopy (c : CmdW) : Statement (.disarmCopy c) := fun _ _ => decode_cmd 0x07 c _ rfl
theorem cfgLoad (c : CmdW) : Statement (.cfgLoad c) := fun _ _ => decode_cmd 0x08 c _ rfl
theorem cfgSwap (c : CmdW) : Statement (.cfgSwap c) := fun _ _ => decode_cmd 0x09 c _ rfl
theorem cfgPred (c : CmdW) : Statement (.cfgPred c) := fun _ _ => decode_cmd 0x0A c _ rfl
theorem drain (c : CmdW) : Statement (.drain c) := fun _ _ => decode_cmd 0x0B c _ rfl
theorem phase (c : CmdW) : Statement (.phase c) := fun _ _ => decode_cmd 0x0C c _ rfl
theorem taskLaunch (c : CmdW) : Statement (.taskLaunch c) := fun _ _ => decode_cmd 0x0D c _ rfl
theorem taskDep (c : CmdW) : Statement (.taskDep c) := fun _ _ => decode_cmd 0x0E c _ rfl
theorem couple (c : CmdW) : Statement (.couple c) := fun _ _ => decode_cmd 0x0F c _ rfl
theorem permitAdj (c : CmdW) : Statement (.permitAdj c) := fun _ _ => decode_cmd 0x10 c _ rfl
theorem mslot (c : CmdW) : Statement (.mslot c) := fun _ _ => decode_cmd 0x11 c _ rfl
theorem sampleCfg (c : CmdW) : Statement (.sampleCfg c) := fun _ _ => decode_cmd 0x12 c _ rfl
theorem umxOpen (c : CmdW) : Statement (.umxOpen c) := fun _ _ => decode_cmd 0x13 c _ rfl
theorem umxClose (c : CmdW) : Statement (.umxClose c) := fun _ _ => decode_cmd 0x14 c _ rfl
theorem xinv (c : CmdW) : Statement (.xinv c) := fun _ _ => decode_cmd 0x15 c _ rfl
theorem fresume (c : CmdW) : Statement (.fresume c) := fun _ _ => decode_cmd 0x16 c _ rfl
theorem park (c : CmdW) : Statement (.park c) := fun _ _ => decode_cmd 0x17 c _ rfl
theorem unpark (c : CmdW) : Statement (.unpark c) := fun _ _ => decode_cmd 0x18 c _ rfl
theorem logDrain (c : CmdW) : Statement (.logDrain c) := fun _ _ => decode_cmd 0x19 c _ rfl
theorem quiesce (c : CmdW) : Statement (.quiesce c) := fun _ _ => decode_cmd 0x1A c _ rfl
theorem ckpt (c : CmdW) : Statement (.ckpt c) := fun _ _ => decode_cmd 0x1B c _ rfl
theorem shoreWin (c : CmdW) : Statement (.shoreWin c) := fun _ _ => decode_cmd 0x1C c _ rfl
theorem nodeAdd (n : NodeW) : Statement (.nodeAdd n) := fun h _ => decode_node 0x01 n _ rfl h
theorem nodeSub (n : NodeW) : Statement (.nodeSub n) := fun h _ => decode_node 0x02 n _ rfl h
theorem nodeMul (n : NodeW) : Statement (.nodeMul n) := fun h _ => decode_node 0x03 n _ rfl h
theorem nodeMulh (n : NodeW) : Statement (.nodeMulh n) := fun h _ => decode_node 0x04 n _ rfl h
theorem nodeMad (n : NodeW) : Statement (.nodeMad n) := fun h _ => decode_node 0x05 n _ rfl h
theorem nodeAbs (n : NodeW) : Statement (.nodeAbs n) := fun h _ => decode_node 0x06 n _ rfl h
theorem nodeNeg (n : NodeW) : Statement (.nodeNeg n) := fun h _ => decode_node 0x07 n _ rfl h
theorem nodeMin (n : NodeW) : Statement (.nodeMin n) := fun h _ => decode_node 0x08 n _ rfl h
theorem nodeMax (n : NodeW) : Statement (.nodeMax n) := fun h _ => decode_node 0x09 n _ rfl h
theorem nodeAnd (n : NodeW) : Statement (.nodeAnd n) := fun h _ => decode_node 0x0A n _ rfl h
theorem nodeOr (n : NodeW) : Statement (.nodeOr n) := fun h _ => decode_node 0x0B n _ rfl h
theorem nodeXor (n : NodeW) : Statement (.nodeXor n) := fun h _ => decode_node 0x0C n _ rfl h
theorem nodeNot (n : NodeW) : Statement (.nodeNot n) := fun h _ => decode_node 0x0D n _ rfl h
theorem nodeShl (n : NodeW) : Statement (.nodeShl n) := fun h _ => decode_node 0x0E n _ rfl h
theorem nodeShr (n : NodeW) : Statement (.nodeShr n) := fun h _ => decode_node 0x0F n _ rfl h
theorem nodeSar (n : NodeW) : Statement (.nodeSar n) := fun h _ => decode_node 0x10 n _ rfl h
theorem nodeClamp (n : NodeW) : Statement (.nodeClamp n) := fun h _ => decode_node 0x11 n _ rfl h
theorem nodeCmp (n : NodeW) : Statement (.nodeCmp n) := fun h _ => decode_node 0x12 n _ rfl h
theorem nodeSel (n : NodeW) : Statement (.nodeSel n) := fun h _ => decode_node 0x13 n _ rfl h
theorem nodeAdds (n : NodeW) : Statement (.nodeAdds n) := fun h _ => decode_node 0x14 n _ rfl h
theorem nodeSubs (n : NodeW) : Statement (.nodeSubs n) := fun h _ => decode_node 0x15 n _ rfl h
theorem nodeFadd (n : NodeW) : Statement (.nodeFadd n) := fun h _ => decode_node 0x30 n _ rfl h
theorem nodeFsub (n : NodeW) : Statement (.nodeFsub n) := fun h _ => decode_node 0x31 n _ rfl h
theorem nodeFmul (n : NodeW) : Statement (.nodeFmul n) := fun h _ => decode_node 0x32 n _ rfl h
theorem nodeFma (n : NodeW) : Statement (.nodeFma n) := fun h _ => decode_node 0x33 n _ rfl h
theorem nodeFmin (n : NodeW) : Statement (.nodeFmin n) := fun h _ => decode_node 0x34 n _ rfl h
theorem nodeFmax (n : NodeW) : Statement (.nodeFmax n) := fun h _ => decode_node 0x35 n _ rfl h
theorem nodeFcmp (n : NodeW) : Statement (.nodeFcmp n) := fun h _ => decode_node 0x3A n _ rfl h
theorem nodeFdiv (n : NodeW) : Statement (.nodeFdiv n) := fun h _ => decode_node 0x3B n _ rfl h
theorem frcp (n : NodeW) : Statement (.frcp n) := fun h _ => decode_node 0x36 n _ rfl h
theorem frsq (n : NodeW) : Statement (.frsq n) := fun h _ => decode_node 0x37 n _ rfl h
theorem fexp2 (n : NodeW) : Statement (.fexp2 n) := fun h _ => decode_node 0x38 n _ rfl h
theorem flog2 (n : NodeW) : Statement (.flog2 n) := fun h _ => decode_node 0x39 n _ rfl h
theorem cvt (n : NodeW) : Statement (.cvt n) := fun h _ => decode_node 0x50 n _ rfl h
theorem packb (n : NodeW) : Statement (.packb n) := fun h _ => decode_node 0x51 n _ rfl h
theorem unpackb (n : NodeW) : Statement (.unpackb n) := fun h _ => decode_node 0x52 n _ rfl h
theorem perm (n : NodeW) : Statement (.perm n) := fun h _ => decode_node 0x53 n _ rfl h
theorem reduce (n : NodeW) : Statement (.reduce n) := fun h _ => decode_node 0x54 n _ rfl h
theorem acc (n : NodeW) : Statement (.acc n) := fun h _ => decode_node 0x55 n _ rfl h
theorem scan (n : NodeW) : Statement (.scan n) := fun h _ => decode_node 0x56 n _ rfl h
theorem hdr (n : NodeW) : Statement (.hdr n) := fun h _ => decode_node 0x57 n _ rfl h
theorem splat (n : NodeW) : Statement (.splat n) := fun h _ => decode_node 0x58 n _ rfl h
theorem fork (n : NodeW) : Statement (.fork n) := fun h _ => decode_node 0x60 n _ rfl h
theorem steer (n : NodeW) : Statement (.steer n) := fun h _ => decode_node 0x61 n _ rfl h
theorem merge (n : NodeW) : Statement (.merge n) := fun h _ => decode_node 0x62 n _ rfl h
theorem mux (n : NodeW) : Statement (.mux n) := fun h _ => decode_node 0x63 n _ rfl h
theorem join (n : NodeW) : Statement (.join n) := fun h _ => decode_node 0x64 n _ rfl h
theorem gate (n : NodeW) : Statement (.gate n) := fun h _ => decode_node 0x65 n _ rfl h
theorem drop (n : NodeW) : Statement (.drop n) := fun h _ => decode_node 0x66 n _ rfl h
theorem source (n : NodeW) : Statement (.source n) := fun h _ => decode_node 0x67 n _ rfl h
theorem sink (n : NodeW) : Statement (.sink n) := fun h _ => decode_node 0x68 n _ rfl h
theorem cchain (n : NodeW) : Statement (.cchain n) := fun h _ => decode_node 0x69 n _ rfl h
theorem carry (n : NodeW) : Statement (.carry n) := fun h _ => decode_node 0x6A n _ rfl h
theorem exit (n : NodeW) : Statement (.exit n) := fun h _ => decode_node 0x6B n _ rfl h
theorem tile (n : NodeW) : Statement (.tile n) := fun h _ => decode_node 0x6C n _ rfl h
theorem isect (n : NodeW) : Statement (.isect n) := fun h _ => decode_node 0x6D n _ rfl h
theorem union (n : NodeW) : Statement (.union n) := fun h _ => decode_node 0x6E n _ rfl h
theorem ctxsel (n : NodeW) : Statement (.ctxsel n) := fun h _ => decode_node 0x6F n _ rfl h
theorem ande (n : NodeW) : Statement (.ande n) := fun h _ => decode_node 0x70 n _ rfl h
theorem ore (n : NodeW) : Statement (.ore n) := fun h _ => decode_node 0x71 n _ rfl h
theorem squash (n : NodeW) : Statement (.squash n) := fun h _ => decode_node 0x72 n _ rfl h
theorem sync (n : NodeW) : Statement (.sync n) := fun h _ => decode_node 0x73 n _ rfl h
theorem ld (n : NodeW) : Statement (.ld n) := fun h _ => decode_node 0x80 n _ rfl h
theorem st (n : NodeW) : Statement (.st n) := fun h _ => decode_node 0x81 n _ rfl h
theorem atom (n : NodeW) : Statement (.atom n) := fun h _ => decode_node 0x82 n _ rfl h
theorem pin (n : NodeW) : Statement (.pin n) := fun h _ => decode_node 0x83 n _ rfl h
theorem pout (n : NodeW) : Statement (.pout n) := fun h _ => decode_node 0x84 n _ rfl h
theorem gather (n : NodeW) : Statement (.gather n) := fun h _ => decode_node 0x85 n _ rfl h
theorem scatter (n : NodeW) : Statement (.scatter n) := fun h _ => decode_node 0x86 n _ rfl h
theorem copyfire (n : NodeW) : Statement (.copyfire n) := fun h _ => decode_node 0x87 n _ rfl h
theorem dirty (n : NodeW) : Statement (.dirty n) := fun h _ => decode_node 0x88 n _ rfl h
theorem ord (n : NodeW) : Statement (.ord n) := fun h _ => decode_node 0x89 n _ rfl h
theorem mma (n : NodeW) : Statement (.mma n) := fun h _ => decode_node 0x90 n _ rfl h
theorem mxseq (n : NodeW) : Statement (.mxseq n) := fun h _ => decode_node 0x91 n _ rfl h
theorem sortce (n : NodeW) : Statement (.sortce n) := fun h _ => decode_node 0x92 n _ rfl h
theorem topk (n : NodeW) : Statement (.topk n) := fun h _ => decode_node 0x93 n _ rfl h
theorem cumthr (n : NodeW) : Statement (.cumthr n) := fun h _ => decode_node 0x94 n _ rfl h
theorem accept (n : NodeW) : Statement (.accept n) := fun h _ => decode_node 0x95 n _ rfl h
theorem resid (n : NodeW) : Statement (.resid n) := fun h _ => decode_node 0x96 n _ rfl h
theorem umrank (n : NodeW) : Statement (.umrank n) := fun h _ => decode_node 0x97 n _ rfl h
theorem headmask (n : NodeW) : Statement (.headmask n) := fun h _ => decode_node 0x98 n _ rfl h
theorem blockFetch x0 : Statement (.blockFetch x0) := fun _ h => absurd rfl h
theorem blockCommit x0 : Statement (.blockCommit x0) := fun _ h => absurd rfl h
theorem asyncEventTake x0 : Statement (.asyncEventTake x0) := fun _ h => absurd rfl h
theorem yieldwaitEnd x0 : Statement (.yieldwaitEnd x0) := fun _ h => absurd rfl h
theorem waitTimeout x0 x1 : Statement (.waitTimeout x0 x1) := fun _ h => absurd rfl h
theorem peerArrivalMessage x0 x1 x2 x3 : Statement (.peerArrivalMessage x0 x1 x2 x3) := fun _ h => absurd rfl h
theorem tidemarkCredit x0 : Statement (.tidemarkCredit x0) := fun _ h => absurd rfl h
theorem unbindTakesEffect x0 x1 : Statement (.unbindTakesEffect x0 x1) := fun _ h => absurd rfl h
theorem checkpointDone : Statement (.checkpointDone) := fun _ h => absurd rfl h
theorem tokenArrive x0 : Statement (.tokenArrive x0) := fun _ h => absurd rfl h
theorem antiTokenArrive x0 : Statement (.antiTokenArrive x0) := fun _ h => absurd rfl h
theorem creditReturn x0 : Statement (.creditReturn x0) := fun _ h => absurd rfl h
theorem cancelFiring x0 : Statement (.cancelFiring x0) := fun _ h => absurd rfl h
theorem drainInject x0 x1 : Statement (.drainInject x0 x1) := fun _ h => absurd rfl h
theorem phaseEnd x0 : Statement (.phaseEnd x0) := fun _ h => absurd rfl h
theorem deadlockDetect x0 : Statement (.deadlockDetect x0) := fun _ h => absurd rfl h
theorem routerBlockedEscape x0 x1 : Statement (.routerBlockedEscape x0 x1) := fun _ h => absurd rfl h
theorem matrixCommandPerform x0 x1 : Statement (.matrixCommandPerform x0 x1) := fun _ h => absurd rfl h
theorem matrixEmit x0 x1 : Statement (.matrixEmit x0 x1) := fun _ h => absurd rfl h
theorem matrixTurnEnd x0 : Statement (.matrixTurnEnd x0) := fun _ h => absurd rfl h
theorem waveAccept x0 : Statement (.waveAccept x0) := fun _ h => absurd rfl h
theorem memoryReply x0 : Statement (.memoryReply x0) := fun _ h => absurd rfl h
theorem portElementIssue x0 x1 : Statement (.portElementIssue x0 x1) := fun _ h => absurd rfl h
theorem copyQueueToken x0 x1 : Statement (.copyQueueToken x0 x1) := fun _ h => absurd rfl h
theorem gatherElement x0 : Statement (.gatherElement x0) := fun _ h => absurd rfl h
theorem scatterElement x0 : Statement (.scatterElement x0) := fun _ h => absurd rfl h
theorem umxStep x0 : Statement (.umxStep x0) := fun _ h => absurd rfl h
theorem translationWalk x0 : Statement (.translationWalk x0) := fun _ h => absurd rfl h
theorem recordRelease x0 : Statement (.recordRelease x0) := fun _ h => absurd rfl h
theorem fatalFault x0 : Statement (.fatalFault x0) := fun _ h => absurd rfl h
theorem dispatchDecision : Statement (.dispatchDecision) := fun _ h => absurd rfl h
theorem priorityAging x0 : Statement (.priorityAging x0) := fun _ h => absurd rfl h
theorem candidateBlocking x0 : Statement (.candidateBlocking x0) := fun _ h => absurd rfl h
theorem taskRetire x0 : Statement (.taskRetire x0) := fun _ h => absurd rfl h
theorem watchdogExpiry x0 : Statement (.watchdogExpiry x0) := fun _ h => absurd rfl h
theorem regulatorPeriod x0 x1 : Statement (.regulatorPeriod x0 x1) := fun _ h => absurd rfl h
theorem permitWindow x0 : Statement (.permitWindow x0) := fun _ h => absurd rfl h
theorem powerStretch x0 x1 : Statement (.powerStretch x0 x1) := fun _ h => absurd rfl h
theorem thermalThrottle x0 x1 : Statement (.thermalThrottle x0 x1) := fun _ h => absurd rfl h
theorem thermalTrip : Statement (.thermalTrip) := fun _ h => absurd rfl h
theorem corrSum : Statement (.corrSum) := fun _ h => absurd rfl h
theorem uncorrectedError x0 : Statement (.uncorrectedError x0) := fun _ h => absurd rfl h
theorem patrolScrub x0 x1 x2 x3 : Statement (.patrolScrub x0 x1 x2 x3) := fun _ h => absurd rfl h
theorem rowSpared x0 x1 : Statement (.rowSpared x0 x1) := fun _ h => absurd rfl h
theorem bucketDecay : Statement (.bucketDecay) := fun _ h => absurd rfl h
theorem linkDown x0 : Statement (.linkDown x0) := fun _ h => absurd rfl h
theorem peerLinkUp x0 : Statement (.peerLinkUp x0) := fun _ h => absurd rfl h
theorem peerRequest x0 : Statement (.peerRequest x0) := fun _ h => absurd rfl h
theorem hostMemoryAccess x0 x1 x2 : Statement (.hostMemoryAccess x0 x1 x2) := fun _ h => absurd rfl h
theorem launch x0 x1 : Statement (.launch x0 x1) := fun _ h => absurd rfl h
theorem evtail x0 : Statement (.evtail x0) := fun _ h => absurd rfl h
theorem eventEntry : Statement (.eventEntry) := fun _ h => absurd rfl h
theorem registerWrite x0 x1 : Statement (.registerWrite x0 x1) := fun _ h => absurd rfl h
theorem reset x0 : Statement (.reset x0) := fun _ h => absurd rfl h
theorem getVersion : Statement (.getVersion) := fun _ h => absurd rfl h
theorem getCapabilities : Statement (.getCapabilities) := fun _ h => absurd rfl h
theorem negotiateAlgorithms : Statement (.negotiateAlgorithms) := fun _ h => absurd rfl h
theorem getDigests : Statement (.getDigests) := fun _ h => absurd rfl h
theorem getCertificate x0 : Statement (.getCertificate x0) := fun _ h => absurd rfl h
theorem challenge x0 x1 : Statement (.challenge x0 x1) := fun _ h => absurd rfl h
theorem getMeasurements x0 : Statement (.getMeasurements x0) := fun _ h => absurd rfl h
theorem unsupportedRequest x0 : Statement (.unsupportedRequest x0) := fun _ h => absurd rfl h
theorem imageTransfer x0 : Statement (.imageTransfer x0) := fun _ h => absurd rfl h
theorem repairMapRewrite x0 : Statement (.repairMapRewrite x0) := fun _ h => absurd rfl h
theorem hcmd1Write x0 : Statement (.hcmd1Write x0) := fun _ h => absurd rfl h
theorem clockStretchingEnd x0 x1 : Statement (.clockStretchingEnd x0 x1) := fun _ h => absurd rfl h

end Sys2Proof.Laws.RoundTrip
end

