-- ==== Sys2Proof/Laws/Slots.lean ====
section
/-!
SUPPORT. The shared step of a slot: what it answers once its predicate holds and its operands are there, and what writing a slot leaves
alone.
-/
namespace Sys2Proof.Machine

variable {s : State} {x k : Nat} {b : Blk} {p : Byte}

/-- Writing a slot writes the context that holds it. -/
theorem setSlot_eq (h : (s.ctx x).blk = some b) (t : SlotSt) :
    setSlot s x k t = s.setCtx x { s.ctx x with blk := some { b with slots := Tab.insert b.slots k t } } := by
  simp [setSlot, h]

theorem slotAt_setSlot_same (h : (s.ctx x).blk = some b) (t : SlotSt) : slotAt (setSlot s x k t) x k = some t := by
  rw [setSlot_eq h]
  simp [slotAt, Blk.slot]

theorem cove_outside_setCtx (s : State) (x : Nat) (c : Ctx) (cv : Nat) :
    { (s.setCtx x c).cove cv with ctxs := [] } = { s.cove cv with ctxs := [] } := by
  unfold State.setCtx
  by_cases h : cv = x / 4
  · subst h; simp
  · rw [State.cove_setCove_other _ _ _ _ h]

/-- Writing a slot changes nothing but that slot. -/
theorem onlySlot_setSlot (h : (s.ctx x).blk = some b) (t : SlotSt) : OnlySlot s (setSlot s x k t) x k := by
  rw [setSlot_eq h]
  have hc : ∀ y, y ≠ x → (s.setCtx x { s.ctx x with blk := some { b with slots := Tab.insert b.slots k t } }).ctx y = s.ctx y :=
    fun y hy => State.ctx_setCtx_other _ _ _ _ hy
  refine ⟨fun a => ⟨rfl, rfl, rfl⟩, ?_, ?_, ?_, ?_, fun cv => cove_outside_setCtx s x _ cv, rfl⟩
  · intro y r
    by_cases hy : y = x
    · subst hy; simp [Ctx.reg]
    · rw [hc y hy]
  · intro y
    by_cases hy : y = x
    · subst hy; simp [Ctx.outside]
    · rw [hc y hy]
  · intro y
    by_cases hy : y = x
    · subst hy; simp [Blk.outside, h]
    · rw [hc y hy]
  · intro y j hj
    unfold slotAt
    by_cases hy : y = x
    · subst hy
      have hjk : j ≠ k := fun e => hj ⟨rfl, e⟩
      simp [h, Blk.slot, Tab.find?_insert_other _ _ _ _ hjk]
    · rw [hc y hy]

theorem OnlySlot.sameRes {s t : State} (h : OnlySlot s t x k) : t.res = s.res := by
  have := congrArg (fun v : State => v.res) h.rest
  simpa using this

theorem OnlySlot.cached {s t : State} (h : OnlySlot s t x k) : OnlySlotCached s t x k where
  memory := h.memory
  regs := h.regs
  ctxs := h.ctxs
  blocks := h.blocks
  slots := h.slots
  coves := fun cv => by
    have := congrArg (fun v : Cove => { v with rbuf := [] }) (h.coves cv)
    simpa using this
  still := h.sameRes
  meter := ⟨id, by simp [Tab.modify_self, h.sameRes]⟩
  rest := by
    have := congrArg (fun v : State => { v with tlb := [], free := 0, res := [] }) h.rest
    simpa using this

/-- The step of a slot that executes. -/
theorem slotStep_runs (h : Executes s x k b p) (body : SlotCx → State → State × SlotRes) :
    slotStep p body s = .next (keepRes ⟨x, k, s.ctx x, b⟩ (body ⟨x, k, s.ctx x, b⟩ s).1 (body ⟨x, k, s.ctx x, b⟩ s).2) := by
  simp [slotStep, h.focus, h.run, h.blk, h.fresh, h.pred]

/-- A slot whose predicate does not hold is predicated off. -/
theorem slotStep_off (hf : s.focus = .slot x k) (hr : (s.ctx x).st = .run) (hb : (s.ctx x).blk = some b)
    (hc : canRun b k = true) (hp : predOf b p = some false) (body : SlotCx → State → State × SlotRes) :
    slotStep p body s = .next (setSlot s x k .off) := by
  simp [slotStep, hf, hr, hb, hc, hp]

/-- What a slot that is done in the same state does. -/
theorem does_of_done {i : Instr} {v : Word} {e : Eff} {fl : BitVec 5} (h : (s.ctx x).blk = some b)
    (hi : exec i s = .next (setSlot s x k (.done v e fl))) : Does i s x k v e fl :=
  ⟨_, hi, slotAt_setSlot_same h _, onlySlot_setSlot h _⟩

theorem slot1_runs {a : Byte} {u : Word} (h : Executes s x k b p) (ha : Operand s x b a u) (f : Word → Word) :
    slot1 a p f s = .next (setSlot s x k (.done (f u) .nothing 0)) := by
  unfold Operand at ha
  simp [slot1, slotStep_runs h, SlotCx.op, ha, keepRes]

theorem slot2_runs {a c : Byte} {u v : Word} (h : Executes s x k b p) (ha : Operand s x b a u) (hc : Operand s x b c v)
    (f : Word → Word → Word) : slot2 a c p f s = .next (setSlot s x k (.done (f u v) .nothing 0)) := by
  unfold Operand at ha hc
  simp [slot2, slotStep_runs h, SlotCx.op, ha, hc, keepRes]

theorem slot1T_runs {a : Byte} {u : Word} (h : Executes s x k b p) (ha : Operand s x b a u)
    (f : SlotCx → State → Word → SlotRes) :
    slot1T a p f s = .next (keepRes ⟨x, k, s.ctx x, b⟩ s (f ⟨x, k, s.ctx x, b⟩ s u)) := by
  unfold Operand at ha
  simp [slot1T, slotStep_runs h, SlotCx.op, ha]

theorem slot2T_runs {a c : Byte} {u v : Word} (h : Executes s x k b p) (ha : Operand s x b a u) (hc : Operand s x b c v)
    (f : SlotCx → State → Word → Word → SlotRes) :
    slot2T a c p f s = .next (keepRes ⟨x, k, s.ctx x, b⟩ s (f ⟨x, k, s.ctx x, b⟩ s u v)) := by
  unfold Operand at ha hc
  simp [slot2T, slotStep_runs h, SlotCx.op, ha, hc]

theorem slot3T_runs {a c d : Byte} {u v w : Word} (h : Executes s x k b p) (ha : Operand s x b a u) (hc : Operand s x b c v)
    (hd : Operand s x b d w) (f : SlotCx → State → Word → Word → Word → SlotRes) :
    slot3T a c p d f s = .next (keepRes ⟨x, k, s.ctx x, b⟩ s (f ⟨x, k, s.ctx x, b⟩ s u v w)) := by
  unfold Operand at ha hc hd
  simp [slot3T, slotStep_runs h, SlotCx.op, ha, hc, hd]

end Sys2Proof.Machine
end

