-- ==== Sys2Proof/Tests/Core.lean ====
section
/-!
SUPPORT. Small steps of control-core instructions: one slot of one block, its operands the values of the slots before it.
-/
namespace Sys2Proof.Tests
set_option Elab.async false
open Sys2Proof Sys2Proof.Machine

/-- The state after an instruction. -/
def after (i : Instr) (s : State) : State :=
  match exec i s with
  | .next t => t
  | _ => s

/-- A block at 0x1000 of four words whose slots 0, 1 and 2 have yielded `u`, `v` and `w`, with this pool. -/
def blk3 (u v w : Word) (pool : List Byte) : Blk :=
  ⟨0x1000, [0x28000000, 0x28000000, 0x28000000, 0x28000000], pool, false,
    [(0, .done u .nothing 0), (1, .done v .nothing 0), (2, .done w .nothing 0)]⟩

/-- Reset with context 0 in this block, at privilege U with handlers at 0x40 and 0x80, and the turn with slot 3. -/
def three (u v w : Word) : State :=
  { State.reset.setCtx 0 { State.reset.ctx 0 with st := .run, blk := some (blk3 u v w (List.replicate 8 0)), prv := .u, xvec := 0x40, xvecm := 0x80 } with
    focus := .slot 0 3 }

/-- The value that slot 3 yields. -/
def val3 (i : Instr) (u v w : Word) : Option Word :=
  match slotAt (after i (three u v w)) 0 3 with
  | some (.done r _ _) => some r
  | _ => none

/-- Its effect at commit. -/
def eff3 (i : Instr) (u v w : Word) : Option Eff :=
  match slotAt (after i (three u v w)) 0 3 with
  | some (.done _ e _) => some e
  | _ => none

/-- Its value with its FP32 flags. -/
def fp3 (i : Instr) (u v w : Word) : Option (Word × BitVec 5) :=
  match slotAt (after i (three u v w)) 0 3 with
  | some (.done r _ fl) => some (r, fl)
  | _ => none

/-- XCAUSE after the instruction in slot 3. -/
def cause3 (i : Instr) (u v w : Word) : Word := ((after i (three u v w)).ctx 0).xcause

/-! ### Integers (R148 to R151); all-ones is -1 or 2^64 - 1, 2^63 the most negative number -/

theorem test_add_wraps : val3 (.add 0 1 0xFF) 0xFFFFFFFFFFFFFFFF 2 0 = some 1 := by decide
theorem test_sub_wraps : val3 (.sub 0 1 0xFF) 1 2 0 = some 0xFFFFFFFFFFFFFFFF := by decide
theorem test_mul_low : val3 (.mul 0 1 0xFF) 0x100000001 0x100000001 0 = some 0x200000001 := by decide
theorem test_mulh_signed : val3 (.mulh 0 1 0xFF) 0xFFFFFFFFFFFFFFFF 2 0 = some 0xFFFFFFFFFFFFFFFF := by decide
theorem test_mulhn_unsigned : val3 (.mulhn 0 1 0xFF) 0xFFFFFFFFFFFFFFFF 2 0 = some 1 := by decide
theorem test_div_truncates : val3 (.div 0 1 0xFF) 0xFFFFFFFFFFFFFFF9 2 0 = some 0xFFFFFFFFFFFFFFFD := by decide
theorem test_div_by_zero : val3 (.div 0 1 0xFF) 7 0 0 = some 0xFFFFFFFFFFFFFFFF := by decide
theorem test_divn_unsigned : val3 (.divn 0 1 0xFF) 0xFFFFFFFFFFFFFFF9 2 0 = some 0x7FFFFFFFFFFFFFFC := by decide
theorem test_rem_sign : val3 (.rem 0 1 0xFF) 0xFFFFFFFFFFFFFFF9 2 0 = some 0xFFFFFFFFFFFFFFFF := by decide
theorem test_rem_overflow : val3 (.rem 0 1 0xFF) 0x8000000000000000 0xFFFFFFFFFFFFFFFF 0 = some 0 := by decide
theorem test_remn_by_zero : val3 (.remn 0 1 0xFF) 7 0 0 = some 7 := by decide
theorem test_and : val3 (.and 0 1 0xFF) 0b1100 0b1010 0 = some 0b1000 := by decide
theorem test_or : val3 (.or 0 1 0xFF) 0b1100 0b1010 0 = some 0b1110 := by decide
theorem test_xor : val3 (.xor 0 1 0xFF) 0b1100 0b1010 0 = some 0b0110 := by decide
theorem test_andn : val3 (.andn 0 1 0xFF) 0b1100 0b1010 0 = some 0b0100 := by decide
theorem test_shl_six_bits : val3 (.shl 0 1 0xFF) 3 65 0 = some 6 := by decide
theorem test_shr_zeros : val3 (.shr 0 1 0xFF) 0x8000000000000000 63 0 = some 1 := by decide
theorem test_sar_sign : val3 (.sar 0 1 0xFF) 0x8000000000000000 63 0 = some 0xFFFFFFFFFFFFFFFF := by decide
theorem test_rol_wraps : val3 (.rol 0 1 0xFF) 0x8000000000000001 1 0 = some 3 := by decide
theorem test_min_signed : val3 (.min 0 1 0xFF) 0xFFFFFFFFFFFFFFFF 1 0 = some 0xFFFFFFFFFFFFFFFF := by decide
theorem test_max_signed : val3 (.max 0 1 0xFF) 0xFFFFFFFFFFFFFFFF 1 0 = some 1 := by decide
theorem test_minn_unsigned : val3 (.minn 0 1 0xFF) 0xFFFFFFFFFFFFFFFF 1 0 = some 1 := by decide
theorem test_maxn_unsigned : val3 (.maxn 0 1 0xFF) 0xFFFFFFFFFFFFFFFF 1 0 = some 0xFFFFFFFFFFFFFFFF := by decide
theorem test_clz_of_zero : val3 (.clz 0 0xFF) 0 0 0 = some 64 := by decide
theorem test_clz_of_one : val3 (.clz 0 0xFF) 1 0 0 = some 63 := by decide
theorem test_popc : val3 (.popc 0 0xFF) 0x8000000000000007 0 0 = some 4 := by decide
theorem test_sext_byte : val3 (.sext 0 1 0xFF) 0x180 8 0 = some 0xFFFFFFFFFFFFFF80 := by decide
theorem test_sext_of_no_bits : cause3 (.sext 0 1 0xFF) 0x180 0 0 = 0x13 := by decide
theorem test_zext_byte : val3 (.zext 0 1 0xFF) 0x180 8 0 = some 0x80 := by decide
theorem test_bext_signed : val3 (.bext 0 1 0xFF 2) 0xF0 1 0x0304 = some 0xFFFFFFFFFFFFFFFF := by decide
theorem test_bins : val3 (.bins 0 1 0xFF 2) 0xFFFF 0x5 0x0304 = some 0xFF5F := by decide
theorem test_sel_zero : val3 (.sel 0 1 0xFF 2) 0 5 6 = some 6 := by decide
theorem test_cmp_eq : val3 (.cmpEq 0 1 0xFF) 5 5 0 = some 1 := by decide
theorem test_cmp_ne : val3 (.cmpNe 0 1 0xFF) 5 5 0 = some 0 := by decide
theorem test_cmp_lt_signed : val3 (.cmpLt 0 1 0xFF) 0xFFFFFFFFFFFFFFFF 0 0 = some 1 := by decide
theorem test_cmp_le_equal : val3 (.cmpLe 0 1 0xFF) 5 5 0 = some 1 := by decide
theorem test_cmp_ltn_unsigned : val3 (.cmpLtn 0 1 0xFF) 0xFFFFFFFFFFFFFFFF 0 0 = some 0 := by decide
theorem test_cmp_len_unsigned : val3 (.cmpLen 0 1 0xFF) 0 0xFFFFFFFFFFFFFFFF 0 = some 1 := by decide
theorem test_test_bits : val3 (.test 0 1 0xFF) 6 2 0 = some 1 := by decide

/-! ### Operands and predicates (R107, R109) -/

/-- Constants C0 to DF are -16 to 15 in their low five bits. -/
theorem test_operand_constants : val3 (.add 0xDF 0xC1 0xFF) 0 0 0 = some 0 := by decide
/-- E0 is the address of the block, E1 the number of the context. -/
theorem test_operand_place : val3 (.add 0xE0 0xE1 0xFF) 0 0 0 = some 0x1000 := by decide
/-- Predicate 0x81: execute when slot 1 has yielded 0. -/
theorem test_predicate_off : slotAt (after (.add 0 0 0x81) (three 1 1 1)) 0 3 = some .off := by decide
theorem test_predicate_on : val3 (.add 0 0 0x81) 1 0 1 = some 2 := by decide

/-! ### Constants and state (R152 to R154, R158, R173, R175) -/

theorem test_imm_sign : val3 (.imm 0x800000) 0 0 0 = some 0xFFFFFFFFFF800000 := by decide
theorem test_immh : val3 (.immh 0 0x1234) 0xFFFF00000000ABCD 0 0 = some 0x00000000ABCD1234 := by decide
/-- CTXINFO, register 0x0A. -/
theorem test_rds_completions : val3 (.rds 0x50 0xFF) 0 0 0 = some 0 := by decide
theorem test_rds_unowned : cause3 (.rds 0x3F 0xFF) 0 0 0 = 0x13 := by decide
theorem test_rdx_range : cause3 (.rdx 0 1 0xFF) 17 0 0 = 0x13 := by decide
theorem test_sqry_range : cause3 (.sqry 0 0xFF) 0x90 0 0 = 0x13 := by decide
theorem test_rdcsr_privilege : cause3 (.rdcsr 4 0xFF) 0 0 0 = 0x14 := by decide
theorem test_wrcsr_read_only : cause3 (.wrcsr 0 8 0xFF) 0 0 0 = 0x14 := by decide
theorem test_wrcsr_flags : eff3 (.wrcsr 0 6 0xFF) 0x31F 0 0 = some (.wrcsr 6 0x31F) := by decide
theorem test_wrcsr_reserved : cause3 (.wrcsr 0 6 0xFF) 0x20 0 0 = 0x13 := by decide

/-! ### FP32 (R155 to R157); flags NV 16, DZ 8, OF 4, UF 2, NX 1 -/

/-- 1.0 + 2^-24 is half way, and goes to the even neighbour, 1.0. -/
theorem test_fadd_even : fp3 (.fadd 0 1 0xFF) 0x3F800000 0x33800000 0 = some (0x3F800000, 1) := by decide
theorem test_fsub_to_zero : fp3 (.fsub 0 1 0xFF) 0x3F800000 0x3F800000 0 = some (0, 0) := by decide
theorem test_fmul_overflow : fp3 (.fmul 0 1 0xFF) 0x7F7FFFFF 0x40000000 0 = some (0x7F800000, 5) := by decide
/-- 2 · 3 - 6 = 0, exactly. -/
theorem test_ffma : fp3 (.ffma 0 1 0xFF 2) 0x40000000 0x40400000 0xC0C00000 = some (0, 0) := by decide
theorem test_fdiv_by_zero : fp3 (.fdiv 0 1 0xFF) 0xBF800000 0 0 = some (0xFF800000, 8) := by decide
theorem test_fsqrt_of_four : fp3 (.fsqrt 0 0xFF) 0x40800000 0 0 = some (0x40000000, 0) := by decide +kernel
theorem test_fsqrt_negative : fp3 (.fsqrt 0 0xFF) 0xC0800000 0 0 = some (0x7FC00000, 16) := by decide
theorem test_fmin : fp3 (.fmin 0 1 0xFF) 0x3F800000 0xBF800000 0 = some (0xBF800000, 0) := by decide
theorem test_fmax : fp3 (.fmax 0 1 0xFF) 0x3F800000 0xBF800000 0 = some (0x3F800000, 0) := by decide
theorem test_fcmp_zeros_equal : fp3 (.fcmp 0 1 0xFF 0) 0x80000000 0 0 = some (1, 0) := by decide
theorem test_fclass_minus_zero : fp3 (.fclass 0 0xFF) 0x80000000 0 0 = some (8, 0) := by decide
theorem test_fcvt_rounding_range : cause3 (.fcvt 0 1 0xFF 0) 0 5 0 = 0x13 := by decide

/-! ### Memory (R143, R158, R161) -/

/-- At privilege U with no residency, any access lies outside what the context may reach or is misaligned; alignment comes first. -/
theorem test_load_misaligned : cause3 (.ldD 0 1 0xFF) 0x10 1 0 = 0x12 := by decide
theorem test_store_misaligned : cause3 (.stH 0 1 0xFF) 0x11 1 0 = 0x12 := by decide
theorem test_atomic_misaligned : cause3 (.aadd 0 1 0xFF 0) 0x14 1 0 = 0x12 := by decide
theorem test_pref_yields_zero : val3 (.pref 0 0xFF) 0x1000 0 0 = some 0 := by decide
/-- The pool's eight bytes, the lowest first. -/
theorem test_ldr : (match slotAt (after (.ldr 0 0xFF) ((three 0 0 0).setCtx 0 { (three 0 0 0).ctx 0 with
    blk := some (blk3 0 0 0 [1, 0, 0, 0, 0, 0, 0, 0x80]) })) 0 3 with | some (.done r _ _) => r | _ => 0) = 0x8000000000000001 := by decide

/-! ### Flow, synchronisation, system (R110, R162 to R174) -/

theorem test_br_backwards : eff3 (.br 0xFFFF 0xFF) 0 0 0 = some (.exit .branch 0xFF0) := by decide
theorem test_bri : eff3 (.bri 0 0xFF) 0x2000 0 0 = some (.exit .branch 0x2000) := by decide
theorem test_ret : eff3 (.ret 1 0xFF) 0 0x3000 0 = some (.exit .branch 0x3000) := by decide
theorem test_call : eff3 (.call 2 0xFF 0 5) 0x77 0 0 = some (.call 0x1020 5 0x77) := by decide
theorem test_yield : eff3 (.yield 1 0xFF) 0 0 0 = some (.exit .yield 0x1010) := by decide
theorem test_halt : eff3 (.halt 0xFF) 0 0 0 = some (.exit .halt 0) := by decide
theorem test_put : eff3 (.put 0 63 0xFF) 9 0 0 = some (.put 63 9) := by decide
theorem test_eret_at_u : cause3 (.eret 0xFF) 0 0 0 = 0x14 := by decide
theorem test_fence_with_nothing_in_flight : val3 (.fence 7 0xFF) 0 0 0 = some 0 := by decide
theorem test_wait_range : cause3 (.wait 0 0xFF) 64 0 0 = 0x13 := by decide
theorem test_signal_range : cause3 (.signal 0 1 0xFF) 0 0x100000000 0 = 0x13 := by decide
theorem test_bar_level : eff3 (.bar 0 0xFF) 7 0 0 = some (.bar 7) := by decide
theorem test_bar_range : cause3 (.bar 0 0xFF) 8 0 0 = 0x13 := by decide
theorem test_qpop_part : cause3 (.qpop 0 0xFF) 0x18 0 0 = 0x13 := by decide
theorem test_qpush_kind : cause3 (.qpush 0 1 0xFF 2) 0 0 0x38 = 0x13 := by decide
theorem test_bbarm_range : cause3 (.bbarm 0 1 0xFF) 64 1 0 = 0x13 := by decide
theorem test_scmd : eff3 (.scmd 0 1 0xFF) 0x0540 1 0 = some (.scmd 0x05400000000000000001) := by decide
theorem test_trap_code : cause3 (.trap 0x1234 0xFF) 0 0 0 = 0x15 ∧ ((after (.trap 0x1234 0xFF) (three 0 0 0)).ctx 0).xaddr = 0x1234 := by decide
theorem test_sys : eff3 (.sys 7 0xFF) 0 0 0 = some (.sys 7) := by decide
theorem test_xlate_kind : cause3 (.xlate 0 1 0xFF) 0 2 0 = 0x13 := by decide

/-- R144: a trap at U goes to XVEC, to S, with INTRAP set and the slot and block saved. -/
theorem test_trap_entry :
    let c := (after (.sext 0 1 0xFF) (three 0 0 0)).ctx 0
    c.next = 0x40 ∧ c.prv = .s ∧ c.pprv = .u ∧ c.intrap = true ∧ c.xslot = 3 ∧ c.xblock = 0x1000 ∧ c.blk = none := by decide

end Sys2Proof.Tests
end

