-- ==== Sys2Proof/Tests/Fabric.lean ====
section
/-!
SUPPORT. Small firings of fabric nodes: one node of cell 0 with tokens at its inputs 0x00, 0x01 and 0x02 and outputs 0x20 and 0x21.
-/
namespace Sys2Proof.Tests
set_option Elab.async false
open Sys2Proof Sys2Proof.Machine

/-- A queue of four places that holds these tokens, each with the uses of its sticky count. -/
def queueOf (sticky : Nat) (l : List Tok) : Queue :=
  { Queue.empty with depth := 4, sticky := sticky, toks := l.map fun t => ⟨t, sticky + 1, 0⟩ }

/-- The fields of a node with these inputs, MODE and IMM; 0xFF0 is none. -/
def fields (a b c : BitVec 12) (mode : BitVec 4) (imm : BitVec 40) : NodeW :=
  ⟨0, mode, false, false, false, false, false, false, false, a, b, c, 0x200, 0x210, imm⟩

/-- One, two and three inputs. -/
def w1 (mode : BitVec 4) (imm : BitVec 40) : NodeW := fields 0x000 0xFF0 0xFF0 mode imm
def w2 (mode : BitVec 4) (imm : BitVec 40) : NodeW := fields 0x000 0x010 0xFF0 mode imm
def w3 (mode : BitVec 4) (imm : BitVec 40) : NodeW := fields 0x000 0x010 0x020 mode imm
def wc (mode : BitVec 4) (imm : BitVec 40) : NodeW := fields 0x000 0xFF0 0x020 mode imm

/-- Cell 0 with these tokens at its queues 0, 1 and 2, its endpoints 0 and 1 with four credits, and its first node in this state. -/
def cellOf (a b c : List Tok) (d : Node) : State :=
  let e : Endp := ⟨32, 0, 4, 4, 0, 0⟩
  { State.reset.setCell 0 { State.reset.cell 0 with
      queues := [(0, queueOf 0 a), (1, queueOf 0 b), (2, queueOf 0 c)]
      endps := [(0, e), (1, { e with dst := 33 })]
      nodes := [(0, d)] } with focus := .node 0 }

/-- The tokens put on endpoint `ch` by the instruction. -/
def sends (ch : Nat) (i : Instr) (s : State) : List Tok :=
  (after i s).wire.filterMap fun p => match p.cargo with | .tok t => if p.ch = ch then some t else none | _ => none

/-- What the node emits on OUT_0, and what is left at its inputs. -/
def fires (i : Instr) (a b c : List Tok) : List Tok := sends 0 i (cellOf a b c Node.empty)
def left (q : Nat) (i : Instr) (a b c : List Tok) : Nat := (qAt (after i (cellOf a b c Node.empty)) 0 q).toks.length

/-- DATA of four 32-bit lanes, all valid. -/
def d32 (a b c d : BitVec 32) : Tok := ⟨0, d ++ c ++ b ++ a, 0xF⟩
/-- CTRL, COORD and IDX tokens. -/
def ct (v : BitVec 64) : Tok := ⟨6, v.zeroExtend 128, 0⟩
def coord (v : BitVec 16) : Tok := ⟨7, 0, v⟩
def idx (v : BitVec 128) (sb : BitVec 16) : Tok := ⟨8, v, sb⟩

/-! ### Integers in format I32, MODE 2 (R215, R220 to R223) -/

theorem test_node_add_wraps : fires (.nodeAdd (w2 2 0)) [d32 0xFFFFFFFF 1 2 3] [d32 1 1 1 1] [] = [d32 0 2 3 4] := by decide +kernel
theorem test_node_sub : fires (.nodeSub (w2 2 0)) [d32 0 5 5 5] [d32 1 1 2 3] [] = [d32 0xFFFFFFFF 4 3 2] := by decide +kernel
theorem test_node_mul : fires (.nodeMul (w2 2 0)) [d32 0x10001 2 3 4] [d32 0x10001 2 2 2] [] = [d32 0x20001 4 6 8] := by decide +kernel
theorem test_node_mulh : fires (.nodeMulh (w2 2 0)) [d32 0xFFFFFFFF 0x80000000 4 0] [d32 1 2 0x40000000 1] [] = [d32 0xFFFFFFFF 0xFFFFFFFF 1 0] := by
  decide +kernel
theorem test_node_mad : fires (.nodeMad (w3 2 0)) [d32 2 2 2 2] [d32 3 3 3 3] [d32 1 2 3 4] = [d32 7 8 9 10] := by decide +kernel
theorem test_node_abs : fires (.nodeAbs (w1 2 0)) [d32 0xFFFFFFFF 0x80000000 5 0] [] [] = [d32 1 0x80000000 5 0] := by decide +kernel
theorem test_node_neg : fires (.nodeNeg (w1 2 0)) [d32 1 0 0xFFFFFFFF 2] [] [] = [d32 0xFFFFFFFF 0 1 0xFFFFFFFE] := by decide +kernel
theorem test_node_min : fires (.nodeMin (w2 2 0)) [d32 0xFFFFFFFF 1 2 3] [d32 0 0 5 5] [] = [d32 0xFFFFFFFF 0 2 3] := by decide +kernel
theorem test_node_max_unsigned : fires (.nodeMax (w2 6 0)) [d32 0xFFFFFFFF 1 2 3] [d32 0 0 5 5] [] = [d32 0xFFFFFFFF 1 5 5] := by decide +kernel
theorem test_node_and : fires (.nodeAnd (w2 2 0)) [d32 12 12 0 0] [d32 10 3 1 1] [] = [d32 8 0 0 0] := by decide +kernel
theorem test_node_or : fires (.nodeOr (w2 2 0)) [d32 12 12 0 0] [d32 10 3 1 1] [] = [d32 14 15 1 1] := by decide +kernel
theorem test_node_xor : fires (.nodeXor (w2 2 0)) [d32 12 12 0 0] [d32 10 3 1 1] [] = [d32 6 15 1 1] := by decide +kernel
theorem test_node_not : fires (.nodeNot (w1 2 0)) [d32 0 1 2 3] [] [] = [d32 0xFFFFFFFF 0xFFFFFFFE 0xFFFFFFFD 0xFFFFFFFC] := by decide +kernel
/-- A shift takes its amount modulo the width. -/
theorem test_node_shl : fires (.nodeShl (w2 2 0)) [d32 1 1 1 3] [d32 33 31 0 1] [] = [d32 2 0x80000000 1 6] := by decide +kernel
theorem test_node_shr : fires (.nodeShr (w2 2 0)) [d32 0x80000000 8 8 8] [d32 31 1 2 3] [] = [d32 1 4 2 1] := by decide +kernel
theorem test_node_sar : fires (.nodeSar (w2 2 0)) [d32 0x80000000 8 8 8] [d32 31 1 2 3] [] = [d32 0xFFFFFFFF 4 2 1] := by decide +kernel
theorem test_node_clamp : fires (.nodeClamp (w3 2 0)) [d32 0xFFFFFFFF 5 9 3] [d32 0 0 0 0] [d32 7 7 7 7] = [d32 0 5 7 3] := by decide +kernel
theorem test_node_cmp_lanes : fires (.nodeCmp (w2 2 0)) [d32 1 2 3 4] [d32 1 0 3 0] [] = [d32 0xFFFFFFFF 0 0xFFFFFFFF 0] := by decide +kernel
/-- Bit 35 of IMM: one CTRL token with a bit for each lane. -/
theorem test_node_cmp_control : fires (.nodeCmp (w2 2 0x0800000000)) [d32 1 2 3 4] [d32 1 0 3 0] [] = [ct 5] := by decide +kernel
theorem test_node_sel : fires (.nodeSel (w3 2 0)) [d32 1 1 1 1] [d32 2 2 2 2] [d32 0 1 0 1] = [d32 2 1 2 1] := by decide +kernel
theorem test_node_adds_saturates : fires (.nodeAdds (w2 2 0)) [d32 0x7FFFFFFF 1 1 1] [d32 1 1 1 1] [] = [d32 0x7FFFFFFF 2 2 2] := by decide +kernel
theorem test_node_subs_unsigned : fires (.nodeSubs (w2 6 0)) [d32 0 5 5 5] [d32 1 1 1 1] [] = [d32 0 4 4 4] := by decide +kernel
/-- Bit 39 of IMM: the immediate in place of IN_B. -/
theorem test_node_immediate : fires (.nodeAdd (w1 2 0x8000000005)) [d32 1 2 3 4] [] [] = [d32 6 7 8 9] := by decide +kernel
/-- A lane that is not valid in one operand gives none. -/
theorem test_node_invalid_lane : fires (.nodeAdd (w2 2 0)) [⟨0, 1, 1⟩] [d32 1 1 1 1] [] = [⟨0, 2, 1⟩] := by decide +kernel
/-- POISON in an operand gives POISON; nothing happens without an operand. -/
theorem test_node_poison : fires (.nodeAdd (w2 2 0)) [poisonTok] [d32 1 1 1 1] [] = [poisonTok] := by decide +kernel
theorem test_node_waits : fires (.nodeAdd (w2 2 0)) [d32 1 1 1 1] [] [] = [] := by decide +kernel
/-- Equal delimiters are taken together. -/
theorem test_node_delimiter : fires (.nodeAdd (w2 2 0)) [eotTok] [eotTok] [] = [eotTok] ∧ left 1 (.nodeAdd (w2 2 0)) [eotTok] [eotTok] [] = 0 := by
  decide +kernel

/-! ### Floating point in FP32, MODE 0 (R224 to R226) -/

theorem test_node_fadd : fires (.nodeFadd (w2 0 0)) [d32 0x3F800000 0 0 0] [d32 0x40000000 0 0 0] [] = [d32 0x40400000 0 0 0] := by decide +kernel
theorem test_node_fsub : fires (.nodeFsub (w2 0 0)) [d32 0x3F800000 0 0 0] [d32 0x40000000 0 0 0] [] = [d32 0xBF800000 0 0 0] := by decide +kernel
theorem test_node_fmul : fires (.nodeFmul (w2 0 0)) [d32 0x40000000 0 0 0] [d32 0x40400000 0 0 0] [] = [d32 0x40C00000 0 0 0] := by decide +kernel
theorem test_node_fma : fires (.nodeFma (w3 0 0)) [d32 0x40000000 0 0 0] [d32 0x40400000 0 0 0] [d32 0x3F800000 0 0 0] = [d32 0x40E00000 0 0 0] := by
  decide +kernel
theorem test_node_fmin : fires (.nodeFmin (w2 0 0)) [d32 0x3F800000 0 0 0] [d32 0xBF800000 0 0 0] [] = [d32 0xBF800000 0 0 0] := by decide +kernel
theorem test_node_fmax : fires (.nodeFmax (w2 0 0)) [d32 0x3F800000 0 0 0] [d32 0xBF800000 0 0 0] [] = [d32 0x3F800000 0 0 0] := by decide +kernel
theorem test_frcp : fires (.frcp (w1 0 0)) [d32 0x40000000 0x3F800000 0x40800000 0x41000000] [] [] = [d32 0x3F000000 0x3F800000 0x3E800000 0x3E000000] := by
  decide +kernel
theorem test_frsq : fires (.frsq (w1 0 0)) [d32 0x40800000 0x3F800000 0x3F800000 0x3F800000] [] [] = [d32 0x3F000000 0x3F800000 0x3F800000 0x3F800000] := by
  decide +kernel
theorem test_node_fdiv : fires (.nodeFdiv (w2 0 0)) [d32 0x3F800000 0x3F800000 0 0] [d32 0x40000000 0x3F800000 0x3F800000 0x3F800000] [] =
    [d32 0x3F000000 0x3F800000 0 0] := by decide +kernel
theorem test_node_fcmp : fires (.nodeFcmp (w2 0 0x0800000000)) [d32 0x3F800000 0 0 0] [d32 0x40000000 0x80000000 0 0] [] = [ct 0xE] := by decide +kernel

/-! ### Formats and lanes (R228 to R238) -/

/-- FP32 (MODE 8) to BF16 (9): one group of four lanes. -/
theorem test_cvt_narrows : fires (.cvt (w1 8 9)) [d32 0x3F800000 0xC0000000 0 0] [] [] = [⟨0, 0xC0003F80, 0xF⟩] := by decide +kernel
/-- SPLAT of a CTRL value into I32 lanes. -/
theorem test_splat : fires (.splat (w1 2 0)) [ct 7] [] [] = [d32 7 7 7 7] := by decide +kernel
/-- REDUCE by addition, and REDUCE of no valid lane. -/
theorem test_reduce : fires (.reduce (w1 2 0)) [d32 1 2 3 4] [] [] = [⟨0, 10, 1⟩] ∧ fires (.reduce (w1 2 0)) [bare 0] [] [] = [bare 0] := by
  decide +kernel
/-- An inclusive SCAN by addition from its start value in IMM. -/
theorem test_scan : fires (.scan (w1 2 0)) [d32 1 2 3 4] [] [] = [d32 1 3 6 10] := by decide +kernel
/-- HDR puts a header in front: format, rows, columns and the scale 1.0. -/
theorem test_hdr : fires (.hdr (w1 0 0)) [d32 1 1 1 1] [] [] = [⟨1, 0x3F8000000000000000000000, 0⟩] ∧ left 0 (.hdr (w1 0 0)) [d32 1 1 1 1] [] [] = 1 := by
  decide +kernel
theorem test_acc_takes : left 0 (.acc (w1 2 0)) [d32 1 1 1 1] [] [] = 0 ∧ fires (.acc (w1 2 0)) [d32 1 1 1 1] [] [] = [] := by decide +kernel

/-! ### Flow (R242 to R252) -/

theorem test_fork : sends 1 (.fork (w1 0 0)) (cellOf [d32 1 2 3 4] [] [] Node.empty) = [d32 1 2 3 4] := by decide +kernel
theorem test_steer : fires (.steer (wc 0 0)) [d32 1 1 1 1] [] [ct 0] = [d32 1 1 1 1] ∧ fires (.steer (wc 0 0)) [d32 1 1 1 1] [] [ct 1] = [] := by
  decide +kernel
theorem test_gate : fires (.gate (wc 0 0)) [d32 1 1 1 1] [] [ct 0] = [] ∧ fires (.gate (wc 0 0)) [d32 1 1 1 1] [] [ct 2] = [d32 1 1 1 1] := by
  decide +kernel
theorem test_merge_takes_one : fires (.merge (w3 0 0)) [d32 1 1 1 1] [d32 2 2 2 2] [ct 1] = [d32 2 2 2 2] ∧
    left 0 (.merge (w3 0 0)) [d32 1 1 1 1] [d32 2 2 2 2] [ct 1] = 1 := by decide +kernel
theorem test_mux_takes_both : fires (.mux (w3 0 0)) [d32 1 1 1 1] [d32 2 2 2 2] [ct 0] = [d32 1 1 1 1] ∧
    left 1 (.mux (w3 0 0)) [d32 1 1 1 1] [d32 2 2 2 2] [ct 0] = 0 := by decide +kernel
theorem test_join : fires (.join (w2 0 0)) [d32 1 1 1 1] [ct 5] [] = [d32 1 1 1 1] := by decide +kernel
/-- Bit 2 of the mask keeps EOT; DATA, bit 0, is dropped. -/
theorem test_drop : fires (.drop (w1 0 4)) [eotTok] [] [] = [eotTok] ∧ fires (.drop (w1 0 4)) [d32 1 1 1 1] [] [] = [] := by decide +kernel
theorem test_sink : left 0 (.sink (w1 0 0)) [d32 1 1 1 1] [] [] = 0 := by decide +kernel
theorem test_ande : fires (.ande (w2 0 0)) [ct 1] [ct 0] [] = [ct 0] := by decide +kernel
theorem test_ore : fires (.ore (w2 0 0)) [ct 2] [ct 0] [] = [ct 1] := by decide +kernel
/-- Flag E: an ORE with one input that is true fires on it alone. -/
theorem test_ore_early : fires (.ore { w2 0 0 with e := true }) [ct 1] [] [] = [ct 1] := by decide +kernel
/-- ISECT drops the smaller coordinate and emits nothing; equal ones are emitted. -/
theorem test_isect : fires (.isect (w2 0 0)) [coord 1] [coord 2] [] = [] ∧ fires (.isect (w2 0 0)) [coord 2] [coord 2] [] = [coord 2] := by decide +kernel
theorem test_union : fires (.union (w2 0 0)) [coord 1] [coord 2] [] = [coord 1] := by decide +kernel
/-- TILE with groups of one token and fibres of one group ends both at once. -/
theorem test_tile : fires (.tile (w1 0 0)) [d32 1 1 1 1] [] [] = [d32 1 1 1 1] := by decide +kernel
/-- SQUASH passes the first of two tokens that CTRL 1 counts. -/
theorem test_squash : fires (.squash (w2 0 1)) [ct 1] [d32 9 9 9 9] [] = [d32 9 9 9 9] := by decide +kernel
/-- EXIT on a loop's last index. -/
theorem test_exit : sends 1 (.exit (w3 0 0)) (cellOf [ct 0] [d32 1 1 1 1] [idx 0 0] Node.empty) = [ct 1] := by decide +kernel

/-! ### Anti (R46) -/

/-- Anti on an empty queue owes one token; on a token in its last use it takes it. -/
theorem test_anti : (qAt (doAnti (cellOf [] [] [] Node.empty) 0 0) 0 0).debt = 1 ∧
    (qAt (doAnti (cellOf [d32 1 1 1 1] [] [] Node.empty) 0 0) 0 0).toks = [] := by decide +kernel

/-! ### Matrix and sampling nodes (R280, R281) -/

/-- MXSEQ at an index that is neither first nor last gives STEP. -/
theorem test_mxseq : fires (.mxseq (w1 0 0)) [idx 0 0] [] [] = [⟨0, 4, 1⟩] := by decide +kernel
/-- HEADMASK with bit 0 of IMM: the heads that the cove samples, none before SAMPLE.CFG, and their number on OUT_1. -/
theorem test_headmask : sends 1 (.headmask (w1 0 1)) (cellOf [ct 0xFF] [] [] Node.empty) = [ct 0] := by decide +kernel

end Sys2Proof.Tests
end

