-- ==== Sys2Proof/Tests/Slice0.lean ====
section
/-!
SUPPORT. Checks of the syntax: a term that each check of well-formedness refuses, and words written out from the encodings of the spec
that decode to the instructions they stand for.
-/
namespace Sys2Proof.Tests
set_option Elab.async false
open Sys2Proof Sys2Proof.Machine

/-! ### What well-formedness refuses -/

/-- R107: operand bytes 0xE8 to 0xFF are reserved; 0xE7 is the last that is assigned. -/
theorem test_wf_operand :
    (Instr.add 0xE7 0xE7 0xFF).wf = true ∧ (Instr.add 0xE8 0 0xFF).wf = false ∧ (Instr.add 0 0xE8 0xFF).wf = false ∧
      (Instr.immh 0xFF 0).wf = false ∧ (Instr.sel 0 0 0xFF 0xE8).wf = false ∧ (Instr.call 0 0xFF 0xE8 0).wf = false := by decide

/-- R109: predicate byte 0x7F is reserved. -/
theorem test_wf_predicate :
    (Instr.clz 0 0x7E).wf = true ∧ (Instr.clz 0 0x7F).wf = false ∧ (Instr.halt 0x7F).wf = false ∧ (Instr.br 0 0x7F).wf = false := by decide

/-- R108, R111, R113: raw bytes at the ends of their ranges. -/
theorem test_wf_raw :
    (Instr.fcmp 0 0 0xFF 5).wf = true ∧ (Instr.fcmp 0 0 0xFF 6).wf = false ∧
    (Instr.fcvt 0 0 0xFF 7).wf = true ∧ (Instr.fcvt 0 0 0xFF 8).wf = false ∧
    (Instr.aadd 0 0 0xFF 63).wf = true ∧ (Instr.aadd 0 0 0xFF 64).wf = false ∧ (Instr.acas 0 0 0xFF 0 64).wf = false ∧
    (Instr.rds 0x50 0xFF).wf = true ∧ (Instr.rds 0x51 0xFF).wf = false ∧
    (Instr.fence 2 0xFF).wf = true ∧ (Instr.fence 1 0xFF).wf = false ∧ (Instr.fence 8 0xFF).wf = false ∧
    (Instr.rdcsr 0x0C 0xFF).wf = true ∧ (Instr.rdcsr 0x0D 0xFF).wf = false ∧ (Instr.wrcsr 0 0x0D 0xFF).wf = false ∧
    (Instr.put 0 63 0xFF).wf = true ∧ (Instr.put 0 64 0xFF).wf = false ∧ (Instr.call 0 0xFF 0 64).wf = false := by decide

/-- A command with this target. -/
def cmdTo (t : Byte) : CmdW := ⟨t, 0, 0, 0⟩

/-- R118: the targets of commands at the ends of their ranges. -/
theorem test_wf_target :
    (Instr.bindAff (cmdTo 0x40)).wf = true ∧ (Instr.bindAff (cmdTo 0x3F)).wf = false ∧ (Instr.unbind (cmdTo 0x50)).wf = false ∧
    (Instr.armCopy (cmdTo 0x8F)).wf = true ∧ (Instr.armCopy (cmdTo 0x90)).wf = false ∧ (Instr.cfgLoad (cmdTo 4)).wf = false ∧
    (Instr.cfgPred (cmdTo 1)).wf = false ∧ (Instr.phase (cmdTo 1)).wf = false ∧ (Instr.phase (cmdTo 8)).wf = false ∧
    (Instr.taskLaunch (cmdTo 0xFF)).wf = true ∧ (Instr.umxOpen (cmdTo 4)).wf = false ∧ (Instr.shoreWin (cmdTo 8)).wf = false := by decide

/-- A node with these channel fields. -/
def nodeOf (a b c o p : BitVec 12) : NodeW := ⟨0, 4, false, false, false, false, false, false, false, a, b, c, o, p, 0⟩

/-- R120, R121: inputs and outputs each in their ranges, no sticky count on none, no options on an output, OPC1 only with T. -/
theorem test_wf_node :
    (nodeOf 0x00F 0x1F0 0xFF0 0x3F0 0xFE0).wf = true ∧ (nodeOf 0x910 0xA80 0xAF0 0x9F0 0xA70).wf = true ∧
    (nodeOf 0x200 0xFF0 0xFF0 0x200 0xFF0).wf = false ∧ (nodeOf 0 0x900 0xFF0 0x200 0xFF0).wf = false ∧
    (nodeOf 0 0 0xFF1 0x200 0xFF0).wf = false ∧ (nodeOf 0 0 0xFF0 0x1F0 0xFF0).wf = false ∧ (nodeOf 0 0 0xFF0 0x201 0xFF0).wf = false ∧
    (nodeOf 0 0 0xFF0 0x200 0x910).wf = false ∧ ({ nodeOf 0 0 0xFF0 0x200 0xFF0 with opc1 := 1 }).wf = false ∧
    ({ nodeOf 0 0 0xFF0 0x200 0xFF0 with opc1 := 1, t := true }).wf = true := by decide

/-! ### Words of slots (R106 to R113)

Opcode in bits 31:24, A in 23:16, B in 15:8, P in 7:0; O in 23:8, I in 23:0, J in 15:0; an EXT word is 0x78 with C, D, M. -/

theorem test_word_integer :
    decodeSlot 0b00000010_10000000_11000001_00000101 none = .ok (.sub 0x80 0xC1 0x05) ∧
    decodeSlot 0b00010001_00000001_00000010_11111111 none = .ok (.rol 1 2 0xFF) ∧
    decodeSlot 0b00010110_00000011_00000000_10000010 none = .ok (.clz 3 0x82) :=
  ⟨rfl, rfl, rfl⟩

theorem test_word_field :
    decodeSlot 0b00011011_00000001_00000010_11111111 (some 0b01111000_00000011_00000000_00000000) = .ok (.bins 1 2 0xFF 3) ∧
    decodeSlot 0b00011100_00000001_00000010_11111111 (some 0b01111000_11100000_00000000_00000000) = .ok (.sel 1 2 0xFF 0xE0) :=
  ⟨rfl, rfl⟩

theorem test_word_constant :
    decodeSlot 0b00101000_10000000_00000000_00000001 none = .ok (.imm 0x800001) ∧
    decodeSlot 0b00101001_00000100_10101011_11001101 none = .ok (.immh 4 0xABCD) ∧
    decodeSlot 0b00101010_00000000_01010000_11111111 none = .ok (.rds 0x50 0xFF) :=
  ⟨rfl, rfl, rfl⟩

theorem test_word_float :
    decodeSlot 0b00110011_00000001_00000010_11111111 (some 0b01111000_00000011_00000000_00000000) = .ok (.ffma 1 2 0xFF 3) ∧
    decodeSlot 0b00111001_00000001_00000010_11111111 (some 0b01111000_00000000_00000000_00000111) = .ok (.fcvt 1 2 0xFF 7) :=
  ⟨rfl, rfl⟩

theorem test_word_memory :
    decodeSlot 0b01000101_10000001_11000000_11111111 none = .ok (.ldnH 0x81 0xC0 0xFF) ∧
    decodeSlot 0b01001010_10000001_00000010_11111111 none = .ok (.stD 0x81 2 0xFF) ∧
    decodeSlot 0b01010111_00000001_00000010_11111111 (some 0b01111000_00000011_00111111_00000000) = .ok (.acas 1 2 0xFF 3 63) :=
  ⟨rfl, rfl, rfl⟩

theorem test_word_flow :
    decodeSlot 0b01011010_11111111_11111110_11111111 (some 0b01111000_00000011_00000101_00000000) = .ok (.call 0xFFFE 0xFF 3 5) ∧
    decodeSlot 0b01011110_00000000_00000000_00000001 none = .ok (.halt 1) :=
  ⟨rfl, rfl⟩

theorem test_word_system :
    decodeSlot 0b01101001_00000001_00000000_11111111 none = .ok (.scmdk 0x0100 0xFF) ∧
    decodeSlot 0b01110011_00000010_00001100_11111111 none = .ok (.wrcsr 2 0x0C 0xFF) ∧
    decodeSlot 0b01110101_10000000_11000001_11111111 none = .ok (.xlate 0x80 0xC1 0xFF) :=
  ⟨rfl, rfl, rfl⟩

/-- R104, R115: an all-zero word, an unassigned opcode, a lone EXT, a reserved operand, a missing EXT, and a field that must be 0. -/
theorem test_word_refused :
    decodeSlot 0 none = .error (.cause 0x04) ∧ decodeSlot 0x1D0000FF none = .error (.cause 0x05) ∧
    decodeSlot 0x78000000 none = .error (.cause 0x0A) ∧ decodeSlot 0x01E800FF none = .error (.cause 0x06) ∧
    decodeSlot 0x1C0000FF none = .error (.cause 0x09) ∧ decodeSlot 0x160001FF none = .error (.cause 0x0B) :=
  ⟨rfl, rfl, rfl, rfl, rfl, rfl⟩

/-! ### Words of commands and nodes (R116, R118, R120, R125) -/

/-- SOP in bits 127:120, TGT in 119:112, FLG in 111:104, SUB in 103:96, PARAM in 95:0. -/
theorem test_word_command :
    decodeCmd 0x0140_0105_0000000000001234_56789ABC = .ok (.bindAff ⟨0x40, 1, 5, 0x123456789ABC⟩) ∧
    decodeCmd 0x0C02_00FF_0000000000000000_00000000 = .ok (.phase ⟨2, 0, 0xFF, 0⟩) ∧
    decodeCmd 0x1C07_0000_0000000000000000_00000001 = .ok (.shoreWin ⟨7, 0, 0, 1⟩) ∧
    decodeCmd 0 = .error .scmdOp ∧ decodeCmd 0x1D00_0000_0000000000000000_00000000 = .error .scmdOp :=
  ⟨rfl, rfl, rfl, rfl, rfl⟩

/-- OPC0 in bits 127:120, OPC1 in 119:112, MODE in 111:108, E X Q K V N T in 107:101, IN_A in 99:88, IN_B in 87:76, IN_C in 75:64, OUT_0
in 63:52, OUT_1 in 51:40, IMM in 39:0. -/
theorem test_word_node :
    decodeNode ((0x30 : BitVec 8) ++ (0 : BitVec 8) ++ (8 : BitVec 4) ++ (0b1000000_0 : BitVec 8) ++ (0x00F : BitVec 12) ++ (0x010 : BitVec 12)
        ++ (0xFF0 : BitVec 12) ++ (0x200 : BitVec 12) ++ (0x3F0 : BitVec 12) ++ (0x0123456789 : BitVec 40)) =
      .ok (.nodeFadd ⟨0, 8, true, false, false, false, false, false, false, 0x00F, 0x010, 0xFF0, 0x200, 0x3F0, 0x0123456789⟩) ∧
    decodeNode ((0x40 : BitVec 8) ++ (0 : BitVec 8) ++ (4 : BitVec 4) ++ (0b0100000_0 : BitVec 8) ++ (0x000 : BitVec 12) ++ (0xFF0 : BitVec 12)
        ++ (0xFF0 : BitVec 12) ++ (0x210 : BitVec 12) ++ (0xFF0 : BitVec 12) ++ (0x0000000000 : BitVec 40)) = .error .nodeOpc ∧
    decodeNode ((0x01 : BitVec 8) ++ (0 : BitVec 8) ++ (4 : BitVec 4) ++ (0b0000000_1 : BitVec 8) ++ (0x000 : BitVec 12) ++ (0x010 : BitVec 12)
        ++ (0xFF0 : BitVec 12) ++ (0x210 : BitVec 12) ++ (0xFF0 : BitVec 12) ++ (0x0000000000 : BitVec 40)) = .error .nodeFlag ∧
    decodeNode ((0x01 : BitVec 8) ++ (0 : BitVec 8) ++ (4 : BitVec 4) ++ (0b0000000_0 : BitVec 8) ++ (0x200 : BitVec 12) ++ (0x010 : BitVec 12)
        ++ (0xFF0 : BitVec 12) ++ (0x210 : BitVec 12) ++ (0xFF0 : BitVec 12) ++ (0x0000000000 : BitVec 40)) = .error .nodeChan :=
  ⟨rfl, rfl, rfl, rfl⟩

end Sys2Proof.Tests
end

