-- ==== Sys2Proof/Tests/World.lean ====
section
/-!
SUPPORT. Small worlds for the witnesses: a residency in cove 0, a context of it in a block, a node of one of its cells.
-/
namespace Sys2Proof.Tests
set_option Elab.async false
open Sys2Proof Sys2Proof.Machine

/-- A task-type entry with every field zero but VALID and one context of one cove. -/
def ent0 : TypeEnt where
  image := 0
  entry := 0
  report := 0
  cycles := 0
  permits := 0
  w := 1
  h := 1
  kind := 0
  ndies := 1
  coves := 1
  ncells := 16
  nslots := 1
  shore := 0
  nctx := 1
  valid := true
  dec := false
  donectr := 0
  ndelta := 0
  delta := 0
  wins := []
  handler := 0
  priv := 0
  form := false

/-- Cove 0, and each half of it. -/
def cove0 : Region := ⟨0, [0], 0, 1, 1, 0⟩
def half0 : Region := ⟨1, [0], 0, 1, 1, 0⟩
def half1 : Region := ⟨1, [0], 0, 1, 1, 1⟩

/-- A residency of a region, its context slot 0 active. -/
def resOf (r : Region) : Residency where
  st := .placed
  region := r
  tidx := 5
  ent := ent0
  trec := 0
  lch := ⟨0, [], 0, 0, 0⟩
  root := 0
  queue := 0
  permits := 0
  wins := []
  active := some 0
  pend := none
  nct := []
  drainOn := false
  drainSrc := []
  actAt := 0
  placedAt := 0
  wdFired := false
  parking := false
  logOvf := false
  since := 0
  reported := false
  dlWrote := false
  coups := []
  det := []
  act := ⟨0, 0, 0, 0, 0, 0, 0⟩
  winStart := 0
  gate := 64

/-- Residency 3 in cove 0. -/
def world : State := { State.reset with res := [(3, resOf cove0)] }

/-- The context of `three`, of residency 3, at a privilege. -/
def ctx3 (p : Priv) (u v w : Word) : Ctx :=
  { Ctx.idle with st := .run, rid := 3, blk := some (blk3 u v w (List.replicate 16 0)), prv := p, xvec := 0x40, xvecm := 0x80 }

/-- The world with context 0 as this and the turn with its slot 3. -/
def inSlot (s : State) (c : Ctx) : State := { s.setCtx 0 c with focus := .slot 0 3 }

/-- Context 0 at privilege `p` in slot 3. -/
def at3 (p : Priv) (u v w : Word) : State := inSlot world (ctx3 p u v w)

/-- The block it executes. -/
def b3 (u v w : Word) : Blk := blk3 u v w (List.replicate 16 0)

theorem at3_executes (p : Priv) (u v w : Word) : Executes (at3 p u v w) 0 3 (b3 u v w) 0xFF := ⟨rfl, rfl, rfl, rfl, rfl⟩
theorem at3_first (p : Priv) (u v w : Word) : Operand (at3 p u v w) 0 (b3 u v w) 0 u := rfl
theorem at3_second (p : Priv) (u v w : Word) : Operand (at3 p u v w) 0 (b3 u v w) 1 v := rfl
theorem at3_third (p : Priv) (u v w : Word) : Operand (at3 p u v w) 0 (b3 u v w) 2 w := rfl

/-- Slot 3 executes with these three operands. -/
def Slot3 (s : State) (u v w : Word) : Prop :=
  Executes s 0 3 (b3 u v w) 0xFF ∧ Operand s 0 (b3 u v w) 0 u ∧ Operand s 0 (b3 u v w) 1 v ∧ Operand s 0 (b3 u v w) 2 w

theorem at3_slot3 (p : Priv) (u v w : Word) : Slot3 (at3 p u v w) u v w :=
  ⟨at3_executes p u v w, at3_first p u v w, at3_second p u v w, at3_third p u v w⟩

/-- What an `Except` holds, where the kernel can compare it. -/
def okOf {E A : Type} : Except E A → Option A
  | .ok a => some a
  | .error _ => none
def errOf {E A : Type} : Except E A → Option E
  | .ok _ => none
  | .error e => some e
theorem eq_ok {E A : Type} {x : Except E A} {a : A} (h : okOf x = some a) : x = .ok a := by
  cases x with
  | ok b => exact congrArg Except.ok (Option.some.inj h)
  | error e => cases h
theorem eq_error {E A : Type} {x : Except E A} {e : E} (h : errOf x = some e) : x = .error e := by
  cases x with
  | error b => exact congrArg Except.error (Option.some.inj h)
  | ok e => cases h

theorem pair_of {A B : Type} {r : A × B} {x : B} (h : r.2 = x) : r = (r.1, x) := by
  obtain ⟨a, b⟩ := r; cases h; rfl
theorem pair_ok {A E B : Type} {r : A × Except E B} {x : B} (h : okOf r.2 = some x) : r = (r.1, .ok x) := pair_of (eq_ok h)
theorem pair_error {A E B : Type} {r : A × Except E B} {e : E} (h : errOf r.2 = some e) : r = (r.1, .error e) := pair_of (eq_error h)

/-- What a fetch has read. -/
def gotOf : Got → Option (List Byte)
  | .ok bs => some bs
  | .trap _ _ => none
def trapOf : Got → Option (Nat × Word)
  | .ok _ => none
  | .trap c a => some (c, a)
theorem pair_got {A : Type} {r : A × Got} {bs : List Byte} (h : gotOf r.2 = some bs) : r = (r.1, .ok bs) := by
  obtain ⟨a, g⟩ := r
  cases g with
  | ok b => exact congrArg (fun x => (a, Got.ok x)) (Option.some.inj h)
  | trap c d => cases h
theorem pair_trap {A : Type} {r : A × Got} {c : Nat} {d : Word} (h : trapOf r.2 = some (c, d)) : r = (r.1, .trap c d) := by
  obtain ⟨a, g⟩ := r
  cases g with
  | ok b => cases h
  | trap e f => cases h; rfl

end Sys2Proof.Tests
end

