-- ==== Sys2Proof/Tests/WitCore.lean ====
section
/-!
SUPPORT. Witnesses of the statements about the control core: concrete states and operands that meet their hypotheses, clause by clause.
-/
namespace Sys2Proof.Tests
set_option Elab.async false
open Sys2Proof Sys2Proof.Machine

theorem meets_IntegerResults : Slot3 (at3 .u 7 0 0) 7 0 0 ∧ Slot3 (at3 .u 0x8000000000000000 0xFFFFFFFFFFFFFFFF 0) 0x8000000000000000 0xFFFFFFFFFFFFFFFF 0 :=
  ⟨at3_slot3 .u _ _ _, at3_slot3 .u _ _ _⟩

/-- Widths 1, 64, 0 and 65; descriptors of one bit at 63, of 64 bits at 0, with a reserved bit, and of two bits at 63. -/
theorem meets_BitAndFieldResults :
    (∀ v ∈ [(1 : Word), 64, 0, 65], Slot3 (at3 .u 9 v 0) 9 v 0) ∧
    ((1 : Word) = BitVec.ofNat 64 1 ∧ (64 : Word) = BitVec.ofNat 64 64 ∧ 64 < (65 : Word).toNat) ∧
    (∀ w ∈ [(63 : Word), 0x3F00, 0x40, 0x013F], Slot3 (at3 .u 9 1 w) 9 1 w) ∧
    ((63 : Word) = BitVec.ofNat 64 (63 + 256 * (1 - 1)) ∧ (63 : Nat) + 1 ≤ 64 ∧ (0x3F00 : Word) = BitVec.ofNat 64 (0 + 256 * (64 - 1))) ∧
    ((0x40 : Word) &&& ~~~0x3F3F ≠ 0 ∧ 64 < ((0x013F : Word).extractLsb' 0 6).toNat + ((0x013F : Word).extractLsb' 8 6).toNat + 1) :=
  ⟨fun v _ => at3_slot3 .u 9 v 0, by decide, fun w _ => at3_slot3 .u 9 1 w, by decide, by decide⟩

theorem meets_CompareAndTestResults : Slot3 (at3 .u 1 1 0) 1 1 0 ∧
    (0xE7 : Byte).toNat < 0xE8 ∧ (0 : Byte).toNat < 0xE8 ∧ (0xFF : Byte).toNat ≠ 0x7F ∧ (0x80 : Byte).toNat ≠ 0x7F :=
  ⟨at3_slot3 .u 1 1 0, by decide⟩

/-- Pool entries 0 and 1 of a pool of 16 bytes. -/
theorem meets_ConstantResults : Slot3 (at3 .u 1 1 0) 1 1 0 ∧
    (b3 1 1 0).pool = [] ++ [0, 0, 0, 0, 0, 0, 0, 0] ++ List.replicate 8 0 ∧ ([] : List Byte).length = 8 * (0 : BitVec 16).toNat ∧
    (b3 1 1 0).pool = List.replicate 8 0 ++ [0, 0, 0, 0, 0, 0, 0, 0] ++ [] ∧ (List.replicate 8 (0 : Byte)).length = 8 * (1 : BitVec 16).toNat :=
  ⟨at3_slot3 .u 1 1 0, by decide⟩

/-- Context 0 of the second half-cove's residency, the first half held by residency 4. -/
def halves (u v w : Word) : State := inSlot { State.reset with res := [(3, resOf half1), (4, resOf half0)] } (ctx3 .u u v w)

/-- Barrier 0x3F, FIFOs 7 and the completion counter, owned at U and named at S; what a half-cove at U does not own; the matrix node's flags,
lanes 0 and 15, all lanes, cells out of range and of the other half; targets 0x40, 0x8F, 0x3F and 0x90. -/
theorem meets_StatusReadResults :
    (∀ u v w, Executes (at3 .u u v w) 0 3 (b3 u v w) 0xFF ∧ MayName (at3 .u u v w) 0 63 64 ∧ MayName (at3 .u u v w) 0 7 8 ∧
      MayName (at3 .s u v w) 0 63 64) ∧
    (∀ u v w, Executes (halves u v w) 0 3 (b3 u v w) 0xFF ∧ ¬MayName (halves u v w) 0 0 64 ∧ ¬MayName (halves u v w) 0 0 8) ∧
    ((0x3F : Byte).toNat = 63 ∧ (0x47 : Byte).toNat = 0x40 + 7 ∧ (0x4F : Byte).toNat = 0x48 + 7 ∧ (0x50 : Byte).toNat = 0x50) ∧
    (∀ e ∈ [((16 : Word), (0 : Word)), (15, 15), (15, 16), (17, 0), (0, 17)], Slot3 (at3 .u e.1 e.2 0) e.1 e.2 0 ∧
      othersHalf (at3 .u e.1 e.2 0) 3 15 = false) ∧
    (Slot3 (halves 0 0 0) 0 0 0 ∧ othersHalf (halves 0 0 0) 3 0 = true) ∧
    (∀ u ∈ [(0x40 : Word), 0x8F, 0x3F, 0x90], Slot3 (at3 .u u 0 0) u 0 0) ∧
    (sbLen (at3 .u 0x40 0 0) (sbKey 0 15) ≤ 16 ∧ sbLen (at3 .u 0x40 0 0) (sbKey 0 (16 + 63)) ≤ 16) := by
  refine ⟨fun u v w => ⟨at3_executes .u u v w, ?_, ?_, ?_⟩, fun u v w => ⟨⟨rfl, rfl, rfl, rfl, rfl⟩, ?_, ?_⟩, by decide, ?_,
    ⟨⟨⟨rfl, rfl, rfl, rfl, rfl⟩, rfl, rfl, rfl⟩, rfl⟩, fun u _ => at3_slot3 .u u 0 0, by decide⟩
  · exact Or.inr rfl
  · exact Or.inr rfl
  · exact Or.inl (by show Priv.s ≠ Priv.u; decide)
  · rintro (h | h)
    · exact h rfl
    · exact absurd (h : ownsUnit _ _ _ _ _ = true) (by show ¬ (false = true); decide)
  · rintro (h | h)
    · exact h rfl
    · exact absurd (h : ownsUnit _ _ _ _ _ = true) (by show ¬ (false = true); decide)
  · intro e _
    exact ⟨at3_slot3 .u e.1 e.2 0, rfl⟩

/-- Privileges U, S and M; values at the ends of each register's fields; lanes of the matrix node and of the last cell. -/
theorem meets_CsrResults :
    (∀ p u, Slot3 (at3 p u 0 0) u 0 0 ∧ ((at3 p u 0 0).ctx 0).prv = p) ∧
    ((4 : Byte).toNat ≤ 4 ∧ (7 : Byte).toNat = 7 ∧ (0x0B : Byte).toNat = 0x0B ∧ (12 : Byte) = 12) ∧
    ((0x3FF : Word).toNat < 2 ^ 10 ∧ (0xFF : Word).toNat < 2 ^ 8 ∧ (0x7F : Word).toNat < 2 ^ 7) ∧
    ((0x31F : Word).toNat < 2 ^ 10 ∧ (0x31F : Word).extractLsb' 5 3 = 0) ∧
    (let w : Word := 0xFFFF101F
     w.extractLsb' 5 3 = 0 ∧ w.extractLsb' 13 3 = 0 ∧ w.extractLsb' 32 32 = 0 ∧ (w.extractLsb' 8 5).toNat = 16) ∧
    (let w : Word := 0x80000F01
     w.extractLsb' 5 3 = 0 ∧ w.extractLsb' 13 3 = 0 ∧ w.extractLsb' 32 32 = 0 ∧ (w.extractLsb' 8 5).toNat < 16 ∧
       othersHalf (at3 .u w 0 0) 3 (16 * cvOfX 0 + (w.extractLsb' 8 5).toNat) = false) ∧
    (2 ^ 10 ≤ (0x400 : Word).toNat ∧ 2 ^ 8 ≤ (0x100 : Word).toNat ∧ 2 ^ 7 ≤ (0x80 : Word).toNat ∧ (0x20 : Word).extractLsb' 5 3 ≠ 0) :=
  ⟨fun p u => ⟨at3_slot3 p u 0 0, rfl⟩, by decide, by decide, by decide, by decide, ⟨by decide, by decide, by decide, by decide, rfl⟩, by decide⟩

/-- Two ones, at each rounding of FCVT. -/
theorem meets_FloatResults : (∀ v ∈ [(3 : Word), 4, 5], Slot3 (at3 .u 0x3F800000 v 0) 0x3F800000 v 0) ∧
    (3 : Word).toNat ≤ 3 ∧ 4 < (5 : Word).toNat :=
  ⟨fun v _ => at3_slot3 .u _ v 0, by decide⟩

/-! ### Memory -/

/-- A pointer to the first byte of the first cell's bank, and a deep address that the die's cache maps to 2^30 + 0x1000. -/
def shoreVa : Word := 0x4000000000000000
def mapped : State := { world with tlb := [(0, [⟨0, 0, 2, 2 ^ 30, false, true, true⟩])] }
def deepAt (u v w : Word) : State := inSlot mapped (ctx3 .u u v w)

/-- What a load of `n` zero bytes at `u + v` needs of a state. -/
def LoadMeets (s : State) (u v : Word) (n : Nat) (q0 : PA) : Prop :=
  let b := b3 u v 0
  Executes s 0 3 b 0xFF ∧ Operand s 0 b 0 u ∧ Operand s 0 b 1 v ∧
  (∀ j < 3, passedSync b j = true ∧ addrReady s 0 (s.ctx 0) b j = true) ∧ (u + v).toNat % n = 0 ∧
  resolve s (ctxRt s (s.ctx 0)) (dieOf (cvOfX 0)) (u + v) n true false = (s, .ok [(q0, n)]) ∧
  (∀ j < 3, ∀ e ∈ pendSegs s (ctxRt s (s.ctx 0)) 0 (s.ctx 0) b j, meets e (q0, n) = false) ∧
  fencedBy s 3 [(q0, n)] = none ∧ peerFenced s [(q0, n)] = (s, false) ∧ gateLets s 3 = true ∧
  (isDeep (u + v) = true → rbufLine s 0 (lineOf q0) = none → psnAt s q0 = false) ∧
  (isDeep (u + v) = false → q0.sp = .shore → ∀ i < n, psnAt s ⟨.shore, q0.adr + i⟩ = true → wordCovered s 0 ⟨.shore, q0.adr + i⟩ = true) ∧
  (isDeep (u + v) = false → q0.sp ≠ .shore → (rdSegs s [(q0, n)]).2.2 = false) ∧
  (∀ i < n, (List.replicate n (0 : Byte))[i]? = some (match forwarded b ⟨q0.sp, q0.adr + i⟩ (span 0 3).reverse with
    | some w => w
    | none => LoadSees s 0 (isDeep (u + v)) q0 ⟨q0.sp, q0.adr + i⟩ i))

/-- Loads of 1 and 8 bytes of shore memory, at the bank's first and last bytes. -/
theorem meets_shore_load : LoadMeets (at3 .u shoreVa 0 0) shoreVa 0 8 ⟨.shore, 0⟩ ∧ LoadMeets (at3 .u shoreVa 0xFFFF 0) shoreVa 0xFFFF 1 ⟨.shore, 0xFFFF⟩ := by
  refine ⟨⟨⟨rfl, rfl, rfl, rfl, rfl⟩, rfl, rfl, by decide +kernel, by decide +kernel, rfl, by decide +kernel, rfl, rfl, rfl, by decide +kernel, by decide +kernel, by decide +kernel, ?_⟩,
    ⟨⟨rfl, rfl, rfl, rfl, rfl⟩, rfl, rfl, by decide +kernel, by decide +kernel, rfl, by decide +kernel, rfl, rfl, rfl, by decide +kernel, by decide +kernel, by decide +kernel, ?_⟩⟩ <;>
    decide +kernel

/-- A deep load of 8 bytes in a line that the read buffer does not hold. -/
theorem meets_deep_load : LoadMeets (deepAt 0x1000 0 0) 0x1000 0 8 ⟨.hbm, 2 ^ 30 + 0x1000⟩ := by
  refine ⟨⟨rfl, rfl, rfl, rfl, rfl⟩, rfl, rfl, by decide +kernel, by decide +kernel, rfl, by decide +kernel, rfl, rfl, rfl, by decide +kernel, by decide +kernel, by decide +kernel, ?_⟩
  decide +kernel

/-- A load of a slice that residency 9 fences; whether another device has fenced what it holds is a free value. -/
theorem meets_fenced_load :
    (let s := { at3 .u shoreVa 0 0 with fences := [(0, 9)] }
     Executes s 0 3 (b3 shoreVa 0 0) 0xFF ∧ Operand s 0 (b3 shoreVa 0 0) 0 shoreVa ∧ Operand s 0 (b3 shoreVa 0 0) 1 0 ∧
      (∀ j < 3, passedSync (b3 shoreVa 0 0) j = true ∧ addrReady s 0 (s.ctx 0) (b3 shoreVa 0 0) j = true) ∧
      resolve s (ctxRt s (s.ctx 0)) (dieOf (cvOfX 0)) (shoreVa + 0) 8 true false = (s, .ok [(⟨.shore, 0⟩, 8)]) ∧
      (∀ j < 3, ∀ e ∈ pendSegs s (ctxRt s (s.ctx 0)) 0 (s.ctx 0) (b3 shoreVa 0 0) j, meets e (⟨.shore, 0⟩, 8) = false) ∧
      fencedBy s 3 [(⟨.shore, 0⟩, 8)] = some 9) ∧
    ∀ s : State, (peerFenced s [(⟨.peer 1 (some 0), 0⟩, 8)]).2 = Config.freePeerFence s.free := by
  refine ⟨⟨⟨rfl, rfl, rfl, rfl, rfl⟩, rfl, rfl, by decide +kernel, rfl, by decide +kernel, rfl⟩, fun _ => rfl⟩

/-- Stores and atomics at the first shore byte, PREF of any address. -/
theorem meets_MemoryInstructionsExecute : Slot3 (at3 .u shoreVa 0 0) shoreVa 0 0 ∧
    (let s := at3 .u shoreVa 0 0
     ∀ n ∈ [1, 2, 4, 8], shoreVa.toNat % n = 0 ∧
       (∀ rd ∈ [false, true], resolve s (ctxRt s (s.ctx 0)) (dieOf (cvOfX 0)) shoreVa n rd true = (s, .ok ((⟨.shore, 0⟩, n) :: []))) ∧
       fencedBy s 3 [(⟨.shore, 0⟩, n)] = none ∧ (peerFenced s [(⟨.shore, 0⟩, n)]).2 = false ∧ gateLets s 3 = true) := by
  refine ⟨at3_slot3 .u _ _ _, ?_⟩
  intro s n hn
  simp only [List.mem_cons, List.not_mem_nil, or_false] at hn
  rcases hn with rfl | rfl | rfl | rfl <;> refine ⟨by decide, ?_, rfl, rfl, rfl⟩ <;> intro rd hr <;>
    simp only [List.mem_cons, List.not_mem_nil, or_false] at hr <;> rcases hr with rfl | rfl <;> rfl

/-- Misaligned addresses of each size, and deep addresses of each size that nothing maps. -/
theorem meets_AccessTraps :
    (∀ u, Slot3 (at3 .u u 0 0) u 0 0) ∧
    ((1 : Word).toNat % 2 ≠ 0 ∧ (2 : Word).toNat % 4 ≠ 0 ∧ (4 : Word).toNat % 8 ≠ 0) ∧
    (let s := at3 .u 0x1000 0 0
     (∀ j < 3, passedSync (b3 0x1000 0 0) j = true ∧ addrReady s 0 (s.ctx 0) (b3 0x1000 0 0) j = true) ∧
     ∀ n ∈ [1, 2, 4, 8], (0x1000 : Word).toNat % n = 0 ∧
       resolve s (ctxRt s (s.ctx 0)) (dieOf (cvOfX 0)) 0x1000 n true false = (s, .error ⟨0x40, 0⟩) ∧
       resolve s (ctxRt s (s.ctx 0)) (dieOf (cvOfX 0)) 0x1000 n false true = (s, .error ⟨0x40, 0⟩) ∧
       resolve s (ctxRt s (s.ctx 0)) (dieOf (cvOfX 0)) 0x1000 n true true = (s, .error ⟨0x40, 0⟩)) := by
  refine ⟨fun u => at3_slot3 .u u 0 0, by decide, by decide +kernel, ?_⟩
  intro n hn
  simp only [List.mem_cons, List.not_mem_nil, or_false] at hn
  rcases hn with rfl | rfl | rfl | rfl <;> exact ⟨by decide, rfl, rfl, rfl⟩

/-- The boundary pointers of R13 to R18: the class that names nothing; the last address of the deep class and the first above it; reserved bits of a
shore pointer; the last cove and the first that is none; the last byte of a bank and an access that runs past it; region-relative pointers within and
without the region, with no region, and into a half-cove; this device and another, with and without a valid entry. -/
theorem meets_AddressCauses :
    (∀ e ∈ [((0xC000000000000000 : Word), 62, 2, 3), (0x000FFFFFFFFFFFFF, 62, 2, 0), (0x000FFFFFFFFFFFFF, 52, 10, 0), (0x0010000000000000, 52, 10, 1),
        (0x4000000000000000, 31, 30, 0), (0x4000000080000000, 31, 30, 1), (0x400000000BFF0000, 20, 8, 191), (0x400000000C000000, 20, 8, 192),
        (0x6000000000080000, 61, 1, 1), (0x6000000000080000, 16, 4, 8), (0x6000000070000000, 28, 3, 7), (0x8000000000000000, 62, 2, 2),
        (0x8010000000000000, 52, 10, 1)], e.1.toNat / 2 ^ e.2.1 % 2 ^ e.2.2.1 = e.2.2.2) ∧
    ((0x000FFFFFFFFFFFFF : Word).toNat + 1 ≤ 2 ^ 52 ∧ 65536 < 65535 % 65536 + 2 ∧ 65535 % 65536 + 1 ≤ 65536) ∧
    (let rt := ctxRt (at3 .u 0 0 0) ((at3 .u 0 0 0).ctx 0)
     rt.priv = false ∧ rt.reg = some cove0 ∧ cove0.hasCell 15 = true ∧ cove0.hasCell 16 = false ∧ rt.wins = [] ∧
      cove0.die 7 = some 7 ∧ Region.die ⟨0, [1], 0, 1, 1, 0⟩ 7 = none ∧ half1.kind = 1 ∧ half1.half = 1) ∧
    ((at3 .u 0 0 0).host.devnum = 0 ∧ peerEntry (at3 .u 0 0 0) 1 / 2 ^ 31 % 2 = 0 ∧
      peerEntry { world with hbm := [(7, 0x80)] } 1 / 2 ^ 31 % 2 = 1) := by
  decide +kernel

/-! ### Predicates, branches, traps -/

/-- A predicate on a slot that yielded 0, its complement on one that yielded 1, and one on a slot that has not executed. -/
theorem meets_PredicatedOffSlots :
    let s := at3 .u 1 0 0
    s.focus = .slot 0 3 ∧ (s.ctx 0).st = .run ∧ (s.ctx 0).blk = some (b3 1 0 0) ∧ canRun (b3 1 0 0) 3 = true ∧
      predOf (b3 1 0 0) 0x01 = some false ∧ predOf (b3 1 0 0) 0x80 = some false ∧ predOf (b3 1 0 0) 0x03 = none :=
  ⟨rfl, rfl, rfl, rfl, rfl, rfl, rfl⟩

theorem meets_BranchClassExecutes : Slot3 (at3 .s 0x2000 7 0) 0x2000 7 0 ∧ ((at3 .s 0x2000 7 0).ctx 0).prv ≠ .u ∧
    Slot3 (at3 .u 0x2000 7 0) 0x2000 7 0 ∧ ((at3 .u 0x2000 7 0).ctx 0).prv = .u :=
  ⟨at3_slot3 .s _ _ _, by show Priv.s ≠ Priv.u; decide, at3_slot3 .u _ _ _, rfl⟩

/-- Numbers in a row, each with the same value. -/
theorem find_span {V : Type} (v : V) (a n k : Nat) (h : a ≤ k) (h2 : k < a + n) : Tab.find? ((span a n).map fun i => (i, v)) k = some v := by
  induction n generalizing a with
  | zero => omega
  | succ n ih =>
    by_cases e : a = k
    · simp [span, Tab.find?, e]
    · simp only [span, List.map_cons, Tab.find?, e, if_false]
      exact ih (a + 1) (by omega) (by omega)

theorem no_free_record (s : State) (h : ∀ i < 4096, (Tab.find? s.recs.owner i).isSome = true) : freeRec s = none := by
  have : ∀ f i, i + f ≤ 4096 → freeRecFrom s f i = none := by
    intro f
    induction f with
    | zero => intro i _; rfl
    | succ f ih =>
      intro i hi
      have := h i (by omega)
      simp [freeRecFrom, Option.isSome_iff_ne_none.mp this, ih (i + 1) (by omega)]
  exact this 4096 0 (by omega)

/-- The world with an agent frozen on every record. -/
def noRecords : State := { world with recs := { world.recs with owner := (span 0 4096).map fun i => (i, Agent.port 0 0) } }

theorem noRecords_free : freeRec noRecords = none :=
  no_free_record _ fun i hi => congrArg Option.isSome (find_span (Agent.port 0 0) 0 4096 i (by omega) (by omega))

/-- A block whose slot 1 has trapped, its slot 0 executed, not executed, or waiting on an empty FIFO in QPOP. -/
def trapping (w : BitVec 32) (o : List (Nat × SlotSt)) : State :=
  inSlot world { ctx3 .u 0 0 0 with blk := some ⟨0x1000, [w, 0x28000000], [], false, o ++ [(1, .trapped 0x13 0)]⟩ }

/-- TRAP with every slot below executed; trap entry at U, with INTRAP set, with no handler, with a record free and with none; a trapped
slot with the one below it executed, waiting in QPOP, and not executed. -/
theorem meets_TrapsAreTaken :
    (let s := at3 .u 0 0 0
     let b := b3 0 0 0
     Executes s 0 3 b 0xFF ∧ 3 < b.body.length ∧ (∀ j < 3, b.isExt j = true ∨ b.resolved j = true) ∧
       (s.ctx 0).intrap = false ∧ (s.ctx 0).xvec ≠ 0 ∧ s.arrs = [] ∧ s.recs.wait = [] ∧ s.recs.lost = 0 ∧ freeRec s = some 0) ∧
    (∀ j < 3, ∀ q w, (b3 0 0 0).slot j ≠ some (.trapped q w)) ∧
    ((inSlot world { ctx3 .u 0 0 0 with intrap := true }).ctx 0).intrap = true ∧
    ((inSlot world { ctx3 .u 0 0 0 with xvec := 0 }).ctx 0).xvec = 0 ∧
    (noRecords.arrs = [] ∧ freeRec noRecords = none) ∧
    (let b : Blk := ⟨0x1000, [0x28000000, 0x28000000], [], false, [(0, .done 0 .nothing 0), (1, .trapped 0x13 0)]⟩
     ((trapping 0x28000000 [(0, .done 0 .nothing 0)]).ctx 0).st = .run ∧ ((trapping 0x28000000 [(0, .done 0 .nothing 0)]).ctx 0).blk = some b ∧ b.slot 1 = some (.trapped 0x13 0) ∧ b.resolved 0 = true) ∧
    (let s := trapping 0x64C000FF [(0, .wait 0)]
     let b : Blk := ⟨0x1000, [0x64C000FF, 0x28000000], [], false, [(0, .wait 0), (1, .trapped 0x13 0)]⟩
     (s.ctx 0).blk = some b ∧ waitsPop s 0 (s.ctx 0) b 0 = true) ∧
    (let s := trapping 0x28000000 []
     let b : Blk := ⟨0x1000, [0x28000000, 0x28000000], [], false, [(1, .trapped 0x13 0)]⟩
     (s.ctx 0).blk = some b ∧ b.isExt 0 = false ∧ b.resolved 0 = false ∧ waitsPop s 0 (s.ctx 0) b 0 = false) := by
  refine ⟨⟨⟨rfl, rfl, rfl, rfl, rfl⟩, by decide, by decide +kernel, rfl, by decide, rfl, rfl, rfl, by decide +kernel⟩, ?_, rfl, rfl, ⟨rfl, noRecords_free⟩,
    ⟨rfl, rfl, rfl, rfl⟩, ⟨rfl, rfl⟩, ⟨rfl, rfl, rfl, rfl⟩⟩
  intro j hj q w
  match j, hj with
  | 0, _ => intro h; exact absurd h (by simp [Blk.slot, b3, blk3, Tab.find?])
  | 1, _ => intro h; exact absurd h (by simp [Blk.slot, b3, blk3, Tab.find?])
  | 2, _ => intro h; exact absurd h (by simp [Blk.slot, b3, blk3, Tab.find?])

end Sys2Proof.Tests
end

