-- ==== Sys2Proof/Tests/WitCommit.lean ====
section
/-!
SUPPORT. Witnesses of the statements about synchronisation, translation, the fetch and the commit of blocks.
-/
namespace Sys2Proof.Tests
set_option Elab.async false
open Sys2Proof Sys2Proof.Machine

/-! ### Synchronisation and effects -/

/-- A store of context 0 in flight. -/
def store0 : Acc := ⟨0, .ctx 0, 3, shoreVa, 1, .wr [(0, 7)], [(⟨.shore, 0⟩, 1)], none, true, 0⟩

/-- The same context with a store in flight, and with its slot 3 waiting since clock 0. -/
def storing (u : Word) : State := { at3 .u u 0 0 with accs := [store0] }
def waiting (u : Word) : State :=
  inSlot world { ctx3 .u u 0 0 with blk := some { b3 u 0 0 with slots := (b3 u 0 0).slots ++ [(3, .wait 0)] } }

/-- FENCE with no store in flight and with one, before its first attempt and while it waits; WAIT on barrier 63 at 0 and above it, on number 64,
and on a barrier of the other half. -/
theorem meets_FenceAndWaitResults :
    (Executes (at3 .u 63 0 0) 0 3 (b3 63 0 0) 0xFF ∧ ∀ c ∈ (at3 .u 63 0 0).accs, c.ag ≠ .ctx 0) ∧
    (Executes (storing 63) 0 3 (b3 63 0 0) 0xFF ∧ (∃ c ∈ (storing 63).accs, c.ag = .ctx 0) ∧ (b3 63 0 0).slot 3 = none) ∧
    (let b : Blk := { b3 63 0 0 with slots := (b3 63 0 0).slots ++ [(3, .wait 0)] }
     Executes (waiting 63) 0 3 b 0xFF ∧ Operand (waiting 63) 0 b 0 63 ∧ ∃ c, b.slot 3 = some (.wait c)) ∧
    (MayName (at3 .u 63 0 0) 0 63 64 ∧ (at3 .u 63 0 0).bar (cvOfX 0) 63 = 0) ∧
    (let s := (at3 .u 63 0 0).setBar 0 63 5
     Executes s 0 3 (b3 63 0 0) 0xFF ∧ Operand s 0 (b3 63 0 0) 0 63 ∧ MayName s 0 63 64 ∧ s.bar (cvOfX 0) 63 ≠ 0) ∧
    (Slot3 (at3 .u 64 0 0) 64 0 0 ∧ 64 ≤ (64 : Word).toNat) ∧ (Slot3 (halves 0 0 0) 0 0 0 ∧ ¬MayName (halves 0 0 0) 0 0 64) := by
  refine ⟨⟨at3_executes .u _ _ _, by intro c hc; cases hc⟩, ⟨⟨rfl, rfl, rfl, rfl, rfl⟩, ⟨store0, by decide, rfl⟩, rfl⟩,
    ⟨⟨rfl, rfl, rfl, rfl, rfl⟩, rfl, 0, rfl⟩, ⟨Or.inr rfl, rfl⟩, ⟨⟨rfl, rfl, rfl, rfl, rfl⟩, rfl, Or.inr rfl, by decide⟩,
    ⟨at3_slot3 .u _ _ _, by decide⟩, ⟨⟨⟨rfl, rfl, rfl, rfl, rfl⟩, rfl, rfl, rfl⟩, ?_⟩⟩
  exact (meets_StatusReadResults.2.1 0 0 0).2.1

/-- The world with a token in FIFO 7 to the core. -/
def oneToken (u : Word) : State :=
  inSlot (world.setCove 0 { world.cove 0 with tq := [(7, [d32 1 2 3 4])] }) (ctx3 .u u 0 0)

/-- A block whose slot 0 has executed SYS. -/
def sysFirst : State := inSlot world { ctx3 .u 0 0 0 with blk := some { b3 0 0 0 with slots := [(0, .done 0 (.sys 1) 0)] } }

theorem b3_no_sys (u v w : Word) (j : Nat) : isSys (b3 u v w) j = false := by
  simp only [isSys, Blk.slot, b3, blk3, Tab.find?]
  by_cases h0 : (0 : Nat) = j <;> by_cases h1 : 1 = j <;> by_cases h2 : 2 = j <;> simp [h0, h1, h2]

/-- Barriers 0 and 63, counts up to 2^32 - 1, levels 2 and 7 and what lies beyond; FIFO 7 in each part with a token and without; QPUSH of the last
kind and of a kind, a reserved bit and a high half that are refused; the pool's one command; SYS with no other below it and with one. -/
theorem meets_EffectInstructionsExecute :
    (∀ e ∈ [((63 : Word), (0xFFFFFFFF : Word)), (64, 0), (0, 0x100000000), (2, 0), (7, 0), (1, 0), (8, 0)], Slot3 (at3 .u e.1 e.2 0) e.1 e.2 0) ∧
    ((63 : Word).toNat < 64 ∧ (0xFFFFFFFF : Word).toNat < 2 ^ 32 ∧ MayName (at3 .u 63 0xFFFFFFFF 0) 0 (63 : Word).toNat 64) ∧
    (Slot3 (halves 0 0 0) 0 0 0 ∧ ¬MayName (halves 0 0 0) 0 (0 : Word).toNat 64 ∧ ¬MayName (halves 0 0 0) 0 ((0 : Word).toNat % 8) 8) ∧
    (∀ u ∈ [(7 : Word), 15, 23], Executes (oneToken u) 0 3 (b3 u 0 0) 0xFF ∧ Operand (oneToken u) 0 (b3 u 0 0) 0 u ∧ MayName (oneToken u) 0 7 8 ∧
      (∀ j < 3, popSettled (oneToken u) ⟨0, 3, (oneToken u).ctx 0, b3 u 0 0⟩ 7 j = true) ∧
      (Tab.get [] ((oneToken u).cove (cvOfX 0)).tq 7)[((span 0 3).filter (popsFrom (b3 u 0 0) 7)).length]? = some (d32 1 2 3 4)) ∧
    ((7 : Word).toNat = 7 + 8 * 0 ∧ (15 : Word).toNat = 7 + 8 * 1 ∧ (23 : Word).toNat = 7 + 8 * 2) ∧
    (Slot3 (at3 .u 7 0 0) 7 0 0 ∧ (Tab.get [] ((at3 .u 7 0 0).cove (cvOfX 0)).tq 7)[((span 0 3).filter (popsFrom (b3 7 0 0) 7)).length]? = none) ∧
    (32 ≤ (32 : Word).toNat ∧ (0x18 : Word).toNat / 8 % 4 = 3) ∧
    ((∀ w, Slot3 (at3 .u 1 2 w) 1 2 w) ∧ (0x50037 : Word) = (0 : BitVec 32) ++ (5 : BitVec 16) ++ BitVec.ofNat 16 (7 + 8 * 6) ∧
      (0x38 : Word).extractLsb' 3 3 = 7 ∧ (0x40 : Word).extractLsb' 6 10 ≠ 0 ∧ (0x100000000 : Word).extractLsb' 32 32 ≠ 0) ∧
    ((b3 1 2 0).pool = [] ++ List.replicate 16 0 ++ [] ∧ ([] : List Byte).length = 16 * (0 : BitVec 16).toNat ∧ (List.replicate 16 (0 : Byte)).length = 16) ∧
    (∀ j, isSys (b3 1 2 0) j = false) ∧
    (let b : Blk := { b3 0 0 0 with slots := [(0, .done 0 (.sys 1) 0)] }
     Executes sysFirst 0 3 b 0xFF ∧ ∃ j < 3, isSys b j = true) := by
  refine ⟨fun e _ => at3_slot3 .u e.1 e.2 0, ⟨by decide, by decide, Or.inr rfl⟩,
    ⟨⟨⟨rfl, rfl, rfl, rfl, rfl⟩, rfl, rfl, rfl⟩, (meets_StatusReadResults.2.1 0 0 0).2.1, (meets_StatusReadResults.2.1 0 0 0).2.2⟩, ?_,
    by decide, ⟨at3_slot3 .u _ _ _, rfl⟩, by decide, ⟨fun w => at3_slot3 .u 1 2 w, by decide⟩, ⟨rfl, by decide⟩, b3_no_sys 1 2 0,
    ⟨⟨rfl, rfl, rfl, rfl, rfl⟩, 0, by decide, rfl⟩⟩
  intro u hu
  simp only [List.mem_cons, List.not_mem_nil, or_false] at hu
  rcases hu with rfl | rfl | rfl <;> exact ⟨⟨rfl, rfl, rfl, rfl, rfl⟩, rfl, Or.inr rfl, by decide, rfl⟩

/-! ### Translation -/

/-- A residency whose tables at 0x10000 map the first GiB to 2^30, readable and writable. -/
def paged : State :=
  { world with
    res := [(3, { resOf cove0 with root := 0x10000 })]
    hbm := [(0x10000, 0x01), (0x10001, 0x40), (0x10002, 0x01), (0x14000, 0x0F), (0x14003, 0x40)] }
def pagedAt (u v : Word) : State := inSlot paged (ctx3 .u u v 0)

/-- The entry of that page, and one that may only be read. -/
def gib : TEnt := ⟨0x10000, 0, 2, 2 ^ 30, false, true, true⟩
def pagedHeld (e : TEnt) (u v : Word) : State := inSlot { paged with tlb := [(0, [e])] } (ctx3 .u u v 0)

/-- A cached entry that permits and one that does not, a walk that succeeds and one that does not, and operands out of range. -/
theorem meets_XlateResults :
    (∀ e u v, Slot3 (pagedHeld e u v) u v 0) ∧ (∀ u v, Slot3 (pagedAt u v) u v 0) ∧
    (let s := pagedHeld gib 0x1000 0
     tlbFind (Tab.get [] s.tlb (dieOf (cvOfX 0))) (ctxRt s (s.ctx 0)).root (0x1000 : Word).toNat = some gib ∧
       gib.permits ((0 : Word) == 0) ((0 : Word) == 1) = true) ∧
    (let e : TEnt := { gib with w := false }
     let s := pagedHeld e 0x1000 1
     tlbFind (Tab.get [] s.tlb (dieOf (cvOfX 0))) (ctxRt s (s.ctx 0)).root (0x1000 : Word).toNat = some e ∧
       e.permits ((1 : Word) == 0) ((1 : Word) == 1) = false) ∧
    (let s := pagedAt 0x1000 0
     tlbFind (Tab.get [] s.tlb (dieOf (cvOfX 0))) (ctxRt s (s.ctx 0)).root (0x1000 : Word).toNat = none ∧
       walk s (ctxRt s (s.ctx 0)).root (0x1000 : Word).toNat ((0 : Word) == 0) ((0 : Word) == 1) = .ok gib) ∧
    (let s := pagedAt 0x40000000 0
     tlbFind (Tab.get [] s.tlb (dieOf (cvOfX 0))) (ctxRt s (s.ctx 0)).root (0x40000000 : Word).toNat = none ∧
       walk s (ctxRt s (s.ctx 0)).root (0x40000000 : Word).toNat ((0 : Word) == 0) ((0 : Word) == 1) = .error 0x40) ∧
    ((0x1000 : Word).toNat < 2 ^ 52 ∧ (1 : Word).toNat ≤ 1 ∧ 2 ^ 52 ≤ (0x10000000000000 : Word).toNat ∧ 1 < (2 : Word).toNat) := by
  refine ⟨fun e u v => ⟨⟨rfl, rfl, rfl, rfl, rfl⟩, rfl, rfl, rfl⟩, fun u v => ⟨⟨rfl, rfl, rfl, rfl, rfl⟩, rfl, rfl, rfl⟩, ⟨by decide +kernel, by decide⟩,
    ⟨by decide +kernel, by decide⟩, ⟨by decide +kernel, eq_ok (by decide +kernel)⟩,
    ⟨by decide +kernel, eq_error (by decide +kernel)⟩, by decide⟩

/-! ### Commit -/

/-- Context 0 with a finished block of these slots, one word each. -/
def finished (l : List SlotSt) : State :=
  inSlot world { ctx3 .u 0 0 0 with blk := some ⟨0x1000, List.replicate l.length 0x28000000, [], false, (l.zipIdx).map fun e => (e.2, e.1)⟩ }

/-- A block whose slot 0 has this effect and flags and whose slot 1 branches to 0x2000. -/
def committing (e : Eff) (fl : BitVec 5) : State := finished [.done 0 e fl, .done 0 (.exit .branch 0x2000) 0]
def blkOf (e : Eff) (fl : BitVec 5) : Blk :=
  ⟨0x1000, [0x28000000, 0x28000000], [], false, [(0, .done 0 e fl), (1, .done 0 (.exit .branch 0x2000) 0)]⟩

theorem blkOf_finished (e : Eff) (fl : BitVec 5) : (blkOf e fl).finished = true := by
  simp [Blk.finished, Blk.resolved, Blk.val, Blk.slot, span, Tab.find?, blkOf]

theorem committing_commits (e : Eff) (fl : BitVec 5) : Commits (committing e fl) 0 0 (blkOf e fl) e fl 0x2000 :=
  ⟨rfl, rfl, blkOf_finished e fl, ⟨1, rfl⟩, rfl⟩

/-- The same where the permit gate is closed. -/
def gateShut (s : State) : State := { s with res := [(3, { resOf cove0 with gate := 1 })], clock := 1 }

/-- A block with no exit, with two, and with one, the gate open, or closed with a store to deep memory in the block. -/
theorem meets_ExitCountTraps :
    (∀ e ∈ [Eff.nothing, .exit .halt 0, .call 0x3000 1 0x4000], ((committing e 0).ctx 0).st = .run ∧ ((committing e 0).ctx 0).blk = some (blkOf e 0) ∧
      (blkOf e 0).finished = true) ∧
    (let b : Blk := ⟨0x1000, [0x28000000], [], false, [(0, .done 0 .nothing 0)]⟩
     ((finished [.done 0 .nothing 0]).ctx 0).blk = some b ∧ b.finished = true ∧ (exitsOf b.doneSlots).length = 0) ∧
    (2 ≤ (exitsOf (blkOf (.exit .halt 0) 0).doneSlots).length ∧ 2 ≤ (exitsOf (blkOf (.call 0x3000 1 0x4000) 0).doneSlots).length) ∧
    (let s := committing .nothing 0
     exitsOf (blkOf .nothing 0).doneSlots = [⟨.branch, 0x2000⟩] ∧ commitTrap s 0 (s.ctx 0) (blkOf .nothing 0) (blkOf .nothing 0).doneSlots = none ∧
       commitRoom s (cvOfX 0) (blkOf .nothing 0).doneSlots = true ∧ gateLets s 3 = true) ∧
    (let e := Eff.store ⟨.hbm, 65536⟩ 0x10000 8 0
     let s := gateShut (committing e 0)
     commitTrap s 0 (s.ctx 0) (blkOf e 0) (blkOf e 0).doneSlots = none ∧ gateLets s (s.ctx 0).rid = false ∧
       ∃ d ∈ (blkOf e 0).doneSlots, d.e = e) := by
  refine ⟨fun e _ => ⟨rfl, rfl, blkOf_finished e 0⟩, ⟨rfl, rfl, rfl⟩, by decide, ⟨rfl, rfl, rfl, rfl⟩, ⟨rfl, by decide +kernel, ⟨0, _, 0⟩, .head _, rfl⟩⟩

/-- Every effect, and a block that ends in CALL. -/
theorem meets_CommitWritesRegisters :
    (∀ e fl, Commits (committing e fl) 0 0 (blkOf e fl) e fl 0x2000) ∧
    (let s := finished [.done 0 (.call 0x2000 63 0x77) 0]
     let b : Blk := ⟨0x1000, [0x28000000], [], false, [(0, .done 0 (.call 0x2000 63 0x77) 0)]⟩
     (s.ctx 0).st = .run ∧ (s.ctx 0).blk = some b ∧ b.finished = true ∧ b.doneSlots = [⟨0, .call 0x2000 63 0x77, 0⟩] ∧ s.arrs = []) ∧
    Tab.rising ((committing .nothing 0).ctx 0).g = true :=
  ⟨committing_commits, ⟨rfl, rfl, rfl, rfl, rfl⟩, rfl⟩

/-- A block that ends in ERET, its event taken from this wait, with these arrivals and another context of the core in this state. -/
def returning (back : Option CtxSt) (l : List Arrival) (y : CtxSt) : State :=
  let s := finished [.done 0 (.exit .eret 0x2000) 1]
  { (s.setCtx 0 { s.ctx 0 with back := back }).setCtx 1 { Ctx.idle with st := y, rid := 3 } with arrs := l }

/-- Each exit; ERET to a BARWAIT whose arrival stands or is gone, and to a YIELDWAIT that is over or not; SYS with a handler, and SYS
beside HALT and ERET. -/
theorem meets_ExitsTakeEffect :
    (∀ k, let s := finished [.done 0 (.exit k 0x2000) 1]
     let b : Blk := ⟨0x1000, [0x28000000], [], false, [(0, .done 0 (.exit k 0x2000) 1)]⟩
     (s.ctx 0).st = .run ∧ (s.ctx 0).blk = some b ∧ b.finished = true ∧ b.doneSlots = [⟨0, .exit k 0x2000, 1⟩] ∧ s.arrs = [] ∧
       (s.ctx 0).back = none) ∧
    (∀ e ∈ [(some (CtxSt.barwait 2), []), (some (.barwait 2), [⟨false, 2, 3, 0, 0, none, []⟩]), (some (.yieldwait 0 [(1, 0)]), []), (some (.yieldwait 0 []), [])],
     let s := returning e.1 e.2 .run
     let b : Blk := ⟨0x1000, [0x28000000], [], false, [(0, .done 0 (.exit .eret 0x2000) 1)]⟩
     (s.ctx 0).st = .run ∧ (s.ctx 0).blk = some b ∧ b.doneSlots = [⟨0, .exit .eret 0x2000, 1⟩] ∧ (s.ctx 0).back = e.1 ∧ s.arrs = e.2 ∧
       (∃ y ∈ barParts s 3 2 0, y ≠ 0) ∧ ¬0 + 64 ≤ cycleOf s 0 ∧ ¬0 < (s.ctx 1).commits) ∧
    (Commits (committing (.sys 7) 1) 0 0 (blkOf (.sys 7) 1) (.sys 7) 1 0x2000 ∧ ((committing (.sys 7) 1).ctx 0).intrap = false ∧
      ((committing (.sys 7) 1).ctx 0).xvec ≠ 0) ∧
    (∀ k ∈ [ExitKind.halt, .eret], let s := finished [.done 0 (.sys 7) 0, .done 0 (.exit k 0x2000) 0]
     let b : Blk := ⟨0x1000, [0x28000000, 0x28000000], [], false, [(0, .done 0 (.sys 7) 0), (1, .done 0 (.exit k 0x2000) 0)]⟩
     (s.ctx 0).st = .run ∧ (s.ctx 0).blk = some b ∧ b.finished = true ∧ exitsOf b.doneSlots = [⟨k, 0x2000⟩] ∧ sysOf b.doneSlots = some (0, 7)) :=
  ⟨fun k => ⟨rfl, rfl, by cases k <;> rfl, rfl, rfl, rfl⟩, by decide +kernel, ⟨committing_commits _ _, rfl, by decide⟩, by decide +kernel⟩

/-- The same with context 1 of the core, of its residency: running, or waiting at the barrier of level 2. -/
def withOther (s : State) (y : CtxSt) (l : List Arrival) : State := { s.setCtx 1 { Ctx.idle with st := y, rid := 3 } with arrs := l }

/-- A push commits while a token of residency 3 is still on its way to FIFO 7. -/
def pushBehind : State :=
  let s := committing (.push 7 eotTok) 0
  s.setCove 0 { s.cove 0 with fqIn := [(7, [(3, bare 2)])] }

/-- A push to a FIFO that a token is on its way to, and the arrival of that token. -/
theorem meets_pushes_wait :
    Commits pushBehind 0 0 (blkOf (.push 7 eotTok) 0) (.push 7 eotTok) 0 0x2000 ∧ fqCount pushBehind 0 7 < 16 ∧
    Tab.get [] (pushBehind.cove 0).fqIn 7 = (3, bare 2) :: [] ∧ Tab.rising (pushBehind.cove 0).fqIn = true ∧ (pushBehind.fifo 0 7).debt = 0 ∧
    (pushBehind.fifo 0 7).closed = false ∧ (pushBehind.fifo 0 7).win = false :=
  ⟨⟨rfl, rfl, blkOf_finished _ _, ⟨1, rfl⟩, rfl⟩, by decide +kernel, rfl, rfl, rfl, rfl, rfl⟩

/-- BBARM, XFCLR of the matrix node and of cell 15, DRAIN as a command with its scoreboard empty, and a push into an empty FIFO 7; a store
to the shore, and one to deep memory with the gate open; BAR with another context still to come, and as the last to arrive. -/
theorem meets_CommitMovesData :
    (∀ e fl, Commits (committing e fl) 0 0 (blkOf e fl) e fl 0x2000) ∧
    Tab.rising ((committing (.bbarm 63 5) 0).cove (cvOfX 0)).bars = true ∧
    ((0x1001 : Word).extractLsb' 8 5 = 16 ∧ (15 : Nat) < 16 ∧ ((0xFFFF0F1F : Word).extractLsb' 8 5).toNat = 15) ∧
    (let w : BitVec 128 := 0x0B000000000000000000000000000000
     let e := Eff.scmd w
     commitTrap (committing e 0) 0 ((committing e 0).ctx 0) (blkOf e 0) (blkOf e 0).doneSlots = none ∧ sbLen (committing e 0) (sbKey (cvOfX 0) (sbIndex w)) < 16) ∧
    (let q := (committing (.push 7 eotTok) 0).fifo (cvOfX 0) 7
     (7 : Nat) < 8 ∧ fqCount (committing (.push 7 eotTok) 0) 0 7 < 16 ∧ Tab.get [] ((committing (.push 7 eotTok) 0).cove 0).fqIn 7 = [] ∧ q.debt = 0 ∧ q.closed = false ∧ q.win = false ∧
       canArrive (committing (.push 7 eotTok) 0) (16 * cvOfX 0) (0xA8 + 7) 0 = true) ∧
    (∀ e, gateLets (committing e 0) ((committing e 0).ctx 0).rid = true) ∧
    (let s := withOther (committing (.bar 2) 0) .run []
     Commits s 0 0 (blkOf (.bar 2) 0) (.bar 2) 0 0x2000 ∧ ∃ y ∈ barParts s (s.ctx 0).rid 2 (cvOfX 0), y ≠ 0) ∧
    (let s := withOther (committing (.bar 2) 0) (.barwait 2) [⟨false, 2, 3, 0, 1, none, []⟩]
     (s.ctx 0).st = .run ∧ (s.ctx 0).blk = some (blkOf (.bar 2) 0) ∧ (blkOf (.bar 2) 0).doneSlots = [⟨0, .bar 2, 0⟩, ⟨1, .exit .branch 0x2000, 0⟩] ∧
       groupOf s 3 2 = 0 ∧ s.accs = [] ∧ (∀ y, y ∈ barParts s 3 2 0 ↔ y = 0 ∨ y ∈ [1]) ∧ (s.ctx 1).st = .barwait 2) := by
  refine ⟨committing_commits, rfl, by decide, ⟨by decide +kernel, by decide +kernel⟩, by decide +kernel, fun _ => rfl,
    ⟨⟨rfl, rfl, blkOf_finished _ _, ⟨1, rfl⟩, rfl⟩, by decide +kernel⟩, ⟨rfl, rfl, rfl, by decide +kernel, rfl, ?_, rfl⟩⟩
  have h : barParts (withOther (committing (.bar 2) 0) (.barwait 2) [⟨false, 2, 3, 0, 1, none, []⟩]) 3 2 0 = [0, 1] := by decide +kernel
  intro y
  rw [h]
  simp

/-- An atomic on the first 8 bytes of the first bank, and one on HBM above page 0. -/
theorem meets_AtomicsAreOneAccess :
    ∀ pa ∈ [(⟨.shore, 0⟩ : PA), ⟨.hbm, 65536⟩], ∀ op < 8,
      let e := Eff.atomic op pa shoreVa 1 2 63
      let s := committing e 0
      Commits s 0 0 (blkOf e 0) e 0 0x2000 ∧ (∀ a ∈ s.accs, a.ag ≠ .ctx 0) ∧ s.hbm.wf = true ∧ s.hostMem.wf = true ∧ s.shore.wf = true ∧
        Tab.rising (s.ctx 0).g = true ∧ (pa.sp = .hbm → 65536 ≤ pa.adr) ∧ (∀ dev l, pa.sp ≠ .peer dev l) ∧
        fencedBy s (s.ctx 0).rid [(pa, 8)] = none ∧ gateLets s (s.ctx 0).rid = true ∧
        ∀ i < 8, psnAt s ⟨pa.sp, pa.adr + i⟩ = false := by
  intro pa hp op _ e s
  refine ⟨committing_commits _ _, by (intro a ha; cases ha), rfl, rfl, rfl, rfl, ?_⟩
  simp only [List.mem_cons, List.not_mem_nil, or_false] at hp
  rcases hp with rfl | rfl
  · exact ⟨fun h => absurd h (by decide), nofun, rfl, rfl, fun _ _ => rfl⟩
  · exact ⟨fun _ => by decide, nofun, rfl, rfl, fun _ _ => rfl⟩

/-! ### Fetch -/

/-- Context 0 about to fetch at `b`, with these bytes in the mapped GiB. -/
def fetching (f : List (Nat × Byte)) (b : Word) : State :=
  { paged.setCtx 0 { Ctx.idle with st := .run, rid := 3, next := b, xvec := 0x40, xvecm := 0x80 } with hbm := paged.hbm ++ f }

/-- A block of one slot, HALT, at 0x1000, and one whose slot 0 is all zeros. -/
def haltBlock : List (Nat × Byte) := [(0x40001003, 0xB0), (0x40001004, 0xFF), (0x40001007, 0x5E)]
def zeroBlock : List (Nat × Byte) := [(0x40001003, 0xB0)]

/-- A fetched block that passes its checks, and one with a format fault. -/
theorem meets_fetched_block : ∀ f ∈ [haltBlock, zeroBlock],
    let s := fetching f 0x1000
    let rt := ctxRt s (s.ctx 0)
    let hd : List Byte := [0, 0, 0, 0xB0]
    ∃ s1 s2 s3 pa bs, (s.ctx 0).st = .run ∧ (s.ctx 0).blk = none ∧ (s.ctx 0).next.toNat % 16 = 0 ∧ isDeep (s.ctx 0).next = true ∧
      classify s rt (s.ctx 0).next 4 false = .ok (.deep 0x1000) ∧
      xlateDeep s (dieOf (cvOfX 0)) rt.root (s.ctx 0).next.toNat true false = (s1, .ok pa) ∧
      fetchBytes s1 0 rt.root (s.ctx 0).next 4 = (s2, .ok hd) ∧ headerBad (leNat hd) = false ∧
      classify s2 rt (s.ctx 0).next (poolOff (leNat hd) + 16 * poolLen (leNat hd)) false = .ok (.deep 0x1000) ∧
      fetchBytes s2 0 rt.root (s.ctx 0).next (poolOff (leNat hd) + 16 * poolLen (leNat hd)) = (s3, .ok bs) ∧
      formatFault (wordsOf (bodyLen (leNat hd)) (bs.drop 4)) (poolLen (leNat hd)) = (if f = haltBlock then none else some (0, 4)) ∧
      gateLets s 3 = true := by
  intro f hf
  simp only [List.mem_cons, List.not_mem_nil, or_false] at hf
  rcases hf with rfl | rfl
  · exact ⟨_, _, _, _, [0, 0, 0, 0xB0, 0xFF, 0, 0, 0x5E, 0, 0, 0, 0, 0, 0, 0, 0], rfl, rfl, by decide, by decide, eq_ok (by decide +kernel),
      pair_ok (x := ⟨.hbm, 0x40001000⟩) (by decide +kernel), pair_got (by decide +kernel), by decide, eq_ok (by decide +kernel),
      pair_got (by decide +kernel), by decide +kernel, rfl⟩
  · exact ⟨_, _, _, _, [0, 0, 0, 0xB0, 0, 0, 0, 0, 0, 0, 0, 0, 0, 0, 0, 0], rfl, rfl, by decide, by decide, eq_ok (by decide +kernel),
      pair_ok (x := ⟨.hbm, 0x40001000⟩) (by decide +kernel), pair_got (by decide +kernel), by decide, eq_ok (by decide +kernel),
      pair_got (by decide +kernel), by decide +kernel, rfl⟩

/-- A block that breaks BLK_LIMIT by its stores and by its commands, and one at both limits; one that is sound; and slots of each kind: all zeros, no row,
a row with each sort of operand, an EXT at slot 0, after a slot that takes none, and after an atomic. -/
theorem meets_FormatFaults :
    let many := fun body : List (BitVec 32) =>
      16 < (body.filter fun w => decide (0x47 ≤ slotOp w ∧ slotOp w ≤ 0x4A ∨ 0x50 ≤ slotOp w ∧ slotOp w ≤ 0x57)).length ∨
        8 < (body.filter fun w => decide (slotOp w = 0x68 ∨ slotOp w = 0x69)).length
    (many (List.replicate 17 0x47000000) ∧ many (List.replicate 9 0x68000000) ∧ ¬many (List.replicate 16 0x47000000 ++ List.replicate 8 0x68000000)) ∧
    (¬many [0x5E0000FF] ∧ slotCauses [0x5E0000FF] 1 0 = [] ∧ slotCauses [0x5E0000FF, 0] 1 1 = [4] ∧ ([4] : List Nat) = [4]) ∧
    (slotOp 0x7F000000 ≠ 0 ∧ slotOp 0x7F000000 ≠ 0x78 ∧ slotRow (slotOp 0x7F000000) = none ∧ (slotRow (slotOp 0x01E8FFFF)).isSome = true) ∧
    (slotOp 0x78000000 = 0x78 ∧ (slotRow (slotOp 0x5E0000FF)).bind (·.ext) = none ∧ ((slotRow (slotOp 0x50FFFFFF)).bind (·.ext)).isSome = true) := by
  decide +kernel

/-- The first line in the block cache, as the context sees it. -/
def cached (l : Option (List Byte)) : State :=
  let s := fetching haltBlock 0x1000
  let k := cacheKey ⟨.hbm, 0x40001000⟩
  (s.setCove 0 { s.cove 0 with bcache := [k] }).setCtx 0 { s.ctx 0 with seen := [(k, l)] }

/-- What a fetch traps on: bits above the deep class, shore memory, a page that nothing maps, a misaligned address, a header of zeros, and poison in
the first line, read now or seen before; a line that is held, and one that has to be read with the gate closed. -/
theorem meets_BlocksAreFetched :
    (∀ b, ((fetching [] b).ctx 0).st = .run ∧ ((fetching [] b).ctx 0).blk = none ∧ ((fetching [] b).ctx 0).next = b ∧ gateLets (fetching [] b) 3 = true) ∧
    (let at_ := fun b : Word => classify (fetching [] b) (ctxRt (fetching [] b) ((fetching [] b).ctx 0)) b 4 false
     at_ 0x10000000000000 = .error 0x21 ∧ at_ shoreVa = .ok (.shore 0) ∧ isDeep shoreVa = false ∧
       ∀ b ∈ [(0x1008 : Word), 0x1100, 0x40000000], at_ b = .ok (.deep b.toNat) ∧ isDeep b = true) ∧
    (∃ s1, xlateDeep (fetching [] 0x40000000) 0 0x10000 (0x40000000 : Word).toNat true false = (s1, .error 0x40)) ∧
    (∃ s1 pa, xlateDeep (fetching [] 0x1008) 0 0x10000 (0x1008 : Word).toNat true false = (s1, .ok pa) ∧ (0x1008 : Word).toNat % 16 ≠ 0) ∧
    (∃ s1 pa s2, xlateDeep (fetching [] 0x1100) 0 0x10000 (0x1100 : Word).toNat true false = (s1, .ok pa) ∧ (0x1100 : Word).toNat % 16 = 0 ∧
      fetchBytes s1 0 0x10000 0x1100 4 = (s2, .ok [0, 0, 0, 0]) ∧ headerBad (leNat [0, 0, 0, 0]) = true) ∧
    (let s := psnMark (fetching haltBlock 0x1000) ⟨.hbm, 0x40001000⟩
     ∃ s1 s2 pa p1, xlateDeep s 0 0x10000 0x1000 true false = (s1, .ok pa) ∧ xlateDeep s1 0 0x10000 (0x1000 / 64 * 64) true false = (s2, .ok p1) ∧
       Tab.find? (s2.ctx 0).seen (cacheKey p1) = none ∧ psnAt s2 p1 = true ∧
       ∃ s3, fetchLines 0 0x10000 0x1000 [64] s1 [] = (s3, .trap 0x4C (BitVec.ofNat 64 (64 * 64)))) ∧
    (∀ l ∈ [none, some (List.replicate 64 (0 : Byte))], let s := cached l
     ∃ s1 p1, xlateDeep s 0 0x10000 0x1000 true false = (s1, .ok p1) ∧ has (s1.cove 0).bcache (cacheKey p1) = true ∧
       Tab.find? (s1.ctx 0).seen (cacheKey p1) = some l) ∧
    (let s := gateShut (fetching haltBlock 0x1000)
     gateLets s (s.ctx 0).rid = false ∧ asked s (fetchBytes s 0 0x10000 0x1000 4).1 (s.ctx 0).rid = true) := by
  refine ⟨fun b => ⟨rfl, rfl, rfl, rfl⟩, ⟨eq_error (by decide +kernel), eq_ok (by decide +kernel), by decide, ?_⟩, ⟨_, pair_error (by decide +kernel)⟩,
    ⟨_, _, pair_ok (x := ⟨.hbm, 0x40001008⟩) (by decide +kernel), by decide⟩,
    ⟨_, _, _, pair_ok (x := ⟨.hbm, 0x40001100⟩) (by decide +kernel), by decide, pair_got (by decide +kernel), by decide⟩,
    ⟨_, _, _, _, pair_ok (x := ⟨.hbm, 0x40001000⟩) (by decide +kernel), pair_ok (x := ⟨.hbm, 0x40001000⟩) (by decide +kernel), by decide +kernel,
      by decide +kernel, _, pair_trap (by decide +kernel)⟩, ?_, by decide +kernel⟩
  case refine_2 =>
    intro l hl
    simp only [List.mem_cons, List.not_mem_nil, or_false] at hl
    rcases hl with rfl | rfl <;> exact ⟨_, _, pair_ok (x := ⟨.hbm, 0x40001000⟩) (by decide +kernel), by decide +kernel, by decide +kernel⟩
  intro b hb
  simp only [List.mem_cons, List.not_mem_nil, or_false] at hb
  rcases hb with rfl | rfl | rfl <;> exact ⟨eq_ok (by decide +kernel), by decide⟩

end Sys2Proof.Tests
end

