-- ==== Sys2Proof/Tests/WitCmd.lean ====
section
/-!
SUPPORT. Witnesses of the statements about stream commands, with small steps of some of them.
-/
namespace Sys2Proof.Tests
set_option Elab.async false
open Sys2Proof Sys2Proof.Machine

/-! ### Commands at the head of a scoreboard -/

/-- The bytes of a memory from `a` on. -/
def memOf (a : Nat) (l : List Byte) : Memory := (l.zipIdx).filterMap fun e => if e.1 = 0 then none else some (a + e.2, e.1)

/-- A command of context 0 of residency 3. -/
def cmdOf (w : BitVec 128) (p : Priv) : Cmd := Cmd.mk w 0 3 p false [] none none

/-- A command at the head of scoreboard `sb`, with the turn. -/
def heading (s : State) (sb : Nat) (c : Cmd) : State := { s with sbs := [(sb, [c])], focus := .cmd sb }

theorem heading_ready (s : State) (sb : Nat) (c : Cmd) (f : CmdW) (h1 : s.sbFz = []) (h2 : s.accs = [] ∨ c.rel = [])
    (h3 : cmdLives (heading s sb c) c = true) (h4 : gated (heading s sb c) c = false) : CmdReady (heading s sb c) sb c f := by
  refine ⟨rfl, ⟨[], by simp [sbCmds, heading, Tab.get, Tab.find?]⟩, by simp [heading, h1], ?_, h4, h3⟩
  intro i hi a ha
  rcases h2 with h | h
  · simp [heading, h] at ha
  · simp [h] at hi

/-- What a read at a pointer gives, where the kernel can compare it. -/
def readOf : State × RdV → Option (List Byte × Option Nat)
  | (_, .ok b p) => some (b, p)
  | _ => none
theorem read_exists {r : State × RdV} {b : List Byte} {p : Option Nat} (h : readOf r = some (b, p)) : ∃ t, r = (t, .ok b p) := by
  rcases r with ⟨t, b' | e⟩
  · cases h; exact ⟨t, rfl⟩
  · cases h
theorem block_reads {s : State} {sb : Nat} {c : Cmd} {f : CmdW} {b : List Byte} (h : c.block = none)
    (h2 : readOf (rdVa s (cmdRt s c) (dieOf (coveOfSb sb)) (fPtr f) 64) = some (b, none)) : ∃ t, BlockReads s sb c f b t := by
  obtain ⟨t, e⟩ := read_exists h2
  exact ⟨t, Or.inr ⟨h, e⟩⟩
theorem ok_exists {E A : Type} {r : State × Except E A} {a : A} (h : okOf r.2 = some a) : ∃ t, r = (t, .ok a) := by
  rcases r with ⟨t, e | b⟩
  · cases h
  · cases h; exact ⟨t, rfl⟩

/-- The world with these bytes at the head of the first bank, where PARAM points to them. -/
def blockAt (b : List Byte) : State := { world with shore := memOf 0 b }
def toBlock (tgt flg sub : BitVec 8) : CmdW := ⟨tgt, flg, sub, 0x4000000000000000⟩

/-- A node word of cell 0 that uses port 0x40, and the world with it in its active context. -/
def portWord (op : BitVec 8) (mode : BitVec 4) : BitVec 128 :=
  op ++ (0 : BitVec 8) ++ mode ++ (0 : BitVec 8) ++ (0x000 : BitVec 12) ++ (0xFF0 : BitVec 12) ++ (0xFF0 : BitVec 12) ++ (0x200 : BitVec 12)
    ++ (0xFF0 : BitVec 12) ++ (0x40 : BitVec 40)
def withNode (s : State) (w : BitVec 128) : State := s.setCell 0 { s.cell 0 with imgs := [(0, ⟨[w], [], [], 0, []⟩)] }

/-! ### Blocks (R184, R186, R189, R203 to R205) -/

/-- Five elements of four 32-bit lanes at `base`, 16 bytes apart. -/
def affBlock (base : Nat) : List Byte :=
  leBytes base 8 ++ [2, 4, 0xFF, 1, 0, 0, 0, 0] ++ leBytes 5 4 ++ leBytes 1 4 ++ leBytes 1 4 ++ leBytes 1 4 ++ leBytes 16 4 ++ List.replicate 28 0

/-- A gather of three elements of 32-bit lanes by 32-bit offsets at 0x2000; also a scatter. -/
def jobBlock : List Byte :=
  leBytes 0x1000 8 ++ leBytes 0x2000 8 ++ leBytes 0 8 ++ leBytes 3 4 ++ leBytes 0 4 ++ leBytes 16 4 ++ [2, 4, 6, 0] ++ leBytes 0x3000 8
    ++ List.replicate 16 0

/-- A copy of 64 bytes, with barrier 63. -/
def copyBlock : List Byte :=
  leBytes 0x1000 8 ++ leBytes 0x4000000000000100 8 ++ leBytes 64 4 ++ leBytes 0 8 ++ [63, 3, 0, 0] ++ List.replicate 32 0

/-- Reading the block of a command of residency 3 that PARAM names. -/
theorem meets_blocks : ∀ b ∈ [affBlock 0x1000, affBlock 0x4000000000000100, jobBlock, copyBlock], ∀ (tgt flg sub : BitVec 8),
    let c := cmdOf 0 .u
    readOf (rdVa (heading (blockAt b) 0 c) (cmdRt (heading (blockAt b) 0 c) c) (dieOf (coveOfSb 0)) (fPtr (toBlock tgt flg sub)) 64) = some (b, none) := by
  intro b hb tgt flg sub
  simp only [List.mem_cons, List.not_mem_nil, or_false] at hb
  have e : fPtr (toBlock tgt flg sub) = shoreVa := by simp only [fPtr, toBlock]; decide
  rcases hb with rfl | rfl | rfl | rfl <;> (simp only [e]; decide +kernel)

/-- Each BIND to a port that a node of its kind uses, with and without a credit, and to one that no node uses; UNBIND of a bound port; ARM.COPY and DISARM.COPY of an idle
queue and of one with a firing that stands. -/
theorem meets_PortAndCopyCommandsPerform :
    portNode (heading (blockAt (affBlock 0x1000)) 0 (cmdOf 0 .u)) 3 0 0 = none ∧
    (∀ s f, s.sbFz = [] → s.accs = [] → s.res = world.res → CmdReady (heading s 0 (cmdOf 0 .u)) 0 (cmdOf 0 .u) f) ∧
    (let s := heading (withNode (blockAt (affBlock 0x1000)) (portWord 0x83 2)) 0 (cmdOf 0 .u)
     (s.port 0 0).bind = none ∧ portNode s 3 0 0 = some (0, nodeFields (portWord 0x83 2), 0x83) ∧
       (nodeFields (portWord 0x83 2)).mode.toNat = fld (affBlock 0x1000) 8 1 ∧ firstOff (affFields false (affBlock 0x1000)) = none) ∧
    (let s := heading (withNode (blockAt (affBlock 0x4000000000000100)) (portWord 0x84 2)) 0 (cmdOf 0 .u)
     (s.port 0 0).bind = none ∧ portNode s 3 0 0 = some (0, nodeFields (portWord 0x84 2), 0x84) ∧ (toBlock 0x40 1 5).flg.getLsbD 0 = true ∧
       0x84 % 2 = 0 ∧ firstOff (affFields true (affBlock 0x4000000000000100)) = none) ∧
    (let s := heading (withNode (blockAt jobBlock) (portWord 0x85 2)) 0 (cmdOf 0 .u)
     (s.port 0 0).bind = none ∧ portNode s 3 0 0 = some (0, nodeFields (portWord 0x85 2), 0x85) ∧
       (nodeFields (portWord 0x85 2)).mode.toNat = fld jobBlock 36 1 ∧ firstOff (jobFields false jobBlock) = none ∧ (toBlock 0x40 0 0).flg = 0) ∧
    (let s := heading (withNode (blockAt jobBlock) (portWord 0x86 2)) 0 (cmdOf 0 .u)
     (s.port 0 0).bind = none ∧ portNode s 3 0 0 = some (0, nodeFields (portWord 0x86 2), 0x86) ∧ firstOff (jobFields true jobBlock) = none) ∧
    (let s := heading { withNode (blockAt jobBlock) (portWord 0x85 2) with tlb := mapped.tlb } 0 (cmdOf 0 .u)
     ∃ t, resolve s (cmdRt s (cmdOf 0 .u)) 0 (fldPtr jobBlock 8) 1 true false = (t, .ok [(⟨.hbm, 2 ^ 30 + 0x2000⟩, 1)])) ∧
    (let s := heading (world.setPort 0 0 { Port.empty with bind := some (affBind false true none (affBlock 0x1000)) }) 0 (cmdOf 0 .u)
     (s.port 0 0).bind.isSome = true ∧ (s.port 0 0).unb = none) ∧
    (let s := heading (blockAt copyBlock) 79 (cmdOf 0 .u)
     firstOff (copyFields s ⟨79, cmdOf 0 .u, toBlock 0x8F 0 0⟩ copyBlock) = none ∧ (s.cq 0 63).cur = none ∧ (s.cq 0 63).lo = none) ∧
    (let s := heading (world.setCq 0 63 { CopyQ.empty with cur := some 0 }) 79 (cmdOf 0 .u)
     (s.cq 0 63).cur.isSome = true) := by
  refine ⟨by decide +kernel, ?_, ?_, ?_, ?_, ?_, ok_exists (by decide +kernel), ⟨rfl, rfl⟩, ?_, rfl⟩
  · intro s f h1 h2 h3
    exact heading_ready s 0 _ f h1 (Or.inl h2) (by simp [cmdLives, cmdOf, alive, heading, h3, world, Tab.find?, resOf]) rfl
  all_goals decide +kernel

/-- UNBIND with ABORT marks the port and leaves the scoreboard. -/
theorem test_unbind :
    let s := heading (world.setPort 0 0 { Port.empty with bind := some (affBind false true none (affBlock 0x1000)) }) 0 (cmdOf 0 .u)
    let t := after (.unbind ⟨0x40, 1, 0, 0⟩) s
    (t.port 0 0).unb = some true ∧ sbCmds t 0 = [] := by decide +kernel

/-- BIND.AFF puts the block's fields into the port. -/
theorem test_bind_aff :
    let s := heading (withNode (blockAt (affBlock 0x1000)) (portWord 0x83 2)) 0 (cmdOf 0 .u)
    let t := after (.bindAff (toBlock 0x40 0 0)) s
    (t.port 0 0).bind.map (fun b => (b.base, b.dims, b.strs, b.read)) = some (0x1000, [5, 1, 1, 1], [16, 0, 0, 0], true) := by decide +kernel

/-! ### Configuration -/

/-- An image of one FORK from FIFO 0 of the core to the sink, for cove 0. -/
def image : List Byte :=
  [0x41, 0x44, 0x58, 0x49, 1, 0, 1, 0, 1, 1, 0, 0, 0, 0, 0, 0] ++ leBytes 64 8 ++ leBytes 832 8 ++ leBytes 0 8 ++ leBytes 832 8 ++ List.replicate 16 0
    ++ leBytes 0x6000000A80FF0FF0FE0FF00000000000 16 ++ List.replicate 752 0

/-- CFG.LOAD's block: that image, every die, row and column, copied or not, with barrier 0. -/
def loadBlock (rep : Byte) : List Byte :=
  leBytes 0x2000 8 ++ leBytes 0 8 ++ leBytes 0 4 ++ [0xFF, 0] ++ leBytes 0xFFF 2 ++ leBytes 0xFFFF 2 ++ [rep, 0] ++ List.replicate 36 0

/-- CFG.LOAD into slot 3, its block read, and where its copies go: cove 0 as a whole, or as each cove. -/
def loadCmd (rep : Byte) : Cmd :=
  { cmdOf ((0x08 : BitVec 8) ++ (3 : BitVec 8) ++ (0 : BitVec 16) ++ (0x4000000000000000 : BitVec 96)) .u with block := some (loadBlock rep) }
def loading (rep : Byte) : State :=
  heading { blockAt (loadBlock rep) with hbm := memOf 0x40002000 image, tlb := mapped.tlb } 80 (loadCmd rep)
def loadInto (rep : Byte) (w : Option Nat) : Dest := ⟨cove0, w, [0], keptBits (loading rep) 3 [], true⟩

/-- A coupled channel of endpoint 0, and the world with it. -/
def coup0 : Coup := ⟨0, 0, 1, ⟨4, 1, none, 4, 1, 255, 0⟩, none, 0, 0, 0, 0, 0⟩

/-- COUPLE of that channel, PERMIT.ADJ to 5 permits of 9, CFG.SWAP to slot 1 that holds an image. -/
def coupleWord : BitVec 128 :=
  (0x0F : BitVec 8) ++ (0 : BitVec 24) ++ BitVec.ofNat 96 (0x20 + 3 * 2 ^ 24 + 2 ^ 30 + 31 * 2 ^ 33 + 2 ^ 38 + 2 ^ 42 + 255 * 2 ^ 50)
def tuned : State :=
  { world.setCell 0 { world.cell 0 with imgs := [(1, CellImg.empty)], endps := [(0, ⟨32, 0, 4, 4, 0, 0⟩)] } with
    res := [(3, { resOf cove0 with coups := [coup0], permits := 9 })] }

/-- A slot table with one turn of 255 clocks, and sampling parameters. -/
def slotBlock : List Byte := leBytes (255 + 2 ^ 19) 4 ++ List.replicate 60 0
def sampBlock : List Byte :=
  leBytes 1 4 ++ leBytes 2 4 ++ leBytes 3 8 ++ leBytes 256 2 ++ leBytes 0 2 ++ leBytes 0x3F800000 4 ++ leBytes 0x7F7FFFFF 4 ++ leBytes 9 4 ++ [0xFF]
    ++ List.replicate 31 0

/-- The world where residency 3 has this active context and a DRAIN phase under way or not. -/
def draining (k : Option Nat) (on : Bool) : State := { world with res := [(3, { resOf cove0 with active := k, drainOn := on })] }

/-- CFG.LOAD of a sound image once for the region and once for its cove; COUPLE and PERMIT.ADJ whose checks pass; a table of predicates
that rises; DRAIN with no active context, in a phase and before one; MSLOT and SAMPLE.CFG with sound blocks. -/
theorem meets_ConfigurationCommandsPerform :
    (∀ rep ∈ [(0 : Byte), 1], CmdReady (loading rep) 80 (loadCmd rep) (cmdFields (loadCmd rep).w) ∧ StillPasses (loading rep) 80 (loadCmd rep) ∧
      BlockReads (loading rep) 80 (loadCmd rep) (cmdFields (loadCmd rep).w) (loadBlock rep) (loading rep) ∧
      firstOff (loadFields (loading rep) ⟨80, loadCmd rep, cmdFields (loadCmd rep).w⟩ (loadBlock rep)) = none ∧
      Tab.find? (loading rep).res 3 = some (resOf cove0) ∧
      cove0.coves.filter (maskSelects (fld (loadBlock rep) 20 1) (fld (loadBlock rep) 22 2) (fld (loadBlock rep) 24 2)) = [0] ∧
      ∃ t2 l, loadCopies (cmdRt (loading rep) (loadCmd rep)) 0 (loadInto rep) (loadBlock rep) (if rep = 1 then [some 0] else [none]) (loading rep) []
        = (t2, .ok l)) ∧
    (∀ w ∈ [coupleWord, 0x10000000000000000000000000000005],
      CmdReady (heading tuned 80 (cmdOf w .u)) 80 (cmdOf w .u) (cmdFields w) ∧ StillPasses (heading tuned 80 (cmdOf w .u)) 80 (cmdOf w .u)) ∧
    Tab.rising (resOf cove0).nct = true ∧
    (∀ e ∈ [((none : Option Nat), false), (some 0, true), (some 0, false)],
      CmdReady (heading (draining e.1 e.2) 80 (cmdOf 0 .u)) 80 (cmdOf 0 .u) (toBlock 0 0 0)) ∧
    (∀ b ∈ [slotBlock, sampBlock], ∃ t, BlockReads (heading (blockAt b) 80 (cmdOf 0 .s)) 80 (cmdOf 0 .s) (toBlock 0 0 0) b t) ∧
    firstOff (mslotFields (heading (blockAt slotBlock) 80 (cmdOf 0 .s)) 0 slotBlock) = none ∧ firstOff (sampFields sampBlock) = none := by
  refine ⟨?_, ?_, rfl, ?_, ?_, by decide +kernel, by decide +kernel⟩
  · intro rep hr
    simp only [List.mem_cons, List.not_mem_nil, or_false] at hr
    rcases hr with rfl | rfl <;>
      refine ⟨heading_ready _ _ _ _ rfl (Or.inl rfl) (by decide +kernel) (by decide +kernel), by unfold StillPasses; decide +kernel, Or.inl ⟨rfl, rfl⟩,
        by decide +kernel, by decide +kernel, by decide +kernel, ?_⟩
    · obtain ⟨t, h⟩ := ok_exists (r := loadCopies (cmdRt (loading 0) (loadCmd 0)) 0 (loadInto 0) (loadBlock 0) [none] (loading 0) [])
        (a := ((okOf (loadCopies (cmdRt (loading 0) (loadCmd 0)) 0 (loadInto 0) (loadBlock 0) [none] (loading 0) []).2).getD [])) (by decide +kernel)
      exact ⟨t, _, h⟩
    · obtain ⟨t, h⟩ := ok_exists (r := loadCopies (cmdRt (loading 1) (loadCmd 1)) 0 (loadInto 1) (loadBlock 1) [some 0] (loading 1) [])
        (a := ((okOf (loadCopies (cmdRt (loading 1) (loadCmd 1)) 0 (loadInto 1) (loadBlock 1) [some 0] (loading 1) []).2).getD [])) (by decide +kernel)
      exact ⟨t, _, h⟩
  · intro w hw
    simp only [List.mem_cons, List.not_mem_nil, or_false] at hw
    rcases hw with rfl | rfl <;>
      exact ⟨heading_ready _ _ _ _ rfl (Or.inl rfl) (by decide +kernel) (by decide +kernel), by unfold StillPasses; decide +kernel⟩
  · intro e _
    exact heading_ready _ _ _ _ rfl (Or.inl rfl) rfl rfl
  · intro b hb
    simp only [List.mem_cons, List.not_mem_nil, or_false] at hb
    rcases hb with rfl | rfl <;> exact block_reads rfl (by decide +kernel)

/-- CFG.PRED with mask bit 15 writes entry 15 alone. -/
theorem test_cfg_pred :
    let f : CmdW := ⟨0, 0, 0, BitVec.ofNat 96 (2 ^ 63 + 2 * 2 ^ 45)⟩
    ((Tab.find? (after (.cfgPred f) (heading world 80 (cmdOf 0 .u))).res 3).map fun r => Tab.get 4 r.nct 15) = some 2 := by decide +kernel

end Sys2Proof.Tests
end

