-- ==== Sys2Proof/Tests/WitNode.lean ====
section
/-!
SUPPORT. Witnesses of the statements about lane, format and routing nodes.
-/
namespace Sys2Proof.Tests
set_option Elab.async false
open Sys2Proof Sys2Proof.Machine

/-! ### Nodes at their heads -/

/-- Three heads. -/
def hd3 (a b c : Tok) (i : Nat) : Tok := if i = 0 then a else if i = 1 then b else c

/-- Cell 0 of the world as `cellOf` makes it. -/
def cellIn (s0 : State) (a b c : List Tok) (d : Node) : State :=
  let e : Endp := ⟨32, 0, 4, 4, 0, 0⟩
  { s0.setCell 0 { s0.cell 0 with
      queues := [(0, queueOf 0 a), (1, queueOf 0 b), (2, queueOf 0 c)]
      endps := [(0, e), (1, { e with dst := 33 })]
      nodes := [(0, d)] } with focus := .node 0 }

/-- What the kernel compares of `NodeAt`, `NodeReady` and `LaneReady`. -/
def atB (s : State) (n : Nat) (w : NodeW) (l : List Nat) (hd : Nat → Tok) : Bool :=
  decide (s.focus = .node n) && (ncx s n w).rooms && l.all fun i => decide ((ncx s n w).hd i = some (hd i))
theorem at_of {s : State} {n : Nat} {w : NodeW} {l : List Nat} {hd : Nat → Tok} (h : atB s n w l hd = true) : NodeAt s n w l hd := by
  simp only [atB, Bool.and_eq_true, decide_eq_true_eq, List.all_eq_true] at h
  exact ⟨h.1.1, h.1.2, h.2⟩
theorem ready_of {s : State} {n : Nat} {w : NodeW} {l : List Nat} {hd : Nat → Tok}
    (h : (atB s n w l hd && decide (heads (ncx s n w) true l = .data)) = true) : NodeReady s n w l hd := by
  simp only [Bool.and_eq_true, decide_eq_true_eq] at h
  exact ⟨at_of h.1, h.2⟩
theorem lane_of {s : State} {n : Nat} {w : NodeW} {l : List Nat} {hd : Nat → Tok}
    (h : (atB s n w l hd && decide (heads (ncx s n w) true l = .data)
      && l.all fun i => decide ((hd i).k = if w.t = true ∧ i = 2 then 6 else 0)) = true) : LaneReady s n w l hd := by
  simp only [Bool.and_eq_true, decide_eq_true_eq, List.all_eq_true] at h
  exact ⟨ready_of (by simp [h.1.1, h.1.2]), h.2⟩

/-- One token at each input, and the node in a state. -/
def cell3 (a b c : Tok) (d : Node) : State := cellOf [a] [b] [c] d

/-- Ready with these heads. -/
abbrev Rdy (w : NodeW) (l : List Nat) (a b c : Tok) (d : Node) : Prop := NodeReady (cell3 a b c d) 0 w l (hd3 a b c)
abbrev Att (w : NodeW) (l : List Nat) (a b c : Tok) (d : Node) : Prop := NodeAt (cell3 a b c d) 0 w l (hd3 a b c)

/-- Four ones; a node in a state. -/
def ones : Tok := d32 1 1 1 1
def nodeOp (o : OpSt) : Node := { Node.empty with op := o }

/-! ### Lanes -/

/-- Input 0 holds ones at a sticky count of 15 with EOS behind, and input 1 has this token. -/
def heldAt (b : Tok) : State :=
  let s := cell3 ones b ones Node.empty
  s.setCell 0 { s.cell 0 with queues := [(0, queueOf 15 [ones, bare 4]), (1, queueOf 0 [b])] }

/-- What the lane nodes need of a cell: one, two and three operands, and the immediate in place of the last. -/
abbrev Lanes (w : NodeW) (l : List Nat) (m : Option Nat) (c : Tok) : Prop :=
  LaneReady (cell3 ones ones c Node.empty) 0 w (laneNeeds (ncx (cell3 ones ones c Node.empty) 0 w) l m) (hd3 ones ones c)

/-- Integer formats 2 and 7 and floating-point format 0 on one, two and three operands, with the immediate, and with a control input on a two-entry
node; SEL with a true and a false control, with the immediate, and by lanes. -/
theorem meets_ArithmeticNodesFire :
    (∀ m ∈ [(0 : BitVec 4), 2, 7], Lanes (w1 m 0) [0] none ones ∧ Lanes (w2 m 0) [0, 1] (some 1) ones ∧ Lanes (w3 m 0) [0, 1, 2] (some 2) ones ∧
      Lanes (w1 m 0x8000000005) [0, 1] (some 1) ones ∧ Lanes (w2 m 0x8000000005) [0, 1, 2] (some 2) ones) ∧
    Lanes { w3 2 0 with t := true } [0, 1, 2] (some 2) (ct 1) ∧
    ((w2 7 0).n = false ∧ (w2 7 0).mode.toNat < 8 ∧ bitOf (w2 2 0).imm.toNat 35 = false ∧ bitOf (w2 2 0x0800000000).imm.toNat 35 = true) ∧
    Lanes (w2 2 0x0800000000) [0, 1] (some 1) ones ∧
    (∀ e ∈ [(w3 2 0, ct 0), (w3 2 0, ct 3), (w3 2 0, d32 1 0 1 0)],
      let ns := laneNeeds (ncx (cell3 ones ones e.2 Node.empty) 0 e.1) [0, 1, 2] (some 1)
      Rdy e.1 ns ones ones e.2 Node.empty ∧ 2 ∈ ns ∧ 0 ∈ ns ∧ 1 ∈ ns ∧ ∀ i ∈ ns, i ≠ 2 → (hd3 ones ones e.2 i).k = 0) ∧
    (let w := wc 2 0x8000000005
     let ns := laneNeeds (ncx (cell3 ones ones (ct 0) Node.empty) 0 w) [0, 1, 2] (some 1)
     Rdy w ns ones ones (ct 0) Node.empty ∧ 2 ∈ ns ∧ 0 ∈ ns ∧ useImm (ncx (cell3 ones ones (ct 0) Node.empty) 0 w) = true) := by
  refine ⟨?_, lane_of (by decide +kernel), by decide, lane_of (by decide +kernel), ?_, ready_of (by decide +kernel), by decide +kernel⟩
  · intro m h
    simp only [List.mem_cons, List.not_mem_nil, or_false] at h
    rcases h with rfl | rfl | rfl <;> exact ⟨lane_of (by decide +kernel), lane_of (by decide +kernel), lane_of (by decide +kernel),
      lane_of (by decide +kernel), lane_of (by decide +kernel)⟩
  · intro e h
    simp only [List.mem_cons, List.not_mem_nil, or_false] at h
    rcases h with rfl | rfl | rfl <;> exact ⟨ready_of (by decide +kernel), by decide +kernel⟩

/-! ### Formats -/

/-- A value gathered; 28 of them, with which four more fill a block. -/
def many (n : Nat) : OpSt := .gather (List.replicate n 0x3F800000) false

/-- CVT by groups and out of MX with and without its scale held; into a block that the operand does not and does fill; UNPACKB at each of its three
points; PERM with and without a permutation token; REDUCE with a valid lane and none; ACC at the end of a fibre and of its outer level; HDR in each of
its cases, a delimiter on IN_A alone and on both inputs; SCAN with EXCL and CARRY; SPLAT of each kind. -/
theorem meets_FormatNodesFire :
    (Rdy (w1 8 9) [0] ones ones ones Node.empty ∧ bitOf (w1 8 9).imm.toNat 7 = false) ∧
    (∀ m ∈ [(11 : BitVec 4), 13], (cvtSt Node.empty).2.1 = none ∧ Rdy (w2 m 0x88) [0, 1] ones ones ones Node.empty ∧ laneOk 8 ones 0 = true ∧
      (cvtSt (nodeOp (.cvt 1 (some 127) false))).2 = (some 127, false) ∧ Rdy (w2 m 0x88) [0] ones ones ones (nodeOp (.cvt 1 (some 127) false))) ∧
    (Rdy (w2 8 0x8B) [0] ones ones ones Node.empty ∧ bitOf (w2 8 0x8B).imm.toNat 7 = true ∧
      (gathered Node.empty ++ valuesOf 8 ones).length < 32 ∧ Rdy (w2 8 0x8B) [0] ones ones ones (nodeOp (many 28)) ∧
      32 ≤ (gathered (nodeOp (many 28)) ++ valuesOf 8 ones).length) ∧
    (let full := if bitOf (w1 8 0).imm.toNat 0 then 1 else 2
     full = 2 ∧ Rdy (w1 8 0) [0] ones ones ones Node.empty ∧ unpackSt Node.empty = ([], 0) ∧
       Rdy (w1 8 0) [0] ones ones ones (nodeOp (.unpack [ones] 0)) ∧ unpackSt (nodeOp (.unpack [ones] 0)) = ([ones], 0) ∧
       Att (w1 8 0) [] ones ones ones (nodeOp (.unpack [ones, ones] 1)) ∧ unpackSt (nodeOp (.unpack [ones, ones] 1)) = ([ones, ones], 1)) ∧
    (∀ w ∈ [w1 2 0, w3 2 0], let ns := (ncx (cell3 ones ones ones Node.empty) 0 w).needed [0, 1, 2]
      Rdy w ns ones ones ones Node.empty ∧ (∀ i ∈ ns, (hd3 ones ones ones i).k = 0) ∧ 0 ∈ ns ∧ (2 ∈ ns ↔ w = w3 2 0)) ∧
    (Rdy (w1 2 0) [0] (bare 0) ones ones Node.empty ∧
      (((span 0 (fmtLanes 2)).map fun j => (lane (fmtWidth 2) (bare 0).pay j, laneOk (fmtWidth 2) (bare 0) j)).filter (·.2)).map (·.1) = [] ∧
      Rdy (w1 2 0) [0] ones ones ones Node.empty) ∧
    (∀ w ∈ [w1 2 0, w1 2 0x0800000000], ∀ o ∈ [OpSt.none, .accum [1, 2, 3, 4] true true],
      let t := bare (if bitOf w.imm.toNat 35 then 3 else 2)
      Att w [0] t ones ones (nodeOp o) ∧
        heads (ncx (cell3 t ones ones (nodeOp o)) 0 w) true [0] = .delim (if bitOf w.imm.toNat 35 then 3 else 2) [(0, true)] t) ∧
    (∀ t ∈ [bare 1, ones, coord 3, idx 0 0], Att (w1 2 0) [0] t ones ones Node.empty ∧ Att (w1 2 0x1000000000) [0] t ones ones Node.empty ∧
      Att (w1 2 0) [0] t ones ones (nodeOp (.hdr false)) ∧ Att (w2 2 0) [0, 1] t ones ones Node.empty) ∧
    (let c := ncx (cell3 ones ones ones Node.empty) 0 (w1 2 0)
     let e := ncx (cell3 ones ones ones Node.empty) 0 (w2 2 0)
     c.has 0 = true ∧ c.has 1 = false ∧ e.has 1 = true ∧ hdrStart Node.empty = true ∧ hdrStart (nodeOp (.hdr false)) = false ∧
       bitOf (w1 2 0).imm.toNat 36 = false ∧ bitOf (w1 2 0x1000000000).imm.toNat 36 = true) ∧
    (∀ k ∈ [2, 3, 4], let c := ncx (cell3 (bare k) (bare k) ones Node.empty) 0 (w1 2 0)
     let e := ncx (cell3 (bare k) (bare k) ones Node.empty) 0 (w2 2 0)
     Att (w1 2 0) [0] (bare k) (bare k) ones Node.empty ∧ Att (w2 2 0) [0, 1] (bare k) (bare k) ones Node.empty ∧
       c.needed [0, 1] = [0] ∧ heads c false [0] = .delim k [(0, true)] (bare k) ∧
       e.needed [0, 1] = [0, 1] ∧ heads e false [0, 1] = .delim k [(0, true), (1, true)] (bare k) ∧
      let s := heldAt (bare k)
      NodeAt s 0 (w2 2 0) [0, 1] (hd3 ones (bare k) ones) ∧ (ncx s 0 (w2 2 0)).held 0 = true ∧
        heads (ncx s 0 (w2 2 0)) false [0, 1] = .delim k (nth [] [[(0, true), (1, true)], [(1, true)], [(0, true), (0, true), (1, true)]] (k - 2)) (bare k)) ∧
    (NodeAt (heldAt ones) 0 (w2 2 0) [0, 1] (hd3 ones ones ones) ∧ (ncx (heldAt ones) 0 (w2 2 0)).held 0 = true ∧
      heads (ncx (heldAt ones) 0 (w2 2 0)) false [0, 1] = .data ∧ (ncx (cell3 ones ones ones Node.empty) 0 (w2 2 0)).held 0 = false) ∧
    (let w := w1 2 0x1800000000
     let lanesOf := fun t : Tok => (span 0 (fmtLanes 2)).map fun j => (lane (fmtWidth 2) t.pay j, laneOk (fmtWidth 2) t j)
     bitOf w.imm.toNat 35 = true ∧ bitOf w.imm.toNat 36 = true ∧ Rdy w [0] ones ones ones Node.empty ∧ Rdy w [0] (bare 0) ones ones Node.empty ∧
      (scanLanes 2 0 true (lanesOf ones) 0).1.map (·.2.2) = [true, true, true, true] ∧
      ∀ x ∈ (scanLanes 2 0 true (lanesOf (bare 0)) 0).1, x.2.2 = false) ∧
    (∀ t ∈ [ct 7, coord 3, idx 5 0, ones, bare 0], Rdy (w1 2 0) [0] t ones ones Node.empty) ∧ laneOk (fmtWidth 2) ones (bitsOf 0 0 5) = true ∧
    laneOk (fmtWidth 2) (bare 0) (bitsOf 0 0 5) = false := by
  refine ⟨⟨ready_of (by decide +kernel), by decide⟩, ?_,
    ⟨ready_of (by decide +kernel), by decide, by decide +kernel, ready_of (by decide +kernel), by decide +kernel⟩,
    ⟨by decide, ready_of (by decide +kernel), rfl, ready_of (by decide +kernel), rfl, at_of (by decide +kernel), rfl⟩, ?_,
    ⟨ready_of (by decide +kernel), by decide +kernel, ready_of (by decide +kernel)⟩, ?_, ?_, by decide +kernel, ?_,
    ⟨at_of (by decide +kernel), by decide +kernel, by decide +kernel, by decide +kernel⟩,
    ⟨by decide, by decide, ready_of (by decide +kernel), ready_of (by decide +kernel), by decide +kernel, by decide +kernel⟩, ?_,
    by decide +kernel, by decide +kernel⟩
  · intro m h
    simp only [List.mem_cons, List.not_mem_nil, or_false] at h
    rcases h with rfl | rfl <;> exact ⟨rfl, ready_of (by decide +kernel), by decide +kernel, rfl, ready_of (by decide +kernel)⟩
  · intro w h
    simp only [List.mem_cons, List.not_mem_nil, or_false] at h
    rcases h with rfl | rfl <;> exact ⟨ready_of (by decide +kernel), by decide +kernel, by decide +kernel, by decide +kernel⟩
  · intro w h o g
    simp only [List.mem_cons, List.not_mem_nil, or_false] at h g
    rcases h with rfl | rfl <;> rcases g with rfl | rfl <;> exact ⟨at_of (by decide +kernel), by decide +kernel⟩
  · intro t h
    simp only [List.mem_cons, List.not_mem_nil, or_false] at h
    rcases h with rfl | rfl | rfl | rfl <;>
      exact ⟨at_of (by decide +kernel), at_of (by decide +kernel), at_of (by decide +kernel), at_of (by decide +kernel)⟩
  · intro k h
    simp only [List.mem_cons, List.not_mem_nil, or_false] at h
    rcases h with rfl | rfl | rfl <;> exact ⟨at_of (by decide +kernel), at_of (by decide +kernel), by decide +kernel, by decide +kernel, by decide +kernel,
      by decide +kernel, at_of (by decide +kernel), by decide +kernel, by decide +kernel⟩
  · intro t h
    simp only [List.mem_cons, List.not_mem_nil, or_false] at h
    rcases h with rfl | rfl | rfl | rfl | rfl <;> exact ready_of (by decide +kernel)

/-! ### Routing -/

/-- Only inputs 0 and 2 hold tokens; only input 2; only input 0. -/
def gapAt (l : List Nat) (a b c : Tok) : State :=
  cellOf (if 0 ∈ l then [a] else []) (if 1 ∈ l then [b] else []) (if 2 ∈ l then [c] else []) Node.empty

/-- Flag E. -/
def early (w : NodeW) : NodeW := { w with e := true }

/-- FORK, JOIN with and without POISON behind IN_A, STEER and GATE on each control, DROP of a kind kept and not, MERGE of each arm and on POISON, MUX
on each control and on POISON, early MUX of each arm with the other absent, ANDE and ORE on all inputs, early on one, and under flag E on both. -/
theorem meets_RoutingNodesFire :
    (∀ t ∈ [ones, ct 1, coord 2, idx 0 0, poisonTok], Rdy (w1 0 0) [0] t ones ones Node.empty ∧ t.operand) ∧
    (∀ t ∈ [ones, poisonTok], let ns := (ncx (cell3 ones t (ct 1) Node.empty) 0 (w3 0 0)).needed [0, 1, 2]
      Rdy (w3 0 0) ns ones t (ct 1) Node.empty ∧ ns = [0, 1, 2] ∧ ones.operand ∧ t.operand ∧ (ct 1).operand) ∧
    (∀ t ∈ [ct 0, ct 1, poisonTok], Rdy (wc 0 0) [0, 2] ones ones t Node.empty ∧ Rdy (wc 0 1) [0, 2] ones ones t Node.empty ∧
      Rdy (w3 0 0) [0, 1, 2] ones (ct 4) t Node.empty ∧ Att (w3 0 0) [2] ones (ct 4) t Node.empty ∧
      armHead (ncx (cell3 ones (ct 4) t Node.empty) 0 (w3 0 0)) 0 = some ones ∧
      armHead (ncx (cell3 ones (ct 4) t Node.empty) 0 (w3 0 0)) 1 = some (ct 4)) ∧
    (∀ t ∈ [ones, eotTok, poisonTok], Att (w1 0 0x1) [0] t ones ones Node.empty ∧ t.k < 10 ∧ t.k ≠ 5) ∧
    (∀ a ∈ [0, 1], let s := gapAt [a, 2] ones ones (ct (BitVec.ofNat 64 a))
     let c := ncx s 0 (early (w3 0 0))
     NodeAt s 0 (early (w3 0 0)) [2] (hd3 ones ones (ct (BitVec.ofNat 64 a))) ∧ c.hd a = some ones ∧ c.hd (1 - a) = none ∧ c.antiOk (1 - a) = true) ∧
    (∀ v ∈ [(0 : BitVec 64), 1], Rdy (w2 0 0) [0, 1] (ct v) (ct 1) ones Node.empty ∧ (ncx (cell3 (ct v) (ct 1) ones Node.empty) 0 (w2 0 0)).needed [0, 1, 2] = [0, 1] ∧
      (let s := gapAt [0] (ct v) ones ones
       let c := ncx s 0 (early (w2 0 0))
       c.needed [0, 1, 2] = [0, 1] ∧ [0, 1].filter (fun i => (c.hd i).isSome) = [0] ∧ NodeAt s 0 (early (w2 0 0)) [0] (hd3 (ct v) ones ones) ∧
        ([0, 1].filter fun i => (c.hd i).isNone).all c.antiOk = true)) ∧
    (∀ v ∈ [(0 : BitVec 64), 2], let s := cell3 (ct v) (ct v) ones Node.empty
     (ncx s 0 (early (w2 0 0))).needed [0, 1, 2] = [0, 1] ∧ NodeAt s 0 (early (w2 0 0)) [0, 1] (hd3 (ct v) (ct v) ones)) := by
  refine ⟨?_, ?_, ?_, ?_, ?_, ?_, ?_⟩
  · intro t h
    simp only [List.mem_cons, List.not_mem_nil, or_false] at h
    rcases h with rfl | rfl | rfl | rfl | rfl <;> exact ⟨ready_of (by decide +kernel), by unfold Tok.operand; decide⟩
  · intro t h
    simp only [List.mem_cons, List.not_mem_nil, or_false] at h
    rcases h with rfl | rfl <;> exact ⟨ready_of (by decide +kernel), by decide +kernel, by unfold Tok.operand; decide⟩
  · intro t h
    simp only [List.mem_cons, List.not_mem_nil, or_false] at h
    rcases h with rfl | rfl | rfl <;> exact ⟨ready_of (by decide +kernel), ready_of (by decide +kernel), ready_of (by decide +kernel),
      at_of (by decide +kernel), by decide +kernel, by decide +kernel⟩
  · intro t h
    simp only [List.mem_cons, List.not_mem_nil, or_false] at h
    rcases h with rfl | rfl | rfl <;> exact ⟨at_of (by decide +kernel), by decide⟩
  · intro a h
    simp only [List.mem_cons, List.not_mem_nil, or_false] at h
    rcases h with rfl | rfl <;> exact ⟨at_of (by decide +kernel), by decide +kernel⟩
  · intro v h
    simp only [List.mem_cons, List.not_mem_nil, or_false] at h
    rcases h with rfl | rfl <;> exact ⟨ready_of (by decide +kernel), by decide +kernel, by decide +kernel, by decide +kernel, at_of (by decide +kernel),
      by decide +kernel⟩
  · intro v h
    simp only [List.mem_cons, List.not_mem_nil, or_false] at h
    rcases h with rfl | rfl <;> exact ⟨by decide +kernel, at_of (by decide +kernel)⟩

end Sys2Proof.Tests
end

