-- ==== Sys2Proof/Tests/WitTask.lean ====
section
/-!
SUPPORT. Witnesses of the statements about task, service, parking and checkpoint commands and about commands that fail.
-/
namespace Sys2Proof.Tests
set_option Elab.async false
open Sys2Proof Sys2Proof.Machine

/-- The word of a command (R176). -/
def cmdWord (op tgt flg sub : BitVec 8) (param : Nat) : BitVec 128 := op ++ tgt ++ flg ++ sub ++ BitVec.ofNat 96 param

/-! ### Task and service commands -/

/-- An unmasking round's block: one position, shares and limits at their ends, no barrier. -/
def roundBlock : List Byte :=
  leBytes 0x1000 8 ++ leBytes 0x2000 8 ++ leBytes 0x3000 8 ++ leBytes 8192 4 ++ leBytes 0x3F800000 4 ++ leBytes 256 2 ++ leBytes 1 2 ++ leBytes 1 2
    ++ [63, 0xFF, 16, 0, 0, 0, 0xFF, 0] ++ leBytes 191 2 ++ List.replicate 16 0

/-- UMX.OPEN and UMX.CLOSE of round 63 of engine 3, FRESUME of record 4095. -/
def openCmd : Cmd := cmdOf (cmdWord 0x13 3 0 63 0x4000000000000000) .u
def closeCmd : Cmd := cmdOf (cmdWord 0x14 3 0 63 0) .u
def resumeCmd : Cmd := cmdOf (cmdWord 0x16 0 0 0 4095) .s

/-- Round 63 of engine 3 is open, with a step that is full or not. -/
def openRound (full : Bool) : State :=
  { world with umx := [(3, ⟨[(63, roundOf 3 0 roundBlock)], [⟨3, 63, 0, [], full, false, false, false, [], [], 0, [], 0⟩], none⟩)] }

/-- Port 15 of cove 0, bound at the start of its shore, frozen on record 4095. -/
def portBind : Bind := affBind false true none (affBlock 0x4000000000000000)
def portFrozen : State :=
  { world.setPort 0 15 { Port.empty with bind := some portBind } with
    recs := { world.recs with
      owner := [(4095, .port 0 15)]
      live := [(4095, ⟨1, 0x40, 3, 1, 0, 0, 15, 0, 0, 1, 0x4000000000000000, [0, 0, 0, 0], 0, 0, 0⟩)] } }

/-- The gate of the world is open to every command. -/
theorem world_open (w : BitVec 128) : gated (heading world 81 (cmdOf w .s)) (cmdOf w .s) = false := by
  have g : gateLets (heading world 81 (cmdOf w .s)) (cmdOf w .s).rid = true := rfl
  simp [gated, g]

/-- TASK.LAUNCH to queue 0 and 255, TASK.DEP to both ends, UMX.OPEN and UMX.CLOSE of the last round, with a full step of it and without; XINV with no
walk; FRESUME of a port whose element translates; LOG.DRAIN of an empty log and QUIESCE to a shore address. -/
theorem meets_TaskAndServiceCommandsPerform :
    (∀ w, let s := heading world 81 (cmdOf w .s)
      CmdReady s 81 (cmdOf w .s) (cmdFields w) ∧ (cmdOf w .s).gone = none ∧ Tab.find? s.res (cmdOf w .s).rid = some (resOf cove0) ∧
        (∀ t : BitVec 8, queueLen s t.toNat < 1024) ∧ Tab.rising s.tasks.dep = true ∧ s.walks = []) ∧
    (let s := heading (blockAt roundBlock) 82 openCmd
     CmdReady s 82 openCmd (cmdFields openCmd.w) ∧ StillPasses s 82 openCmd ∧ (∃ t, BlockReads s 82 openCmd (cmdFields openCmd.w) roundBlock t) ∧
      firstOff (umxFields s ⟨82, openCmd, cmdFields openCmd.w⟩ roundBlock) = none) ∧
    (let s := heading (openRound true) 82 closeCmd
     CmdReady s 82 closeCmd (cmdFields closeCmd.w) ∧ StillPasses s 82 closeCmd ∧ ∃ st ∈ (s.umxAt (64 * 0 + 3)).steps, st.round = 63 ∧ st.full = true) ∧
    (let s := heading (openRound false) 82 closeCmd
     CmdReady s 82 closeCmd (cmdFields closeCmd.w) ∧ StillPasses s 82 closeCmd ∧ ∀ st ∈ (s.umxAt (64 * 0 + 3)).steps, st.round = 63 → st.full = false) ∧
    (let s := heading portFrozen 83 resumeCmd
     CmdReady s 83 resumeCmd (cmdFields resumeCmd.w) ∧ StillPasses s 83 resumeCmd ∧
      Tab.find? (popCmd s 83).recs.owner 4095 = some (.port 0 15) ∧ (Tab.find? (popCmd s 83).recs.live 4095).isSome = true ∧
      Tab.find? (popCmd s 83).parked 3 = none ∧ ((popCmd s 83).port 0 15).bind = some portBind ∧ ridOfUnit (popCmd s 83) 0 15 16 = some 3 ∧
      ∃ t segs, resolve (popCmd s 83) (rtOf (popCmd s 83) 3 false) (64 + 16 * 0 + 15) (elemAddr portBind) portBind.size true false = (t, .ok segs)) ∧
    (∀ n ∈ [1, 256], let w := cmdWord 0x19 0 0 0xFF (0x4000000000000000 + n * 2 ^ 64)
     let s := heading world 83 (cmdOf w .u)
     (resOf cove0).logOvf = false ∧ ∃ t segs, xlPieces (cmdRt s (cmdOf w .u)) 0 (pieces (16 / 64 + 2) (fPtr (cmdFields w)).toNat 16) s [] = (t, .ok segs)) ∧
    (let w := cmdWord 0x1A 0 0 0xFF 0x4000000000000008
     let s := heading world 83 (cmdOf w .u)
     ∃ t segs, xlPieces (cmdRt s (cmdOf w .u)) 0 (pieces 2 (fPtr (cmdFields w)).toNat 8) (quiesceTest s 3).1 [] = (t, .ok segs)) := by
  refine ⟨fun w => ⟨heading_ready _ _ _ _ rfl (Or.inl rfl) rfl (world_open w), rfl, rfl, fun t => by simp [queueLen, heading, world, State.reset, Tab.get],
      rfl, rfl⟩,
    ⟨heading_ready _ _ _ _ rfl (Or.inl rfl) (by decide +kernel) (by decide +kernel), by unfold StillPasses; decide +kernel, block_reads rfl (by decide +kernel), by decide +kernel⟩,
    ⟨heading_ready _ _ _ _ rfl (Or.inl rfl) (by decide +kernel) (by decide +kernel), by unfold StillPasses; decide +kernel, by decide +kernel⟩,
    ⟨heading_ready _ _ _ _ rfl (Or.inl rfl) (by decide +kernel) (by decide +kernel), by unfold StillPasses; decide +kernel, by decide +kernel⟩,
    ⟨heading_ready _ _ _ _ rfl (Or.inl rfl) (by decide +kernel) (by decide +kernel), by unfold StillPasses; decide +kernel, by decide +kernel, by decide +kernel,
      by decide +kernel, by decide +kernel, by decide +kernel, ?_⟩, ?_, ?_⟩
  · obtain ⟨t, h⟩ := ok_exists (r := resolve (popCmd (heading portFrozen 83 resumeCmd) 83) (rtOf (popCmd (heading portFrozen 83 resumeCmd) 83) 3 false)
      (64 + 16 * 0 + 15) (elemAddr portBind) portBind.size true false) (a := [(⟨.shore, 0⟩, 16)]) (by decide +kernel)
    exact ⟨t, _, h⟩
  · intro n hn
    simp only [List.mem_cons, List.not_mem_nil, or_false] at hn
    rcases hn with rfl | rfl <;> refine ⟨rfl, ?_⟩ <;> rw [← exists_comm] <;>
      exact ⟨[(⟨.shore, 0⟩, 16)], ok_exists (by decide +kernel)⟩
  · rw [← exists_comm]
    exact ⟨[(⟨.shore, 8⟩, 8)], ok_exists (by decide +kernel)⟩

/-- Residency 3 parked, its header in memory. -/
def saved3 : Saved := ⟨resOf cove0, [], [], [], [], [], [], [], [], [], 0x10000, [], 2, [], []⟩
def parkedAt : State :=
  { State.reset with parked := [(3, saved3)], hbm := memOf 0x10000 (leBytes 0x45564153 4 ++ leBytes 3 2 ++ leBytes 5 2 ++ leBytes 262144 8 ++ [2, 2]) }

/-- FRESUME of record 4095, SUB 0 or 1, and the world with an agent frozen on it, at address `va`. -/
def resumeOf (sub : BitVec 8) : Cmd := cmdOf (cmdWord 0x16 0 0 sub 4095) .s
def frozen (s : State) (ag : Agent) (kind : Nat) (va : Word) : State :=
  { s with recs := { s.recs with
      owner := [(4095, ag)]
      live := [(4095, ⟨kind, 0x40, 3, 1, 0, 0, 15, 0, 0, 1, va, [0, 0, 0, 0], 0, 0, 0⟩)] } }
def resuming (s : State) (ag : Agent) (kind : Nat) (va : Word) (sub : BitVec 8) : State := heading (frozen s ag kind va) 83 (resumeOf sub)

/-- A load of node 0 that is not translated; a copy of 64 bytes from an address, its first firing stopped, its record to trap or not; a gather
stopped at an array word or with one access in its backwash; a full step of engine 3; a command at the head of board 80. -/
def loadAt (va : Word) : State := { world with accs := [⟨0, .node 0, 3, va, 4, .rd 4, [], none, true, 0⟩] }
def bindAt (va : Word) : Bind := { portBind with base := va }
def portAt (va : Word) : State := world.setPort 0 15 { Port.empty with bind := some (bindAt va) }
def tmpl3 (va : Word) (trapm : Bool) : Tmpl := ⟨va, shoreVa, 64, 0, 0, some 63, trapm, false, 0, 0, 3⟩
def copyAt (va : Word) (trapm : Bool) : State := world.setCq 0 63 { CopyQ.empty with tmpl := some (tmpl3 va trapm), cur := some 0 }
def gather3 (word : Option Word) (bw : List Nat) : Job := { newJob false 0 15 3 0 jobBlock with wordVa := word, bw := bw, susp := true }
def gatherAt (word : Option Word) (va : Word) : State :=
  { world with
    jobs := [(2, gather3 word (if word.isSome then [] else [7]))]
    accs := if word.isSome then [] else [⟨7, .job 2, 3, va, 16, .rd 16, [], none, true, 0⟩] }
def step3 (va : Word) : State :=
  { world with umx := [(3, ⟨[(63, { roundOf 3 0 roundBlock with maskp := va })], [⟨3, 63, 0, [], true, false, false, false, [], [], 0, [], 0⟩], none⟩)] }
def boardAt (va : Word) : State := frozen { world with sbs := [(80, [cmdOf 0 .u]), (83, [resumeOf 0])], focus := .cmd 83 } (.target 80) 5 va

/-- A port of residency 4, in cove 1, frozen on record 4095. -/
def frozenOther (d : Residency) : State :=
  { world with
    res := [(3, resOf cove0), (4, d)]
    recs := { world.recs with
      owner := [(4095, .port 1 0)]
      live := [(4095, ⟨1, 0x40, 4, 1, 0, 16, 0, 0, 0, 1, shoreVa, [0, 0, 0, 0], 0, 0, 0⟩)] } }

/-- What FRESUME needs of the state in each of these. -/
def Resumes (s : State) (c : Cmd) (ag : Agent) : Prop :=
  CmdReady s 83 c (cmdFields c.w) ∧ StillPasses s 83 c ∧ Tab.find? s.recs.owner 4095 = some ag ∧ (Tab.find? s.recs.live 4095).isSome = true ∧
    Tab.find? s.parked 3 = none
def resumable (s : State) (ag : Agent) (kind : Nat) (va : Word) (sub : BitVec 8) : Bool :=
  s.sbFz.isEmpty && (resuming s ag kind va sub).parked.isEmpty && alive (resuming s ag kind va sub) 3 && !gated (resuming s ag kind va sub) (resumeOf sub)
    && (Chk.mk (resuming s ag kind va sub) 0 3 .s false (fun _ => rdPA (resuming s ag kind va sub)) [] []).fails (resumeOf sub).w == none
theorem resuming_ready (s : State) (ag : Agent) (kind : Nat) (va : Word) (sub : BitVec 8) (h : resumable s ag kind va sub = true) :
    Resumes (resuming s ag kind va sub) (resumeOf sub) ag := by
  simp only [resumable, Bool.and_eq_true, List.isEmpty_iff, Bool.not_eq_true', beq_iff_eq] at h
  exact ⟨heading_ready _ _ _ _ h.1.1.1.1 (Or.inr rfl) h.1.1.2 h.1.2, h.2, rfl, rfl, by rw [h.1.1.1.2]; rfl⟩

/-- Whether a translation succeeds, for the shore, or fails with a cause of translation, for an address that is not mapped. -/
def goes (va : Word) (r : State × Except XErr (List (PA × Nat))) : Bool :=
  match r.2 with
  | .ok l => va == shoreVa && !l.isEmpty
  | .error e => va != shoreVa && decide (0x40 ≤ e.cause)

/-- Each agent frozen at `va` with the kind of its record and SUB, and its access once the command has left. -/
def frozenAgents (va : Word) : List (State × Agent × Nat × BitVec 8) :=
  [(loadAt va, .node 0, 1, 0), (portAt va, .port 0 15, 2, 0), (copyAt va true, .copy 0 63, 3, 0), (copyAt va false, .copy 0 63, 3, 0),
    (copyAt va true, .copy 0 63, 3, 1), (gatherAt (some va) va, .job 2, 6, 0), (gatherAt none va, .job 2, 6, 0), (step3 va, .umx 3, 4, 0)]
def unfrozen (s : State) (ag : Agent) (kind : Nat) (va : Word) : State := popCmd (resuming s ag kind va 0) 83
def accessAgain (va : Word) : List (State × Except XErr (List (PA × Nat))) :=
  let at_ (u : State) (n len : Nat) := resolve u (rtOf u 3 false) n va len true false
  let ends := copyAddr ((copyAt va true).cq 0 63) (tmpl3 va true) 0
  [at_ (unfrozen (loadAt va) (.node 0) 1 va) (unitOf world (.node 0)) 4, at_ (unfrozen (portAt va) (.port 0 15) 2 va) 79 (bindAt va).size,
    at_ (unfrozen (copyAt va true) (.copy 0 63) 3 va) 0 (sideLen (tmpl3 va true) ends 0 false),
    at_ (unfrozen (gatherAt (some va) va) (.job 2) 6 va) (gather3 none []).unit 8, at_ (unfrozen (gatherAt none va) (.job 2) 6 va) (gather3 none []).unit 16,
    at_ (unfrozen (step3 va) (.umx 3) 4 va) 0 1024, at_ (popCmd (boardAt va) 83) (unitOf world (.target 80)) 1]

/-- FRESUME of each agent, where its access now translates and where it fails again: a node, a port, a copy queue (to trap or not), a gather at an
array word and with a backwash entry, an engine, a command's target; SUB 1 of a copy queue; a record of a parked residency, of one
that is being parked, and of one that has faulted fatally. -/
theorem meets_FrozenAgentsResume :
    (∀ va ∈ [shoreVa, (0x1000 : Word)],
      (∀ e ∈ frozenAgents va, Resumes (resuming e.1 e.2.1 e.2.2.1 va e.2.2.2) (resumeOf e.2.2.2) e.2.1) ∧
      Resumes (boardAt va) (resumeOf 0) (.target 80) ∧ ∀ r ∈ accessAgain va, goes va r = true) ∧
    (let c := resumeOf 0
     let s := resuming { parkedAt with res := [(4, resOf cove0), (3, resOf cove0)] } (.node 0) 1 shoreVa 0
     CmdReady s 83 c (cmdFields c.w) ∧ StillPasses s 83 c ∧ Tab.find? s.parked 3 = some saved3 ∧ (Tab.find? s.recs.live 4095).map (·.st) = some 1) ∧
    ∀ d ∈ [{ resOf ⟨0, [0], 1, 1, 1, 0⟩ with parking := true }, { resOf ⟨0, [0], 1, 1, 1, 0⟩ with st := .fatal }],
      let s := heading (frozenOther d) 83 (resumeOf 0)
      CmdReady s 83 (resumeOf 0) (cmdFields (resumeOf 0).w) ∧ StillPasses s 83 (resumeOf 0) ∧ Tab.find? s.parked 4 = none ∧
        (Tab.find? s.recs.live 4095).map (·.rid) = some 4 ∧ Tab.find? s.res 4 = some d ∧ Tab.find? s.recs.owner 4095 = some (.port 1 0) := by
  refine ⟨?_, ⟨heading_ready _ _ _ _ rfl (Or.inr rfl) (by decide +kernel) (by decide +kernel), by unfold StillPasses; decide +kernel,
    rfl, rfl⟩, ?_⟩
  case refine_2 =>
    intro d hd
    simp only [List.mem_cons, List.not_mem_nil, or_false] at hd
    rcases hd with rfl | rfl <;>
      exact ⟨heading_ready _ _ _ _ rfl (Or.inr rfl) (by decide +kernel) (by decide +kernel), by unfold StillPasses; decide +kernel, rfl, rfl, rfl, rfl⟩
  have h : ∀ va ∈ [shoreVa, (0x1000 : Word)],
      ∀ e ∈ frozenAgents va, Resumes (resuming e.1 e.2.1 e.2.2.1 va e.2.2.2) (resumeOf e.2.2.2) e.2.1 := by
    intro va hva e he
    simp only [frozenAgents, List.mem_cons, List.not_mem_nil, or_false] at hva he
    rcases hva with rfl | rfl <;> rcases he with rfl | rfl | rfl | rfl | rfl | rfl | rfl | rfl <;>
      exact resuming_ready _ _ _ _ _ (by decide +kernel)
  have g : ∀ va ∈ [shoreVa, (0x1000 : Word)], ∀ r ∈ accessAgain va, goes va r = true := by
    intro va hva r hr
    simp only [accessAgain, List.mem_cons, List.not_mem_nil, or_false] at hva hr
    rcases hva with rfl | rfl <;> rcases hr with rfl | rfl | rfl | rfl | rfl | rfl | rfl <;> decide +kernel
  intro va hva
  refine ⟨h va hva, ?_, g va hva⟩
  simp only [List.mem_cons, List.not_mem_nil, or_false] at hva
  rcases hva with rfl | rfl <;>
    exact ⟨⟨rfl, ⟨[], rfl⟩, rfl, fun _ hi => (by cases hi), by decide +kernel, by decide +kernel⟩, by unfold StillPasses; decide +kernel, rfl, rfl, rfl⟩

/-- LOG.DRAIN of a residency that has retired with the command queued. -/
theorem meets_DrainOfRetired :
    let w := cmdWord 0x19 0 0 0xFF (0x4000000000000000 + 2 ^ 64)
    let c := { cmdOf w .u with gone := some (resOf cove0) }
    let s := heading State.reset 83 c
    CmdReady s 83 c (cmdFields w) ∧ (c.gone.orElse fun _ => Tab.find? s.res c.rid) = some (resOf cove0) ∧
      ∃ t segs, xlPieces (cmdRt s c) 0 (pieces (16 / 64 + 2) (fPtr (cmdFields w)).toNat 16) s [] = (t, .ok segs) := by
  refine ⟨heading_ready _ _ _ _ rfl (Or.inl rfl) (by decide +kernel) (by decide +kernel), rfl, ?_⟩
  rw [← exists_comm]
  exact ⟨[(⟨.shore, 0⟩, 16)], ok_exists (by decide +kernel)⟩

/-- A full task queue takes no launch: the word is at the queue of its TGT afterwards otherwise. -/
theorem test_task_dep :
    let t := after (.taskDep (cmdFields (cmdWord 0x0E 0 0 0 (4095 + 7 * 2 ^ 32)))) (heading world 81 (cmdOf 0 .u))
    Tab.get 0 t.tasks.dep 4095 = 7 ∧ sbCmds t 81 = [] := by decide +kernel

/-! ### Parking and checkpoints -/

/-- PARK and UNPARK of residency 3 at 0x10000, from the host mailbox; UNPARK that discards. -/
def hostCmd (op sub : BitVec 8) : Cmd := Cmd.mk (cmdWord op 0 0 sub (0x10000 + 3 * 2 ^ 64)) 0 0 .m true [] none none
def parkable (p : Bool) : State := { world with res := [(3, { resOf cove0 with wdFired := true, parking := p })] }

/-- A checkpoint's block, in full, to host memory. -/
def fullBlock : List Byte := leBytes 0 24 ++ leBytes 0x2000 8 ++ List.replicate 32 0

/-- The block in host memory is read by the mailbox at a device physical address. -/
def ckptCmd : Cmd := cmdOf (cmdWord 0x1B 0 0 0 0x4000000000000000) .m
/-- Deep page 0 of the residency maps host memory. -/
def hosted : State :=
  { blockAt fullBlock with tlb := [(0, [⟨0, 0, 2, 0, true, true, true⟩])] }

/-- A mailbox command's area is one segment. -/
theorem area_host (q : CmdCx) (s : State) (n a : Nat) (w : Bool) (h1 : q.c.host = true) (h2 : (fPtr q.f).toNat = a) (h3 : a + n ≤ 768 * 2 ^ 30) :
    areaSegs q s n w = (s, .ok [(⟨.hbm, a⟩, n)]) := by
  subst h2
  simp only [areaSegs, h1, if_pos h3, if_true]

/-- PARK that begins, that waits for a packet, and that saves; UNPARK that discards, that waits for its cove, and that restores; CKPT that begins,
that waits for another's, and that copies 8 bytes. -/
theorem meets_ParkingAndCheckpointPerform :
    (∀ p, let c := hostCmd 0x17 0
     let s := heading (parkable p) mailbox c
     CmdReady s mailbox c (cmdFields c.w) ∧ (p = false → StillPasses s mailbox c) ∧ (cmdFields c.w).param.toNat / 2 ^ 64 % 2 ^ 13 = 3 ∧
      Tab.find? s.res 3 = some { resOf cove0 with wdFired := true, parking := p } ∧
      parkQuiet s 3 { resOf cove0 with wdFired := true, parking := p } = true ∧
      areaSegs ⟨mailbox, c, cmdFields c.w⟩ s (saveSize { resOf cove0 with wdFired := true, parking := p }) true = (s, .ok [(⟨.hbm, 0x10000⟩, 262144)])) ∧
    (let r := { resOf cove0 with wdFired := true, parking := true }
     parkQuiet { parkable true with wire := [⟨0, .credit, 0, 0, 0, none⟩] } 3 r = false) ∧
    (∀ sub ∈ [(0 : BitVec 8), 1], let c := hostCmd 0x18 sub
     let s := heading parkedAt mailbox c
     CmdReady s mailbox c (cmdFields c.w) ∧ StillPasses s mailbox c ∧ (cmdFields c.w).sub = sub ∧ Tab.find? s.parked 3 = some saved3) ∧
    (let c := hostCmd 0x18 0
     let s := heading parkedAt mailbox c
     let q : CmdCx := ⟨mailbox, c, cmdFields c.w⟩
     canReturn s 3 saved3 = true ∧ areaSegs q s 64 false = (s, .ok [(⟨.hbm, 0x10000⟩, 64)]) ∧
      (∃ hdr, rdSegs s [(⟨.hbm, 0x10000⟩, 64)] = (s, hdr, false) ∧ headerMismatch 3 saved3.res hdr = none) ∧
      areaSegs (q.at_ 16) s 1 true = (s, .ok [(⟨.hbm, 0x10010⟩, 1)])) ∧
    (let c := hostCmd 0x18 0
     canReturn (heading { parkedAt with res := [(4, resOf cove0)] } mailbox c) 3 saved3 = false) ∧
    (let s := heading hosted 83 ckptCmd
     CmdReady s 83 ckptCmd (cmdFields ckptCmd.w) ∧ s.ckpt = none ∧ s.ckptQ = [] ∧
      (∃ t, BlockReads s 83 ckptCmd (cmdFields ckptCmd.w) fullBlock t) ∧ firstOff (ckptFields fullBlock) = none ∧ fld fullBlock 20 1 = 0) ∧
    (let s := heading { hosted with ckpt := some ⟨84, 3, 0, [], 0x2000, 1, 0⟩ } 83 ckptCmd
     CmdReady s 83 ckptCmd (cmdFields ckptCmd.w) ∧ ∃ k, s.ckpt = some k ∧ k.sb ≠ 83) ∧
    (let s := heading { hosted with ckpt := some ⟨83, 3, 0, [.phys 0 16], 0x2000, 1, 0⟩ } 83 ckptCmd
     CmdReady s 83 ckptCmd (cmdFields ckptCmd.w) ∧ has s.poison.hbm (0 / 64) = false ∧
      ∃ t segs, xlPieces (cmdRt s ckptCmd) 0 (pieces 2 0x2000 8) s [] = (t, .ok segs) ∧ ∀ e ∈ segs, e.1.sp = .host) := by
  refine ⟨?_, by decide +kernel, ?_, ⟨by decide +kernel, ?_, ?_, ?_⟩,
    by decide +kernel,
    ⟨heading_ready _ _ _ _ rfl (Or.inl rfl) (by decide +kernel) (by decide +kernel), rfl, rfl, block_reads rfl (by decide +kernel), by decide +kernel, by decide +kernel⟩,
    ⟨heading_ready _ _ _ _ rfl (Or.inl rfl) (by decide +kernel) (by decide +kernel), _, rfl, by decide⟩,
    ⟨heading_ready _ _ _ _ rfl (Or.inl rfl) (by decide +kernel) (by decide +kernel), by decide +kernel, ?_⟩⟩
  · intro p
    refine ⟨heading_ready _ _ _ _ rfl (Or.inl rfl) rfl (by cases p <;> decide +kernel), ?_, by decide +kernel, rfl, by cases p <;> decide +kernel, ?_⟩
    · rintro rfl
      unfold StillPasses
      decide +kernel
    · have e : saveSize { resOf cove0 with wdFired := true, parking := p } = 262144 := by cases p <;> decide +kernel
      simp only [e]
      exact area_host ⟨mailbox, hostCmd 0x17 0, cmdFields (hostCmd 0x17 0).w⟩ (heading (parkable p) mailbox (hostCmd 0x17 0)) 262144 0x10000 true rfl
        (by decide +kernel) (by decide)
  · intro sub h
    simp only [List.mem_cons, List.not_mem_nil, or_false] at h
    rcases h with rfl | rfl <;>
      exact ⟨heading_ready _ _ _ _ rfl (Or.inl rfl) rfl (by decide +kernel), by unfold StillPasses; decide +kernel, by decide +kernel, rfl⟩
  · exact area_host ⟨mailbox, hostCmd 0x18 0, cmdFields (hostCmd 0x18 0).w⟩ (heading parkedAt mailbox (hostCmd 0x18 0)) 64 0x10000 false rfl
      (by decide +kernel) (by decide)
  · exact ⟨_, rfl, by decide +kernel⟩
  · exact area_host (CmdCx.at_ ⟨mailbox, hostCmd 0x18 0, cmdFields (hostCmd 0x18 0).w⟩ 16) (heading parkedAt mailbox (hostCmd 0x18 0)) 1 0x10010 true rfl
      (by decide +kernel) (by decide)
  · obtain ⟨t, h⟩ := ok_exists (r := xlPieces (cmdRt (heading { hosted with ckpt := some ⟨83, 3, 0, [.phys 0 16], 0x2000, 1, 0⟩ } 83 ckptCmd) ckptCmd) 0
      (pieces 2 0x2000 8) (heading { hosted with ckpt := some ⟨83, 3, 0, [.phys 0 16], 0x2000, 1, 0⟩ } 83 ckptCmd) []) (a := [(⟨.host, 0x2000⟩, 8)])
      (by decide +kernel)
    exact ⟨t, _, h, by decide⟩

theorem read_pair {r : State × RdV} {b : List Byte} {p : Option Nat} (h : readOf r = some (b, p)) : r = (r.1, .ok b p) := by
  obtain ⟨t, rfl⟩ := read_exists h; rfl

/-- A MODE 1 block and its list at the start of the bank: two entries at most, the first of a deep range; the second ends the list, or marks an
overflow. -/
def listBlock : List Byte := leBytes 0 8 ++ leBytes 0x40 8 ++ leBytes 2 4 ++ [1, 0, 0, 0] ++ leBytes 0x2000 8 ++ List.replicate 32 0
def listCmd : Cmd := { ckptCmd with block := some listBlock }
def listed (lo : Nat) : State :=
  { heading { hosted with hbm := memOf 0x40 (leBytes 0x100 8 ++ leBytes 0x10F 8 ++ leBytes lo 8 ++ leBytes (2 ^ 64 - 1) 8)
                          tlb := [(0, [⟨0, 0, 2, 0, false, true, true⟩])] } 83 listCmd with ckptQ := [83, 84] }

/-- CKPT in MODE 1, first in turn, with a list that ends and one that overflowed; reading an entry of each kind. -/
theorem meets_CheckpointOfList :
    let q : CmdCx := ⟨83, listCmd, cmdFields listCmd.w⟩
    (∀ lo ∈ [0, 2 ^ 64 - 1],
      CmdReady (listed lo) 83 listCmd (cmdFields listCmd.w) ∧ (listed lo).ckpt = none ∧ (listed lo).ckptQ.head? = some 83 ∧
      BlockReads (listed lo) 83 listCmd (cmdFields listCmd.w) listBlock (listed lo) ∧ firstOff (ckptFields listBlock) = none ∧ fld listBlock 20 1 = 1 ∧
      okOf (ckList q (fld listBlock 16 4) (fldPtr listBlock 8) (listed lo) []).2 =
        some (if lo = 0 then [(0x100, 0x10F), (0, 2 ^ 64 - 1)] else [(0x100, 0x10F)])) ∧
    (∀ a ∈ [(0x40 : Word), 0x50], ∃ t bs, rdVa (listed 0) (cmdRt (listed 0) listCmd) 0 a 16 = (t, .ok bs none)) ∧
    (∃ t bs, rdVa (listed (2 ^ 64 - 1)) (cmdRt (listed 0) listCmd) 0 0x50 16 = (t, .ok bs none) ∧ fld bs 0 8 = 2 ^ 64 - 1 ∧ fld bs 8 8 = 2 ^ 64 - 1) := by
  refine ⟨?_, ?_, ?_⟩
  · intro lo hl
    simp only [List.mem_cons, List.not_mem_nil, or_false] at hl
    rcases hl with rfl | rfl <;>
      exact ⟨⟨rfl, ⟨[], rfl⟩, rfl, fun _ hi => (by cases hi), by decide +kernel, by decide +kernel⟩, rfl, rfl, Or.inl ⟨rfl, rfl⟩, by decide +kernel,
        by decide +kernel, by decide +kernel⟩
  · intro a ha
    simp only [List.mem_cons, List.not_mem_nil, or_false] at ha
    rcases ha with rfl | rfl
    · exact ⟨_, leBytes 0x100 8 ++ leBytes 0x10F 8, read_pair (by decide +kernel)⟩
    · exact ⟨_, leBytes 0 8 ++ leBytes (2 ^ 64 - 1) 8, read_pair (by decide +kernel)⟩
  · exact ⟨_, List.replicate 16 0xFF, read_pair (by decide +kernel), by decide⟩

/-! ### Commands that fail -/

/-- What the check of a command answers at commit, for a context at privilege `p`, and of a command at the least privilege that may issue it. -/
def refused (p : Priv) (w : BitVec 128) : Option Nat :=
  let s := committing (.scmd w) 0
  (commitTrap s 0 { s.ctx 0 with prv := p } (blkOf (.scmd w) 0) (blkOf (.scmd w) 0).doneSlots).map (·.2)

/-- Commands of each operation with the cause that they fail with: nothing has the code; the privilege; a nonzero field, a pointer out of form; a state that
does not admit it; a value out of range. -/
def refusals : List (Priv × BitVec 128 × Option Nat) :=
  let v (op tgt flg sub : BitVec 8) (param : Nat) := cmdWord op tgt flg sub param
  [(.m, v 0 0 0 0 0, some 0x18), (.m, v 0x1D 0 0 0 0, some 0x18), (.u, v 1 0x3F 0 0 0, some 0x1A), (.u, v 1 0x50 0 0 0, some 0x1A),
    (.u, v 4 0x40 0 1 0, some 0x1C), (.u, v 1 0x40 1 64 0, some 0x1C), (.u, v 1 0x40 0 0 0x40, none), (.u, v 2 0x40 0 0 1, some 0x1A),
    (.u, v 3 0x4F 0 0 0x40, none), (.u, v 5 0x40 0 0 0, some 0x1B), (.u, v 6 0x8F 0 0 0x40, none), (.u, v 6 0x90 0 0 0x40, some 0x1A),
    (.u, v 7 0x50 0 0 0, some 0x1B), (.u, v 8 4 0 0 0, some 0x1A), (.u, v 8 0 0 0 0, some 0x1B), (.u, v 9 0 0 0 0, some 0x1B),
    (.u, v 0x0A 0 0 0 (2 ^ 48 + 5), some 0x1C), (.u, v 0x0A 0 0 0 (2 ^ 48 + 4), none), (.u, v 0x0B 0 0 0 1, some 0x1A), (.u, v 0x0C 1 0 0xFF 0, some 0x1A),
    (.u, v 0x0C 7 0 64 0, some 0x1C), (.u, v 0x0D 0 0 0 (4096 * 2 ^ 80), some 0x1C), (.u, v 0x0D 0 0 0 0, some 0x1D), (.u, v 0x0E 0 0 2 0, some 0x1C),
    (.u, v 0x0F 0 0 0 0, some 0x1C), (.u, v 0x10 0 0 0 0, some 0x1C), (.u, v 0x10 0 0 0 1, some 0x1E), (.u, v 0x11 0 0 0 0, some 0x19),
    (.s, v 0x11 0 0 0 0, none), (.u, v 0x12 0 0 0 0x20, some 0x1A), (.u, v 0x13 0 0 64 0, some 0x1C), (.u, v 0x14 0 0 0 0, some 0x1B),
    (.u, v 0x15 0 0 0 0, some 0x19), (.s, v 0x15 0 0 0 (3 * 2 ^ 52), some 0x1C), (.s, v 0x16 0 0 0 0, some 0x1B), (.s, v 0x17 0 0 0 0, some 0x1B),
    (.s, v 0x18 0 0 0 0, some 0x1B), (.u, v 0x19 0 0 0xFF 0, some 0x1C), (.u, v 0x1A 0 0 0xFF 0, none), (.s, v 0x1B 0 0 0 0, some 0x19),
    (.m, v 0x1B 0 0 0 0, none), (.s, v 0x1C 8 0 0 0, some 0x1A), (.s, v 0x1C 7 0 0 (15 * 2 ^ 32 + 2 ^ 40), some 0x1C)]

/-- Every operation at a context of privilege U whose block holds it alone, its board empty; and what each of these commands is answered. -/
theorem meets_CommandsAreCheckedAtCommit :
    (∀ w fl, Commits (committing (.scmd w) fl) 0 0 (blkOf (.scmd w) fl) (.scmd w) fl 0x2000 ∧
      sbCmds (committing (.scmd w) fl) (sbKey (cvOfX 0) (sbIndex w)) = []) ∧
    ∀ e ∈ refusals, refused e.1 e.2.1 = e.2.2 := by
  refine ⟨fun w fl => ⟨committing_commits _ _, rfl⟩, by decide +kernel⟩


/-- A block with a wrong field, for every command that has one. -/
def badBlock : List Byte := List.replicate 16 0 ++ leBytes 0x101 2 ++ List.replicate 46 0xFF

/-- What the read of a pointer fails with. -/
def failOf : State × RdV → Option (Word × XErr)
  | (_, .err v e) => some (v, e)
  | _ => none
theorem fail_exists {r : State × RdV} {v : Word} {e : XErr} (h : failOf r = some (v, e)) : ∃ t, r = (t, .err v e) := by
  rcases r with ⟨t, b | e'⟩
  · cases h
  · cases h; exact ⟨t, rfl⟩
theorem fail_pair {r : State × RdV} {v : Word} {e : XErr} (h : failOf r = some (v, e)) : r = (r.1, .err v e) := by
  obtain ⟨t, rfl⟩ := fail_exists h; rfl

/-- PERMIT.ADJ to one permit more than are held; blocks of every command whose fields fail at some offset, or do not suit the port's node,
record 0 free; a block that is not mapped. -/
theorem meets_CommandsThatFail :
    (let w := cmdWord 0x10 0 0 0 10
     CmdReady (heading tuned 80 (cmdOf w .u)) 80 (cmdOf w .u) (cmdFields w) ∧ ¬StillPasses (heading tuned 80 (cmdOf w .u)) 80 (cmdOf w .u)) ∧
    (let s := heading (blockAt badBlock) 80 (cmdOf 0 .s)
     CmdReady s 80 (cmdOf 0 .s) (toBlock 0 0 0) ∧
      (∃ t, BlockReads s 80 (cmdOf 0 .s) (toBlock 0 0 0) badBlock t ∧ freeRec (popCmd t 80) = some 0 ∧ Tab.rising t.sbs = true ∧
        firstOff (sampFields badBlock) = some 16 ∧ firstOff (mslotFields t 0 badBlock) = some 16 ∧
        firstOff (copyFields t ⟨80, cmdOf 0 .s, toBlock 0 0 0⟩ badBlock) = some 29 ∧ firstOff (affFields false badBlock) = some 9 ∧
        firstOff (affFields true badBlock) = some 0 ∧ firstOff (jobFields false badBlock) = some 16 ∧ firstOff (jobFields true badBlock) = some 16)) ∧
    (let s := heading (blockAt badBlock) 82 openCmd
     CmdReady s 82 openCmd (cmdFields openCmd.w) ∧ StillPasses s 82 openCmd ∧ (∃ t, BlockReads s 82 openCmd (cmdFields openCmd.w) badBlock t) ∧
      firstOff (umxFields s ⟨82, openCmd, cmdFields openCmd.w⟩ badBlock) = some 16) ∧
    (let c := { loadCmd 0 with block := none }
     let s := heading (blockAt badBlock) 80 c
     CmdReady s 80 c (cmdFields c.w) ∧ StillPasses s 80 c ∧ (∃ t, BlockReads s 80 c (cmdFields c.w) badBlock t) ∧
      firstOff (loadFields s ⟨80, c, cmdFields c.w⟩ badBlock) = some 21) ∧
    (let s := heading (blockAt badBlock) 83 ckptCmd
     CmdReady s 83 ckptCmd (cmdFields ckptCmd.w) ∧ s.ckpt = none ∧ s.ckptQ = [] ∧
      (∃ t, BlockReads (Machine.queued s 83) 83 ckptCmd (cmdFields ckptCmd.w) badBlock t) ∧ firstOff (ckptFields badBlock) = some 20) ∧
    (∀ e ∈ [((0x85 : BitVec 8), (2 : BitVec 4), affBlock 0x1000), (0x83, 7, affBlock 0x1000), (0x83, 2, jobBlock), (0x85, 7, jobBlock)],
      let s := heading (withNode (blockAt e.2.2) (portWord e.1 e.2.1)) 0 (cmdOf 0 .u)
      (ridOfUnit s 0 0 16).getD 3 = 3 ∧ (s.port 0 0).bind = none ∧
        portNode s 3 0 0 = some (0, nodeFields (portWord e.1 e.2.1), if e.1 = 0x85 then 0x85 else 0x83) ∧
        (nodeFields (portWord e.1 e.2.1)).mode = e.2.1) ∧
    (fld (affBlock 0x1000) 8 1 = 2 ∧ fld jobBlock 36 1 = 2 ∧ firstOff (affFields false (affBlock 0x1000)) = none ∧ firstOff (jobFields false jobBlock) = none) ∧
    (let c := cmdOf (cmdWord 0x1B 0 0 0 0x1000) .m
     let s := heading world 83 c
     CmdReady s 83 c (cmdFields c.w) ∧ s.ckptQ = [] ∧ ∃ t va e, rdVa (Machine.queued s 83) (cmdRt (Machine.queued s 83) c) 0 (fPtr (cmdFields c.w)) 64 = (t, .err va e) ∧
      0x40 ≤ e.cause ∧ freeRec t = some 0) ∧
    (let s := heading world 80 (cmdOf 0 .s)
     let f : CmdW := ⟨0, 0, 0, 0⟩
     CmdReady s 80 (cmdOf 0 .s) f ∧ ∃ t va e, rdVa s (cmdRt s (cmdOf 0 .s)) 0 (fPtr f) 64 = (t, .err va e) ∧ 0x40 ≤ e.cause ∧ freeRec t = some 0 ∧
      Tab.find? t.parked 3 = none) := by
  refine ⟨⟨heading_ready _ _ _ _ rfl (Or.inl rfl) (by decide +kernel) (by decide +kernel), by unfold StillPasses; decide +kernel⟩,
    ⟨heading_ready _ _ _ _ rfl (Or.inl rfl) rfl (by decide +kernel), ?_⟩,
    ⟨heading_ready _ _ _ _ rfl (Or.inl rfl) (by decide +kernel) (by decide +kernel), by unfold StillPasses; decide +kernel, block_reads rfl (by decide +kernel), by decide +kernel⟩,
    ⟨heading_ready _ _ _ _ rfl (Or.inl rfl) (by decide +kernel) (by decide +kernel), by unfold StillPasses; decide +kernel, block_reads rfl (by decide +kernel), by decide +kernel⟩,
    ⟨heading_ready _ _ _ _ rfl (Or.inl rfl) (by decide +kernel) (by decide +kernel), rfl, rfl, block_reads rfl (by decide +kernel), by decide +kernel⟩,
    by decide +kernel, by decide +kernel, ⟨heading_ready _ _ _ _ rfl (Or.inl rfl) (by decide +kernel) (by decide +kernel), rfl, ?_⟩,
    ⟨heading_ready _ _ _ _ rfl (Or.inl rfl) rfl (by decide +kernel), ?_⟩⟩
  · exact ⟨_, Or.inr ⟨rfl, read_pair (by decide +kernel)⟩, by decide +kernel⟩
  · exact ⟨_, 0x1000, ⟨0x40, 0⟩, fail_pair (by decide +kernel), by decide +kernel⟩
  · exact ⟨_, 0, ⟨0x40, 0⟩, fail_pair (by decide +kernel), by decide +kernel⟩

end Sys2Proof.Tests
end

