-- ==== Sys2Proof/Tests/WitUnit.lean ====
section
/-!
SUPPORT. Witnesses of the statements about loop, memory, port, matrix and sampling nodes, about the conduct of nodes, and about Anti.
-/
namespace Sys2Proof.Tests
set_option Elab.async false
open Sys2Proof Sys2Proof.Machine

/-- Some inputs hold tokens, and the node is in a state. -/
def gapIn (s0 : State) (l : List Nat) (a b c : Tok) (d : Node) : State :=
  cellIn s0 (if 0 ∈ l then [a] else []) (if 1 ∈ l then [b] else []) (if 2 ∈ l then [c] else []) d
abbrev At (s0 : State) (w : NodeW) (l : List Nat) (a b c : Tok) (d : Node) : Prop := NodeAt (gapIn s0 l a b c d) 0 w l (hd3 a b c)
abbrev Cx (s0 : State) (w : NodeW) (l : List Nat) (a b c : Tok) (d : Node) : NCx := ncx (gapIn s0 l a b c d) 0 w

/-! ### Loops -/

/-- Two levels' record of CCHAIN in the bank: 0 below 3 by 1; then a level that makes no trip. -/
def levels : State := { State.reset with shore := memOf 0 (leBytes 0 4 ++ leBytes 3 4 ++ leBytes 1 4 ++ leBytes 0 4) }
def chainRun (run eot fresh : Bool) : OpSt := .chain run [0] [(0, 3, 1)] 0 none eot fresh

/-- A node's step with an index that is the last of level 0, and one that is not. -/
def lastIdx : Tok := idx 0 0x10
def someIdx : Tok := idx 0 0
def firstIdx : Tok := idx 0 1

/-- A read of node 1 of cell 0 in flight as access 5; node 0 with these tokens at IN_A and in a state. -/
def readIssued (l : List Tok) (d : Node) : State :=
  { cellIn world l [] [] d with accs := [⟨5, .node 1, 3, shoreVa, 2, .rd 2, [(⟨.shore, 0⟩, 2)], none, true, 0⟩] }

/-- SOURCE without an input in and after its pass, with an input; CCHAIN at an end, in a pass and at the start of one with no trip and with one; CARRY
of its initial value from its input and from IMM, and of its carried value; EXIT at its end, in FLUSH and in neither; TILE at each of its counts;
ISECT and UNION on each order; CTXSEL; SQUASH with and without a token for its position; SYNC on both barrier values,
with an access of its cell in flight, and with its token taken, that access still in flight and performed. -/
theorem meets_LoopAndStateNodesFire :
    (let w := fields 0xFF0 0xFF0 0xFF0 2 0
     let c := fun d => Cx State.reset w [] ones ones ones d
     (∀ o ∈ [OpSt.none, .source true 0, .source false 1], At State.reset w [] ones ones ones (nodeOp o) ∧ injected (c (nodeOp o)) = none) ∧
       (c Node.empty).has 0 = false ∧ (bankNat (c Node.empty) 0 16).2 = false) ∧
    (∀ t ∈ [ones, ct 1, idx 0 0], At State.reset (w1 2 0) [0] t ones ones Node.empty ∧ injected (Cx State.reset (w1 2 0) [0] t ones ones Node.empty) = none ∧
      (sourceSt (Cx State.reset (w1 2 0) [0] t ones ones Node.empty)).1 = false) ∧
    (let w := fields 0xFF0 0xFF0 0xFF0 0 0
     let d := fun e => nodeOp (chainRun true e false)
     ∀ e ∈ [true, false], At levels w [] ones ones ones (d e) ∧ injected (Cx levels w [] ones ones ones (d e)) = none ∧
      (Cx levels w [] ones ones ones (d e)).has 1 = false ∧ chainGate (Cx levels w [] ones ones ones (d e)) (chainSt (d e)) = true) ∧
    (At levels (w1 0 0) [0] ones ones ones Node.empty ∧ (bankNat (Cx levels (w1 0 0) [0] ones ones ones Node.empty) 0 16).2 = false ∧
      chainRead (Cx levels (w1 0 0) [0] ones ones ones Node.empty) 0 1 0 = .ok (some [(0, 3, 1)]) ∧
      chainRead (Cx { levels with shore := memOf 8 [1] } (w1 0 0) [0] ones ones ones Node.empty) 0 1 0 = .ok none ∧
      chainGate (Cx levels (w1 0 0) [0] ones ones ones Node.empty) (chainSt Node.empty) = true) ∧
    (∀ t ∈ [ct 0, firstIdx], let c := Cx State.reset (w3 0 0) [0, 2] ones ones t Node.empty
      NodeAt (gapIn State.reset [0, 2] ones ones t Node.empty) 0 (w3 0 0) [2] (hd3 ones ones t) ∧ badKind c [0, 1] = false ∧
        c.shows 1 [1, 2, 3, 4] = false ∧ c.has 0 = true ∧ c.has 2 = true ∧ c.hd 0 = some ones ∧ ones.operand ∧
        ((hd3 ones ones t 2).k = 6 ∧ (hd3 ones ones t 2).ctl = 0 ∨ (hd3 ones ones t 2).k = 8 ∧ bitOf (hd3 ones ones t 2).sb.toNat 0 = true)) ∧
    (let w := fields 0xFF0 0x010 0x020 0 0
     At State.reset w [2] ones ones (ct 0) Node.empty ∧ (Cx State.reset w [2] ones ones (ct 0) Node.empty).has 0 = false) ∧
    (∀ t ∈ [ct 1, someIdx], At State.reset (w3 0 0) [1, 2] ones ones t Node.empty ∧
      ((hd3 ones ones t 2).k = 6 ∧ (hd3 ones ones t 2).ctl ≠ 0 ∨ (hd3 ones ones t 2).k = 8 ∧ bitOf (hd3 ones ones t 2).sb.toNat 0 = false)) ∧
    (∀ e ∈ [(ct 1, someIdx), (ct 0, someIdx), (ct 0, lastIdx), (ct 1, lastIdx)], At State.reset (w3 0 0) [0, 1, 2] e.1 ones e.2 Node.empty) ∧
    (let d := nodeOp (.exit true)
     At State.reset (w3 0 0) [2] ones ones lastIdx d ∧ exitFlush d = true ∧ (Cx State.reset (w3 0 0) [2] ones ones lastIdx d).hd 0 = none ∧
       (Cx State.reset (w3 0 0) [2] ones ones lastIdx d).antiOk 0 = true ∧ (Cx State.reset (w3 0 0) [2] ones ones lastIdx d).antiOk 1 = true) ∧
    (∀ e ∈ [(0, 0), (1, 0), (1, 1)], At State.reset (w1 0 0x10001) [0] ones ones ones (nodeOp (.tile e.1 e.2)) ∧ tileSt (nodeOp (.tile e.1 e.2)) = e) ∧
    (∀ e ∈ [(coord 1, coord 2), (coord 2, coord 1), (coord 0xFFFF, coord 0xFFFF)], At State.reset (w2 0 0) [0, 1] e.1 e.2 ones Node.empty ∧
      fibreSt Node.empty = (none, none)) ∧
    (NodeReady (gapIn State.reset [0] (ct 1) ones ones Node.empty) 0 (w1 0 0) [0] (hd3 (ct 1) ones ones) ∧ bitOf (w1 0 0).imm.toNat 3 = false ∧
      ctxselSt (Cx State.reset (w1 0 0) [0] (ct 1) ones ones Node.empty) = (false, 0)) ∧
    (NodeAt (gapIn State.reset [0, 1] (ct 9) ones ones Node.empty) 0 (w2 0 1) [0] (hd3 (ct 9) ones ones) ∧ squashSt Node.empty = (0, 0) ∧
      (Cx State.reset (w2 0 1) [0, 1] (ct 9) ones ones Node.empty).hd 1 = some ones ∧ 0 < min (ct 9).ctl 2 ∧
      At State.reset (w2 0 0) [0] (ct 0) ones ones Node.empty ∧ (Cx State.reset (w2 0 0) [0] (ct 0) ones ones Node.empty).hd 1 = none ∧
      (Cx State.reset (w2 0 0) [0] (ct 0) ones ones Node.empty).antiOk 1 = true ∧ min (ct 0).ctl 1 = 0) ∧
    (let s := fun v => gapIn (world.setBar 0 63 v) [0] ones ones ones Node.empty
     let w := fun m => w1 m 0x3F00000007
     (∀ v ∈ [(0 : BitVec 32), 0xFFFFFFFF], NodeReady (s v) 0 (w 1) [0] (hd3 ones ones ones) ∧ (s v).bar (0 / 256) (bitsOf (w 1).imm.toNat 32 6) = v) ∧
       NodeReady (s 0) 0 (w 0) [0] (hd3 ones ones ones) ∧ ∀ a ∈ (s 0).accs, issuedByCell (s 0) (0 / 16) (activeOf (s 0) 3) a = false) ∧
    (let w := w1 0 0x3F00000007
     (let s := readIssued [ones] Node.empty
      NodeReady s 0 w [0] (hd3 ones ones ones) ∧ (s.accs.filter (issuedByCell s (0 / 16) (activeOf s 3))).map (·.id) = [5]) ∧
      ∀ id ∈ [5, 6], let s := readIssued [] { Node.empty with pend := [(some ones, some ones)], marks := [[id]] }
        NodeAt s 0 w [] (hd3 ones ones ones) ∧ ((∃ a ∈ s.accs, a.id ∈ [id]) ↔ id = 5)) := by
  refine ⟨⟨?_, by decide +kernel⟩, ?_, ?_,
    ⟨at_of (by decide +kernel), by decide +kernel, eq_ok (by decide +kernel), eq_ok (by decide +kernel), by decide +kernel⟩, ?_,
    ⟨at_of (by decide +kernel), by decide +kernel⟩, ?_, ?_, ⟨at_of (by decide +kernel), rfl, by decide +kernel⟩, ?_, ?_,
    ⟨ready_of (by decide +kernel), by decide +kernel⟩,
    ⟨at_of (by decide +kernel), rfl, by decide +kernel, by decide +kernel, at_of (by decide +kernel), by decide +kernel⟩,
    ⟨?_, ready_of (by decide +kernel), (by intro a h; cases h)⟩, ⟨ready_of (by decide +kernel), by decide +kernel⟩, ?_⟩
  · intro o h
    simp only [List.mem_cons, List.not_mem_nil, or_false] at h
    rcases h with rfl | rfl | rfl <;> exact ⟨at_of (by decide +kernel), rfl⟩
  · intro t h
    simp only [List.mem_cons, List.not_mem_nil, or_false] at h
    rcases h with rfl | rfl | rfl <;> exact ⟨at_of (by decide +kernel), rfl, by decide +kernel⟩
  · intro w d e h
    simp only [List.mem_cons, List.not_mem_nil, or_false] at h
    rcases h with rfl | rfl <;> exact ⟨at_of (by decide +kernel), rfl, by decide +kernel⟩
  · intro t h
    simp only [List.mem_cons, List.not_mem_nil, or_false] at h
    rcases h with rfl | rfl <;> exact ⟨at_of (by decide +kernel), by decide +kernel, by decide +kernel, by decide +kernel, by decide +kernel,
      by decide +kernel, by unfold Tok.operand; decide, by decide +kernel⟩
  · intro t h
    simp only [List.mem_cons, List.not_mem_nil, or_false] at h
    rcases h with rfl | rfl <;> exact ⟨at_of (by decide +kernel), by decide +kernel⟩
  · intro t h
    simp only [List.mem_cons, List.not_mem_nil, or_false] at h
    rcases h with rfl | rfl | rfl | rfl <;> exact at_of (by decide +kernel)
  · intro t h
    simp only [List.mem_cons, List.not_mem_nil, or_false] at h
    rcases h with rfl | rfl | rfl <;> exact ⟨at_of (by decide +kernel), rfl⟩
  · intro t h
    simp only [List.mem_cons, List.not_mem_nil, or_false] at h
    rcases h with rfl | rfl | rfl <;> exact ⟨at_of (by decide +kernel), rfl⟩
  · intro t h
    simp only [List.mem_cons, List.not_mem_nil, or_false] at h
    rcases h with rfl | rfl <;> exact ⟨ready_of (by decide +kernel), by decide +kernel⟩
  · intro id h
    simp only [List.mem_cons, List.not_mem_nil, or_false] at h
    rcases h with rfl | rfl <;> exact ⟨at_of (by decide +kernel), by decide +kernel⟩

/-! ### Memory and ports -/

/-- An address token at the start of the shore, and one at zero. -/
def shoreTok : Tok := ⟨0, (0x4000000000000000 : BitVec 128), 1⟩
def zeroTok : Tok := ⟨0, 0, 1⟩

/-- LD, ST with valid lanes and with none, ATOM and DIRTY on a valid lane and on none, all at a shore address; COPYFIRE in line and with flag V; ORD
with no mark; a port that holds a token, one that takes data at a translated element, POISON, and a delimiter; a
delimiter and an HDR on every input; an access name not in use. -/
theorem meets_MemoryAndPortNodesFire :
    (∀ e ∈ [(ones, zeroTok), (bare 0, zeroTok), (ones, ones)], let s := cellIn world [shoreTok] [e.1] [e.2] Node.empty
      NodeReady s 0 (w3 2 0x300) ((ncx s 0 (w3 2 0x300)).needed [0, 1, 2]) (hd3 shoreTok e.1 e.2) ∧ 1 ∈ (ncx s 0 (w3 2 0x300)).needed [0, 1, 2] ∧
        mayIssue (ncx s 0 (w3 2 0x300)) = true ∧ ∀ i ∈ (ncx s 0 (w3 2 0x300)).needed [0, 1, 2], (hd3 shoreTok e.1 e.2 i).k = 0) ∧
    (∀ e ∈ [zeroTok, bare 0], let s := cellIn world [shoreTok] [e] [ones] Node.empty
      NodeReady s 0 (w2 2 0x300) ((ncx s 0 (w2 2 0x300)).needed [0, 1]) (hd3 shoreTok e ones) ∧ 1 ∈ (ncx s 0 (w2 2 0x300)).needed [0, 1] ∧
        mayIssue (ncx s 0 (w2 2 0x300)) = true ∧ ∀ i ∈ (ncx s 0 (w2 2 0x300)).needed [0, 1], (hd3 shoreTok e ones i).k = 0) ∧
    (let s := cellIn world [shoreTok] [zeroTok] [zeroTok] Node.empty
     (∃ k, classify s (rtOf s 3 false) 0x4000000000000000 16 false = .ok k) ∧ (∃ k, classify s (rtOf s 3 false) 0x4000000000000000 16 true = .ok k) ∧
       (ncx s 0 (w3 2 0)).rid = 3 ∧ (0x4000000000000000 : Word).toNat % 4 = 0) ∧
    (laneBytes 32 4 ones ≠ [] ∧ laneBytes 32 4 (bare 0) = [] ∧ laneOk 32 ones 0 = true ∧ laneOk 32 (bare 0) 0 = false) ∧
    (∀ t ∈ [ones, bare 1, eotTok, poisonTok], NodeAt (cellIn world [t] [] [] Node.empty) 0 (w1 0 0) [0] (hd3 t ones ones) ∧
      NodeAt (cellIn world [t] [] [] Node.empty) 0 { w1 0 0 with v := true } [0] (hd3 t ones ones) ∧
      mayIssue (ncx (cellIn world [t] [] [] Node.empty) 0 { w1 0 0 with v := true }) = true ∧ (cellIn world [t] [] [] Node.empty).accs = []) ∧
    (let s := cellIn (world.setPort 0 15 { Port.empty with buf := [(ones, [5])] }) [] [] [] Node.empty
     let w := fields 0xFF0 0xFF0 0xFF0 2 0x4F
     NodeAt s 0 w [] (hd3 ones ones ones) ∧ injected (ncx s 0 w) = none ∧ (s.port (0 / 256) (bitsOf w.imm.toNat 0 8 - 0x40)).buf = (ones, [5]) :: []) ∧
    (∀ t ∈ [ones, bare 0, eotTok, poisonTok],
      let b := affBind false false none (affBlock 0x4000000000000000)
      let s := cellIn (world.setPort 0 15 { Port.empty with bind := some b, rdy := some (0x4000000000000000, [(⟨.shore, 0⟩, 16)]) }) [t] [] [] Node.empty
      let w := w1 2 0x4F
      NodeAt s 0 w [0] (hd3 t ones ones) ∧ (s.port 0 15).bind = some b ∧ (s.port 0 15).frozen = none ∧ b.fin = false ∧
        (s.port 0 15).rdy = some (0x4000000000000000, [(⟨.shore, 0⟩, 16)]) ∧ (laneBytes (fmtWidth b.fmt) b.lanes t = [] ↔ t ≠ ones)) ∧
    (∀ t ∈ [bare 1, eotTok, bare 3, bare 4], let s := cellIn world [t] [t] [t] Node.empty
      ∀ w ∈ [w2 2 0x300, w3 2 0x300], let c := ncx s 0 w
      NodeAt s 0 w (c.needed [0, 1, 2]) (hd3 t t t) ∧ (t.k ≤ 5 ∧ t.k ≠ 5) ∧ mayIssue c = true ∧
        heads c true (c.needed [0, 1, 2]) = .delim t.k ((c.needed [0, 1, 2]).map fun i => (i, true)) t) ∧
    ((∀ a ∈ world.accs, a.id ≠ world.nextId) ∧ ∀ r ∈ (world.node 0).reps, r.acc ≠ some world.nextId) := by
  refine ⟨?_, ?_, ⟨⟨_, eq_ok (a := .shore 0) (by decide +kernel)⟩, ⟨_, eq_ok (a := .shore 0) (by decide +kernel)⟩, by decide +kernel, by decide⟩,
    by decide +kernel, ?_, ⟨at_of (by decide +kernel), rfl, by decide +kernel⟩, ?_, ?_, ⟨(by intro a h; cases h), (by intro a h; cases h)⟩⟩
  · intro e h
    simp only [List.mem_cons, List.not_mem_nil, or_false] at h
    rcases h with rfl | rfl | rfl <;> exact ⟨ready_of (by decide +kernel), by decide +kernel, by decide +kernel, by decide +kernel⟩
  · intro e h
    simp only [List.mem_cons, List.not_mem_nil, or_false] at h
    rcases h with rfl | rfl <;> exact ⟨ready_of (by decide +kernel), by decide +kernel, by decide +kernel, by decide +kernel⟩
  · intro t h
    simp only [List.mem_cons, List.not_mem_nil, or_false] at h
    rcases h with rfl | rfl | rfl | rfl <;> exact ⟨at_of (by decide +kernel), at_of (by decide +kernel), by decide +kernel, rfl⟩
  · intro t h
    simp only [List.mem_cons, List.not_mem_nil, or_false] at h
    rcases h with rfl | rfl | rfl | rfl <;> exact ⟨at_of (by decide +kernel), rfl, rfl, rfl, rfl, by decide +kernel⟩
  · intro t h s w g
    simp only [List.mem_cons, List.not_mem_nil, or_false] at h g
    rcases h with rfl | rfl | rfl | rfl <;> rcases g with rfl | rfl <;>
      exact ⟨at_of (by decide +kernel), by decide, by decide +kernel, by decide +kernel⟩

/-! ### Matrix and sampling -/

/-- What the sampling nodes wait for. -/
def calm (w : NodeW) (l : List Nat) (a b c : Tok) (d : Node) (j : Nat) : Bool :=
  !badKind (Cx State.reset w l a b c d) [j] && !(Cx State.reset w l a b c d).shows j [6, 7, 8]

/-- MMA on a valid and an invalid command; MXSEQ; SORTCE with pairs, at the end of its segment, and TOPK; CUMTHR, ACCEPT and RESID at their begin, in
the middle and at their end; HEADMASK in both modes; UMRANK on a candidate, at the end and after it. -/
theorem meets_MatrixAndSamplingNodesFire :
    (∀ v ∈ [(0x7D : BitVec 64), 0], At State.reset (w1 0 0) [0] (ct v) ones ones Node.empty) ∧ (mxValid 0x7D = true ∧ mxValid 0 = false) ∧
    (NodeReady (gapIn State.reset [0] lastIdx ones ones Node.empty) 0 (w1 0 0) [0] (hd3 lastIdx ones ones)) ∧
    (∀ o ∈ [OpSt.none, .sort [7, 9] false, .topk [7] 1 1 (some Samp.reset) false, .cum 5 [7] (some Samp.reset) false,
        .accept 5 2 [ones] (some Samp.reset) false, .accept 5 3 [ones] (some Samp.reset) false],
      NodeReady (gapIn State.reset [0] ones ones ones (nodeOp o)) 0 (w1 2 0) [0] (hd3 ones ones ones) ∧
      At State.reset (w1 2 0) [0] eotTok ones ones (nodeOp o) ∧
      heads (Cx State.reset (w1 2 0) [0] eotTok ones ones (nodeOp o)) true [0] = .delim 2 [(0, true)] eotTok ∧
      calm (w1 2 0) [0] ones ones ones (nodeOp o) 1 = true) ∧
    mxTurn (gapIn State.reset [0] ones ones ones Node.empty) 0 (planeOf (gapIn State.reset [0] ones ones ones Node.empty) 0) = true ∧
    (pairToks (sortBy (sortLt (w1 2 0)) [7, 9]) ≠ [] ∧
      let t := topkSt (Cx State.reset (w1 2 0) [0] eotTok ones ones (nodeOp (.topk [7] 1 1 (some Samp.reset) false)))
      t.psn = false ∧ pairToks (t.l.take (min t.par.k t.n)) ++ [eotTok] ≠ []) ∧
    (At State.reset (w2 0 0) [1] ones ones ones Node.empty ∧ calm (w2 0 0) [1] ones ones ones Node.empty 0 = true ∧ cumSt Node.empty = none ∧
      (Cx State.reset (w2 0 0) [1] ones ones ones Node.empty).has 1 = true ∧ (Cx State.reset (w2 0 0) [1] ones ones ones Node.empty).has 2 = false) ∧
    (At State.reset (w3 0 3) [1, 2] ones ones (ct 9) Node.empty ∧ calm (w3 0 3) [1, 2] ones ones (ct 9) Node.empty 0 = true ∧
      (Cx State.reset (w3 0 3) [1, 2] ones ones (ct 9) Node.empty).has 2 = true) ∧
    (At State.reset (w3 0 0) [2] ones ones ones Node.empty ∧ calm (w3 0 0) [2] ones ones ones Node.empty 0 = true ∧
      calm (w3 0 0) [2] ones ones ones Node.empty 1 = true) ∧
    (let d := nodeOp (.resid 5 [1] [2] (some Samp.reset) false)
     NodeReady (gapIn State.reset [0, 1] ones ones ones d) 0 (w3 0 0) [0, 1] (hd3 ones ones ones) ∧ calm (w3 0 0) [0, 1] ones ones ones d 2 = true ∧
      At State.reset (w3 0 0) [0, 1] eotTok eotTok ones d ∧
      heads (Cx State.reset (w3 0 0) [0, 1] eotTok eotTok ones d) true [0, 1] = .delim 2 [(0, true), (1, true)] eotTok) ∧
    (∀ o ∈ [OpSt.none, .headmask 7 0xFF], ∀ i ∈ [(0 : BitVec 40), 1],
      NodeReady (gapIn State.reset [0] (ct 0xFF) ones ones (nodeOp o)) 0 (w1 0 i) [0] (hd3 (ct 0xFF) ones ones)) ∧
    (let w := w1 0 (3 + 4 * 63)
     ∀ t ∈ [ones, eotTok], ∀ o ∈ [OpSt.none, .umrank true false, .umrank true true],
      At { State.reset with umx := [(umEng 0 w, ⟨[(umRound w, roundOf 3 0 roundBlock)], [], none⟩)] } w [0] t ones ones (nodeOp o) ∧
      ((gapIn { State.reset with umx := [(umEng 0 w, ⟨[(umRound w, roundOf 3 0 roundBlock)], [], none⟩)] } [0] t ones ones (nodeOp o)).round
        (umEng (0 / 256) w) (umRound w)).isOpen = true) := by
  refine ⟨?_, by decide +kernel, ready_of (by decide +kernel), ?_, by decide +kernel, by decide +kernel,
    ⟨at_of (by decide +kernel), by decide +kernel, rfl, by decide +kernel⟩, ⟨at_of (by decide +kernel), by decide +kernel⟩,
    ⟨at_of (by decide +kernel), by decide +kernel⟩,
    ⟨ready_of (by decide +kernel), by decide +kernel, at_of (by decide +kernel), by decide +kernel⟩, ?_, ?_⟩
  · intro v h
    simp only [List.mem_cons, List.not_mem_nil, or_false] at h
    rcases h with rfl | rfl <;> exact at_of (by decide +kernel)
  · intro o h
    simp only [List.mem_cons, List.not_mem_nil, or_false] at h
    rcases h with rfl | rfl | rfl | rfl | rfl | rfl <;>
      exact ⟨ready_of (by decide +kernel), at_of (by decide +kernel), by decide +kernel, by decide +kernel⟩
  · intro o h i g
    simp only [List.mem_cons, List.not_mem_nil, or_false] at h g
    rcases h with rfl | rfl <;> rcases g with rfl | rfl <;> exact ready_of (by decide +kernel)
  · intro w t h o g
    simp only [List.mem_cons, List.not_mem_nil, or_false] at h g
    rcases h with rfl | rfl <;> rcases g with rfl | rfl | rfl <;> exact ⟨at_of (by decide +kernel), by decide +kernel⟩

/-! ### Conduct and Anti -/

/-- A token of a reserved kind. -/
def badTok : Tok := ⟨15, 0, 0⟩

/-- A reserved kind; a kind of no use, in a lane operand and at a control input; no token and no space; POISON; equal delimiters and HDRs; a mismatch;
DRAIN with nothing owed. -/
theorem meets_LaneNodeConduct :
    (badKind (ncx (cell3 badTok ones ones Node.empty) 0 (w2 2 0)) [0, 1] = true) ∧
    (∀ t ∈ [ct 1, coord 1, idx 0 0], badKind (ncx (cell3 t ones ones Node.empty) 0 (w2 2 0)) [0, 1] = false ∧
      (ncx (cell3 t ones ones Node.empty) 0 (w2 2 0)).hd 0 = some t ∧ 6 ≤ t.k ∧ t.k ≤ 8) ∧
    (let w := { w3 2 0 with t := true }
     laneNeeds (ncx (cell3 ones ones ones Node.empty) 0 w) [0, 1, 2] (some 2) = [0, 1, 2] ∧ w.t = true ∧
       (ncx (cell3 ones ones ones Node.empty) 0 w).hd 2 = some ones ∧ badKind (ncx (cell3 ones ones ones Node.empty) 0 w) [0, 1, 2] = false) ∧
    (let s := gapAt [0] ones ones ones
     (ncx s 0 (w2 2 0)).hd 0 = some ones ∧ (ncx s 0 (w2 2 0)).hd 1 = none ∧ s.focus = .node 0) ∧
    (let s := { (cell3 ones ones ones Node.empty).setCell 0 { (cell3 ones ones ones Node.empty).cell 0 with
       endps := [(0, ⟨32, 0, 4, 0, 0, 0⟩)] } with focus := .node 0 }
     heads (ncx s 0 (w2 2 0)) true [0, 1] = .data ∧ (ncx s 0 (w2 2 0)).rooms = false) ∧
    (Rdy (w2 2 0) [0, 1] ones poisonTok ones Node.empty ∧ (hd3 ones poisonTok ones 1).k = 9) ∧
    (∀ k ∈ [1, 4], ∀ i ∈ [0, 1], (ncx (cell3 (bare k) (bare k) ones Node.empty) 0 (w2 2 0)).hd i = some (hd3 (bare k) (bare k) ones i) ∧
      (ncx (cell3 (bare k) (bare k) ones Node.empty) 0 (w2 2 0)).held i = false ∧ (ncx (cell3 (bare k) (bare k) ones Node.empty) 0 (w2 2 0)).rooms = true) ∧
    (∀ i ∈ [0, 1], (ncx (cell3 (bare 2) (bare 3) ones Node.empty) 0 (w2 2 0)).hd i = some (hd3 (bare 2) (bare 3) ones i) ∧
      (ncx (cell3 (bare 2) (bare 3) ones Node.empty) 0 (w2 2 0)).held i = false ∧ 1 ≤ (hd3 (bare 2) (bare 3) ones i).k ∧ (bare 3).k ≠ (bare 2).k) ∧
    (let s := cell3 (bare 5) (bare 5) ones Node.empty
     (∀ i ∈ [0, 1], (ncx s 0 (w2 2 0)).hd i = some (bare 5) ∧ ((ncx s 0 (w2 2 0)).q i).debt = 0 ∧ (ncx s 0 (w2 2 0)).held i = false) ∧
       doutZero (ncx s 0 (w2 2 0)) (w2 2 0).out0 = true ∧ doutZero (ncx s 0 (w2 2 0)) (w2 2 0).out1 = true ∧ (ncx s 0 (w2 2 0)).rooms = true ∧
       (s.node 0).reps = [] ∧ (s.node 0).pend = [] ∧ s.accs = []) := by
  refine ⟨by decide +kernel, by decide +kernel, by decide +kernel, by decide +kernel, by decide +kernel, ⟨ready_of (by decide +kernel), by decide⟩,
    by decide +kernel, by decide +kernel, by decide +kernel⟩

/-- A firing, a stall and a fault. -/
theorem meets_NodeFiringFrame :
    ∀ e ∈ [(Instr.nodeAdd (w2 2 0), cell3 ones ones ones Node.empty), (.fork (w1 0 0), cellOf [] [] [] Node.empty),
      (.nodeFma (w3 0 0), cell3 badTok ones ones Node.empty), (.squash (w2 0 1), cell3 (ct 1) ones ones Node.empty)],
      e.2.focus = .node 0 ∧ ∃ t, exec e.1 e.2 = .next t := by
  intro e h
  simp only [List.mem_cons, List.not_mem_nil, or_false] at h
  rcases h with rfl | rfl | rfl | rfl <;> exact ⟨rfl, _, rfl⟩

/-- Queues at sticky count 15, with a token of one use and of more, and empty at each sticky count, with a producer. -/
theorem meets_AntiFollowsItsRule :
    (let s := fun k l => State.reset.setCell 0 { State.reset.cell 0 with queues := [(31, { queueOf k l with src := [7] })] }
     (qAt (s 15 [ones]) 0 31).sticky = 15 ∧
     ((qAt (s 0 [ones]) 0 31).toks = [⟨ones, 1, 0⟩] ∧ (qAt (s 0 [ones]) 0 31).src[0]? = some 7) ∧
     (qAt (s 14 [ones]) 0 31).toks = [⟨ones, 15, 0⟩] ∧ ones.holds = true ∧ eotTok.holds = false ∧ (qAt (s 14 [eotTok]) 0 31).toks = [⟨eotTok, 15, 0⟩] ∧
     (∀ k ∈ [0, 14], (qAt (s k []) 0 31).toks = [] ∧ (qAt (s k []) 0 31).sticky = k)) := by
  decide +kernel

end Sys2Proof.Tests
end

