-- ==== Sys2Proof/Tests/WitEvent.lean ====
section
/-!
SUPPORT. Witnesses of the statements about events of contexts, barriers, ports, channels, regions and the matrix node.
-/
namespace Sys2Proof.Tests
set_option Elab.async false
open Sys2Proof Sys2Proof.Machine

/-! ### Contexts, barriers, ports -/

/-- Context 0 of the world in this state, with an event pending, at clock 4096. -/
def pending (st : CtxSt) (b : Option Blk) : State :=
  { world.setCtx 0 { ctx3 .u 0 0 0 with st := st, blk := b, evts := [7], aie := true } with clock := 4096 }

/-- A block whose slot 1 is a WAIT on the barrier that slot 0 gives. -/
def waitBlk : Blk := ⟨0x1000, [0x28000000, 0x61000000], [], false, [(0, .done 63 .nothing 0), (1, .wait 0)]⟩

/-- Context 0 in YIELDWAIT since clock 4032, to return to this wait, with these arrivals. -/
def awaited (back : Option CtxSt) (l : List Arrival) : State :=
  let s := pending (.yieldwait 4032 []) none
  { s.setCtx 0 { s.ctx 0 with back := back } with arrs := l }

/-- Each place where a context takes an event; the end of YIELDWAIT by its clocks and by the commits it awaits, with arrivals of a PHASE, of the level it
is to return to and of another; WAIT at 4,096 clocks with the barrier
at 0 and above. -/
theorem meets_ContextEventsHappen :
    (∀ e ∈ [(CtxSt.run, none), (.run, some waitBlk), (.barwait 7, none), (.yieldwait 0 [(1, 0)], none)],
      let c := (pending e.1 e.2).ctx 0
      c.evts = 7 :: [] ∧ c.aie = true ∧ c.intrap = false ∧ (if c.prv = .u then c.xvec else c.xvecm) ≠ 0 ∧ c.st = e.1 ∧ c.blk = e.2) ∧
    waitsSomewhere waitBlk = true ∧
    (((pending (.yieldwait 4032 [(1, 0)]) none).ctx 0).st = .yieldwait 4032 [(1, 0)] ∧ 4032 + 64 ≤ dieClock (pending (.yieldwait 4032 [(1, 0)]) none) 0) ∧
    (∀ e ∈ ([] : List (Nat × Nat)), e.2 < ((pending (.yieldwait 4095 []) none).ctx e.1).commits) ∧
    (∀ back ∈ [none, some (CtxSt.barwait 3)],
      let s := awaited back [⟨true, 2, 3, 0, 0, none, []⟩, ⟨false, 3, 3, 0, 0, none, []⟩, ⟨false, 2, 3, 0, 0, none, []⟩]
      let awaits := fun a : Arrival => a.phase = false ∧ a.x = 0 ∧ (s.ctx 0).back ≠ some (.barwait a.level)
      (s.ctx 0).st = .yieldwait 4032 [] ∧ 4032 + 64 ≤ dieClock s 0 ∧
        (back = none → s.arrs = [⟨true, 2, 3, 0, 0, none, []⟩] ++ ⟨false, 3, 3, 0, 0, none, []⟩ :: [⟨false, 2, 3, 0, 0, none, []⟩] ∧
          (∀ b ∈ [(⟨true, 2, 3, 0, 0, none, []⟩ : Arrival)], ¬awaits b) ∧ awaits ⟨false, 3, 3, 0, 0, none, []⟩) ∧
        (back ≠ none → (∀ b ∈ [(⟨true, 2, 3, 0, 0, none, []⟩ : Arrival), ⟨false, 3, 3, 0, 0, none, []⟩], ¬awaits b) ∧
          awaits ⟨false, 2, 3, 0, 0, none, []⟩)) ∧
    (∀ v ∈ [(0 : BitVec 32), 0xFFFFFFFF], let s := (pending .run (some waitBlk)).setBar 0 63 v
      (s.ctx 0).blk = some waitBlk ∧ waitBlk.slot 1 = some (.wait 0) ∧ slotOp (waitBlk.word 1) = 0x61 ∧ 0 + 4096 ≤ dieClock s 0 ∧
        Operand s 0 waitBlk ((waitBlk.word 1).extractLsb' 16 8) 63 ∧ s.bar 0 63 = v) := by
  refine ⟨?_, rfl, by decide +kernel, by simp, by decide +kernel, ?_⟩
  · intro e h
    simp only [List.mem_cons, List.not_mem_nil, or_false] at h
    rcases h with rfl | rfl | rfl | rfl <;> exact ⟨rfl, rfl, rfl, by decide +kernel, rfl, rfl⟩
  · intro v h
    simp only [List.mem_cons, List.not_mem_nil, or_false] at h
    rcases h with rfl | rfl <;> exact ⟨rfl, rfl, by decide +kernel, by decide +kernel, by unfold Operand; decide +kernel, by decide +kernel⟩

/-- What a write at a pointer fails with, if it does. -/
theorem none_pair {A : Type} {r : State × Option A} (h : r.2.isNone = true) : r = (r.1, none) := by
  rcases r with ⟨t, _ | a⟩
  · rfl
  · cases h

/-- Port 0 of cove 0 bound for reads or writes, with UNBIND pending. -/
def unbinding (read abort : Bool) : Port :=
  { Port.empty with
    bind := some (affBind false read none (affBlock 0x4000000000000000)), unb := some abort, lo := some 5, hi := some 9, took := !abort }

/-- A credit of barrier 63 with no access before it; UNBIND of a read port and of a write port, with ABORT and without, its EOS taken; a checkpoint at its end. -/
theorem meets_BarrierAndPortEventsHappen :
    (let s := { world.setBar 0 63 5 with credits := [⟨0, 63, 0xFFFFFFFF, []⟩] }
     s.credits[0]? = some ⟨0, 63, 0xFFFFFFFF, []⟩ ∧ Tab.rising (s.cove 0).bars = true) ∧
    (∀ read abort, let s := world.setPort 0 0 (unbinding read abort)
     ∃ b, (s.port 0 0).bind = some b ∧ b.read = read ∧ (s.port 0 0).unb = some abort ∧ (s.port 0 0).took = !abort ∧ ridOfUnit s 0 0 16 = some 3 ∧ b.job = none ∧
      (s.port 0 0).frozen = none ∧ b.rob = [] ∧ (s.port 0 0).buf = [] ∧ (s.port 0 0).lo = some 5 ∧ (s.port 0 0).hi = some 9 ∧ s.accs = [] ∧
      (Tab.get [] s.logs 0).length < 256) ∧
    (let s := { hosted with ckpt := some ⟨83, 3, 0x3000, [], 0x2008, 1, 0⟩, sbs := [(83, [ckptCmd])] }
     ∃ k, s.ckpt = some k ∧ k.todo = [] ∧ sbCmds s k.sb = ckptCmd :: [] ∧ ckptCmd.rid = k.rid ∧ Tab.find? s.sbFz k.sb = none ∧
      ∃ t, wrVa s (cmdRt s ckptCmd) (dieOf (coveOfSb k.sb)) k.doneVa (leBytes (k.ending + k.skipped % 2 ^ 32 * 2 ^ 32) 8) = (t, none)) := by
  refine ⟨by decide +kernel, ?_, ⟨_, rfl, rfl, rfl, rfl, rfl, _, none_pair (by decide +kernel)⟩⟩
  intro read abort
  exact ⟨_, rfl, rfl, rfl, rfl, by cases read <;> cases abort <;> decide +kernel, rfl, rfl, rfl, rfl, rfl, rfl, rfl,
    by cases read <;> cases abort <;> decide +kernel⟩

/-- A credit of 3 takes its barrier from 5 to 2. -/
theorem test_tidemark_credit :
    (after (.tidemarkCredit 0) { world.setBar 0 63 5 with credits := [⟨0, 63, 3, []⟩] }).bar 0 63 = 2 := by decide +kernel

/-! ### Channels -/

/-- Endpoint 0 of cell 0 feeds queue 31 of cell 1; a packet of it on its way; the active node of cell 0 is an ADD to it. -/
def channel (c : Cargo) (q : Queue) (dout : Nat) : State :=
  let s1 := world.setCell 0 { world.cell 0 with
    imgs := [(0, ⟨[0x0100200000010FF0200FF00000000000], [], [], 0, []⟩)], endps := [(0, ⟨63, 0, 4, 4, 10, dout⟩)] }
  { s1.setCell 1 { s1.cell 1 with queues := [(31, { q with src := [0] })] } with wire := [⟨0, c, 0, 0, 0, none⟩], focus := .node 0 }

/-- A firing is owed on the ADD's output. -/
def cancelling : State := channel .credit (queueOf 0 []) 1
/-- Whether what comes off the wire is this, with nothing left. -/
def isCargo (c : Cargo) : Option (Cargo × List Packet) → Bool
  | some (d, []) => decide (d = c)
  | _ => false
theorem pop_of {c : Cargo} {r : Option (Cargo × List Packet)} (h : isCargo c r = true) : r = some (c, []) := by
  rcases r with _ | ⟨d, _ | ⟨p, l⟩⟩
  · cases h
  · exact congrArg (fun x => some (x, [])) (of_decide_eq_true h)
  · cases h
def addAt (s : State) : NodeW := nodeFields (nodeWords s 0 0 0).1

/-- The channel's node is an LD with one output or with two, its reply 9 at the head, with a wave record of its access 5. -/
def loading2 (two : Bool) : State :=
  let s := channel (.anti 9) (queueOf 0 []) 0
  let w : BitVec 128 := if two then 0x8000200000FF0FF02002100000000000 else 0x8000200000FF0FF0200FF00000000000
  { s.setCell 0 { s.cell 0 with
      imgs := [(0, ⟨[w], [], [], 0, []⟩)], nodes := [(0, { Node.empty with emitted := 9, reps := [⟨some 5, none, 0, false, false⟩] })]
      wRecs := [⟨0, 0, 1, 63, some 5, 0⟩] } with accs := [⟨5, .node 0, 3, shoreVa, 4, .rd 4, [(⟨.shore, 0⟩, 4)], none, false, 0⟩] }

/-- The channel's node is an LD with flag V, its reply 9 at the head the POISON of a load that makes no access, its wave record not accepted. -/
def loadingPoison : State :=
  let s := channel (.anti 9) (queueOf 0 []) 0
  s.setCell 0 { s.cell 0 with
    imgs := [(0, ⟨[0x8000208000FF0FF0200FF00000000000], [], [], 0, []⟩)]
    nodes := [(0, { Node.empty with emitted := 9, reps := [⟨none, some poisonTok, 0, false, false⟩] })], wRecs := [⟨0, 0, 1, 63, none, 0⟩] }

/-- A window of two arms, an arm empty, and a token of the other in it. -/
def window : Queue := { queueOf 0 [] with win := true, toks := [⟨ones, 1, 1⟩], land := [none, some ones], src := [0, 7] }

/-- A token at an empty queue, at one that owes all its uses, and at one that owes some, DRAIN among them, and at a free arm of a
window; a settle marker; a credit; an anti-token ahead of what has been sent and behind it, of an ADD, of a load with one output and with two, and of one that makes no
access; a node
that may cancel. -/
theorem meets_ChannelEventsHappen :
    (∀ q ∈ [queueOf 2 [], { queueOf 2 [] with debt := 3 }, { queueOf 2 [] with debt := 2 }], ∀ x ∈ [ones, drainTok], let s := channel (.tok x) q 0
      endpAt s 0 = some ⟨63, 0, 4, 4, 10, 0⟩ ∧ ridOfCh s 0 = some 3 ∧ isCargo (.tok x) (popFwd 0 s.wire) = true ∧ (qAt s 1 31).win = false ∧
        (qAt s 1 31).closed = false ∧ canArrive s 1 31 0 = true ∧ (qAt s 1 31).src[0]? = some 0 ∧ (qAt s 1 31).debt = q.debt ∧ (qAt s 1 31).sticky = 2) ∧
    (let s := channel (.tok ones) window 0
     isCargo (.tok ones) (popFwd 0 s.wire) = true ∧ (qAt s 1 31).win = true ∧ canArrive s 1 31 0 = true ∧
       ∀ y ∈ (qAt s 1 31).toks, y.arm = 0 → y.tok.k ≠ 5) ∧
    (let s := channel .settle { queueOf 0 [] with debt := 63 } 0
     isCargo .settle (popFwd 0 s.wire) = true ∧ (qAt s 1 31).win = false ∧ canArrive s 1 31 0 = true) ∧
    (∀ two, let s := loading2 two
     popAnti 0 s.wire = some (9, []) ∧ endpAt s 0 = some ⟨63, 0, 4, 4, 10, 0⟩ ∧ producerOf s 3 0 0x20 = some (0, 0) ∧ activeOf s 3 = some 0 ∧
       ¬((9 : BitVec 16) - 10).toNat < 2 ^ 15 ∧ nodeOpc (nodeWords s 0 0 0).1 = 0x80 ∧ (nodeFields (nodeWords s 0 0 0).1).x = false ∧
       (s.node 0).frozen = none ∧ (s.node 0).reps[((9 : BitVec 16) - BitVec.ofNat 16 (s.node 0).emitted).toNat]? = some ⟨some 5, none, 0, false, false⟩ ∧
       (endpMask (nodeFields (nodeWords s 0 0 0).1) = if two then 3 else 1) ∧ ∃ y ∈ (s.cell 0).wRecs, y.acc = some 5) ∧
    (let s := loadingPoison
     popAnti 0 s.wire = some (9, []) ∧ endpAt s 0 = some ⟨63, 0, 4, 4, 10, 0⟩ ∧ producerOf s 3 0 0x20 = some (0, 0) ∧ activeOf s 3 = some 0 ∧
       nodeOpc (nodeWords s 0 0 0).1 = 0x80 ∧ (nodeFields (nodeWords s 0 0 0).1).x = false ∧ (nodeFields (nodeWords s 0 0 0).1).v = true ∧
       (s.node 0).frozen = none ∧ (s.node 0).reps[((9 : BitVec 16) - BitVec.ofNat 16 (s.node 0).emitted).toNat]? = some ⟨none, some poisonTok, 0, false, false⟩ ∧
       endpMask (nodeFields (nodeWords s 0 0 0).1) = 1 ∧ recordWaits s 0 0 = true) ∧
    popCredit 0 (channel .credit (queueOf 0 []) 0).wire = some [] ∧
    (∀ p ∈ [(10 : BitVec 16), 32777, 9], let s := channel (.anti p) (queueOf 0 []) 0
      popAnti 0 s.wire = some (p, []) ∧ producerOf s 3 0 0x20 = some (0, 0) ∧ activeOf s 3 = some 0 ∧
        pureOp (nodeOpc (nodeWords s 0 0 0).1) (nodeFields (nodeWords s 0 0 0).1) = true ∧ ((p - 10).toNat < 2 ^ 15 ↔ p ≠ 9)) ∧
    (activeOf cancelling (ncx cancelling 0 (addAt cancelling)).rid = some 0 ∧
      (nodeInstrAt cancelling 0 0 0).any (fun i => canCancelOp (opcOf i) (ncx cancelling 0 (addAt cancelling))) = true) := by
  refine ⟨by decide +kernel, by decide +kernel, by decide +kernel, by decide +kernel, by decide +kernel, by decide +kernel, ?_, by decide +kernel⟩
  intro p h
  simp only [List.mem_cons, List.not_mem_nil, or_false] at h
  rcases h with rfl | rfl | rfl <;> decide +kernel

/-! ### Regions -/

/-- The world with context slots 0 and 3 loaded in cell 0 (slot 0 a SOURCE without an input that feeds the sink), its node in a state. -/
def sourced (d : Node) (r : Residency) : State :=
  { State.reset.setCell 0 { State.reset.cell 0 with
      imgs := [(0, ⟨[0x6700000FF0FF0FF0FE0FF00000000000], [], [], 0, []⟩), (3, CellImg.empty)], nodes := [(0, d)] } with
    res := [(3, r)] }
def ended : Node := { Node.empty with eos := true }

/-- DRAIN at a source and at a FIFO; the end of a phase with a swap pending, with an entry that loads a context and with one that ends the region; a
stall of 2^16 clocks; a packet of 256 clocks at the lifeline token's router;
a packet on the lane one router before its own, elsewhere on its die, and before the port to its die. -/
theorem meets_RegionEventsHappen :
    (let s := sourced ended { resOf cove0 with drainSrc := [.node 0], drainOn := true }
     let c := ncx s 0 (liveNode s 3 0)
     running s 3 = true ∧ (s.cell 0).lastFire ≠ some (dieClock s 0) ∧ c.rid = 3 ∧ c.d.eos = true ∧ c.d.drained = false ∧ c.rooms = true ∧
       doutZero c c.w.out0 = true ∧ doutZero c c.w.out1 = true ∧ memIdle c = true ∧ c.d.pend = []) ∧
    (let s := sourced ended { resOf cove0 with drainSrc := [.fifo 0 7], drainOn := true }
     let s := s.setCove 0 { s.cove 0 with fqEos := [7] }
     running s 3 = true ∧ has (s.cove 0).fqEos 7 = true ∧ fqCount s 0 7 < 16 ∧ Tab.get [] (s.cove 0).fqIn 7 = [] ∧ (s.fifo 0 7).win = false ∧ (s.fifo 0 7).closed = false ∧
       (s.fifo 0 7).debt = 0 ∧ canArrive s 0 (0xA8 + 7) 0 = true) ∧
    (∀ e ∈ [(some 3, []), (none, []), (none, [(0, (3 : BitVec 3))])],
      let d := { resOf cove0 with pend := e.1, nct := e.2, drainOn := true }
      let s := sourced { ended with drained := true } d
      phaseOver s 3 d.region 0 = true ∧ loadingSlot s 3 d.region 3 = false ∧ slotHeld s d.region 3 = true ∧ predVec s d.region 0 = 0) ∧
    (let s := { channel (.tok ones) (queueOf 0 [ones]) 0 with clock := 65536 }
     holdsWork s cove0 = true ∧ frozenRes s 3 (resOf cove0) = false ∧ (resOf cove0).actAt + 65536 ≤ dieClock s 0 ∧ (resOf cove0).ent.report = 0) ∧
    (let p : Packet := ⟨0, .tok ones, 1, 0, 0, none⟩
     let s := { channel (.tok ones) (queueOf 0 [ones]) 0 with clock := 256, wire := [p], power := { State.reset.power with lifeline := [(0, 1)] } }
     p.router = 256 * 0 + 1 ∧ Tab.get 0 s.power.lifeline 0 = 1 ∧ (∀ o ∈ s.wire, o.lane ≠ some (0, 1)) ∧ destOf s p ≠ p.router ∧
       p.since + 256 ≤ dieClock s 0 ∧ bufHead s s.wire p = true ∧ p.lane = none) ∧
    (let s := channel (.tok ones) (queueOf 0 [ones]) 0
     let at_ := fun l : Nat × Nat => (⟨0, .tok ones, 1, 1, 0, some l⟩ : Packet)
     destOf s (at_ (0, 199)) = 0 ∧ (0, (199 + 1) % 200) = (0, 0) ∧ (0, (5 + 1) % 200) ≠ (0, 0) ∧ (1, (191 + 1) % 200) = (1, 192 + 0) ∧
       ∀ o ∈ s.wire, o.ahead (fun _ => true) ≠ some (0, 192 + 1)) := by
  decide +kernel

/-! ### The matrix node -/

/-- A plane with these entries in its control queue. -/
def planed (l : List MxIn) (em : Option Emit) : State :=
  world.setCove 0 { world.cove 0 with planes := [(0, { Plane.empty with ctl := l, em := em })] }
def emitOf (pos : Nat) : Emit := ⟨[], false, 7, false, pos⟩
def fullBuf (b : Nat) : MBuf := ⟨[⟨List.replicate (if b < 8 then 64 else 256) ones, false⟩], false⟩

/-- ZERO, LOADC and STEP with their buffers full, EMIT, POISON, EOT, the first and the last token of an emission, and a turn that serves nothing. -/
theorem meets_MatrixEventsHappen :
    (∀ w ∈ [(1 : BitVec 64), 2, 4, 0x78], let s := planed [.cmd w false false] none
      planeRuns s 0 0 = true ∧ (s.plane 0 0).ctl = .cmd w false false :: [] ∧ mxTurn s 0 0 = true) ∧
    (0x78 : BitVec 64) = BitVec.ofNat 64 (8 + 16 * (7 : BitVec 3).toNat) ∧
    (let pl := { Plane.empty with bufs := (List.range 14).map fun b => (b, fullBuf b) }
     (fullTiles pl 0 [0, 1, 2, 3]).isSome = true ∧ (fullTiles pl 0 [4, 5, 6, 7]).isSome = true ∧ (fullTiles pl 0 [8, 9, 10, 11]).isSome = true ∧ Tab.rising pl.c = true) ∧
    (∀ t ∈ [poisonTok, eotTok, bare 1, bare 4, bare 5], let s := planed [.tok t] none
      planeRuns s 0 0 = true ∧ (∀ b < 14, feedsBuf s 0 0 b = false) ∧ (s.plane 0 0).ctl = .tok t :: [] ∧ (s.plane 0 0).em = none ∧ mxRoom s 0 0 = true) ∧
    (∀ k ∈ [0, 512, 513], let s := planed [] (some (emitOf k))
      planeRuns s 0 0 = true ∧ (s.plane 0 0).em = some (emitOf k) ∧ (emitTok (emitOf k)).isSome = true ∧ mxRoom s 0 0 = true) ∧
    (let s := State.reset.setCove 0 { State.reset.cove 0 with mslot := [(0, ⟨0, false, 255⟩)] }
     mxEntry (s.cove 0) = some ⟨0, false, 255⟩ ∧ mxBusy s 0 0 = false ∧ mxBusy s 0 1 = false ∧ mxServes s 0 ⟨0, false, 255⟩ = false) := by
  refine ⟨?_, by decide +kernel, by decide +kernel, by decide +kernel, by decide +kernel, by decide +kernel⟩
  intro w h
  simp only [List.mem_cons, List.not_mem_nil, or_false] at h
  rcases h with rfl | rfl | rfl | rfl <;> decide +kernel

/-- A ZERO command clears its plane's poison mark. -/
theorem test_matrix_zero :
    let s := world.setCove 0 { world.cove 0 with planes := [(0, { Plane.empty with ctl := [.cmd 1 false false], pm := true })] }
    ((after (.matrixCommandPerform 0 0) s).plane 0 0).pm = false := by decide +kernel

end Sys2Proof.Tests
end

