-- ==== Sys2Proof/Tests/WitWorld.lean ====
section
/-!
SUPPORT. Witnesses of the statements about memory replies, units, unmasking steps, tasks, regulators and faults.
-/
namespace Sys2Proof.Tests
set_option Elab.async false
open Sys2Proof Sys2Proof.Machine

/-! ### Accesses and units -/

/-- Cell 0 with a node with flag V in its chain, and this record in arrival. -/
def waving (r : WaveRec) : State :=
  world.setCell 0 { world.cell 0 with imgs := [(0, ⟨[0x8000208000FF0FF0200FF00010000000], [], [], 0, []⟩)], wRecs := [r] }

/-- An access to the first bytes of the shore. -/
def accOf (ag : Agent) (n : Nat) (k : AccKind) : Acc := ⟨5, ag, 3, shoreVa, n, k, [(⟨.shore, 0⟩, n)], none, true, 0⟩

/-- The same chain serialised; its record's access translated or not. -/
def waveOf (err : Bool) (segs : List (PA × Nat)) : State :=
  let s := waving ⟨0, 0, 1, 63, some 5, 0⟩
  { s.setCell 0 { s.cell 0 with wErr := err } with accs := [{ accOf (.node 0) 2 (.rd 2) with segs := segs, issued := false }] }

/-- A copy queue whose firing has issued its 64 bytes, the write of the last piece in flight. -/
def copyLast (k : AccKind) : State :=
  { world.setCq 0 63 { CopyQ.empty with tmpl := some ⟨shoreVa, shoreVa, 64, 0, 0, none, false, false, 0, 0, 3⟩, cur := some 64 } with
    accs := [accOf (.copy 0 63) 2 k] }

/-- The world with port 0 bound for reading, its elements in flight these, and a gather at job 0, delivering in order or not; access 5 is read. -/
def reading (ag : Agent) (job : Option Nat) (comm : Bool) (rob : List RobE) : State :=
  { world.setPort 0 0 { Port.empty with bind := some { affBind false true none (affBlock 0x4000000000000000) with job := job, rob := rob } } with
    jobs := [(0, ⟨0, 0, 3, 0, false, shoreVa, shoreVa, shoreVa, 1, 0, 16, 2, 4, false, comm, 0, 0, 0, some 1, 0, 0, [], none, none, false, false⟩)]
    accs := [accOf ag 2 (.rd 2)] }

/-- Access 5, a copy's piece from a slice that residency 9 fences, its record written or not. -/
def fencedCopy (told : Bool) : State :=
  { world with
    accs := [accOf (.copy 0 63) 2 (.copy [(⟨.shore, 64⟩, 2)] 2)], fences := [(0, 9)], told := if told then [(3, 9)] else [] }

/-- An acceptable record, with no access, one that is translated and one that is not, a chain with none, one that is serialised, and one that has accepted
in this clock; a write of a port, a context, a scatter, a copy queue's piece and its end, each operation of an ATOM, DIRTY, a read of a node, of a port and of
a gather whose element is the first and is not, and a read for a copy that can be performed, of one segment, of two, and of a fenced slice. -/
theorem meets_MemoryRepliesHappen :
    (∀ r ∈ [WaveRec.mk 0 0 1 63 none 0, WaveRec.mk 0 5 6 7 none 0], let s := waving r
      ridOfCell s 0 = some 3 ∧ running s 3 = true ∧ (s.cell 0).wErr = false ∧ chainSelfs s 0 ≠ [] ∧
        (∀ e ∈ chainSelfs s 0, ∃ q ∈ waveHeads [] (s.cell 0).wRecs, q.node = e.1) ∧
        (r.pred = 0 → lowestSelf ((waveHeads [] (s.cell 0).wRecs).filter (tripletOk (s.cell 0))) = some r ∧ recReady s r = true) ∧
        (r.pred = 5 → ∀ q ∈ waveHeads [] (s.cell 0).wRecs, tripletOk (s.cell 0) q = false)) ∧
    (∀ e ∈ [([], false), ([(⟨.shore, 0⟩, 2)], true)], let s := waveOf false e.1
      lowestSelf ((waveHeads [] (s.cell 0).wRecs).filter (tripletOk (s.cell 0))) = some ⟨0, 0, 1, 63, some 5, 0⟩ ∧
        recReady s ⟨0, 0, 1, 63, some 5, 0⟩ = e.2) ∧
    (let s := waveOf true [(⟨.shore, 0⟩, 2)]
     ridOfCell s 0 = some 3 ∧ running s 3 = true ∧ (s.cell 0).wErr = true ∧ (s.cell 0).wRecs = ⟨0, 0, 1, 63, some 5, 0⟩ :: [] ∧
       recReady s ⟨0, 0, 1, 63, some 5, 0⟩ = true ∧ ∀ a ∈ s.accs, a.wave = none) ∧
    (let s := world.setCell 0 { world.cell 0 with wAt := some 0 }
     ridOfCell s 0 = some 3 ∧ (s.cell 0).wAt = some (dieClock s (dieOf (cvOfCe 0))) ∧ (world.cell 0).wAt ≠ some (dieClock world 0)) ∧
    (let wr := AccKind.wr ([7, 8].zipIdx.map fun e => (e.2, e.1))
     ∀ e ∈ [(Agent.port 0 0, wr), (.ctx 0, wr), (.job 0, wr), (.copy 0 63, .cput [7, 8] false false), (.copy 0 63, .cput [7, 8] false true),
        (.node 0, .rd 2), (.copy 0 63, .copy [(⟨.shore, 64⟩, 2)] 2), (.copy 0 63, .copy [(⟨.shore, 65⟩, 1), (⟨.shore, 64⟩, 1)] 2), (.node 0, .dirty 15 true),
        (.node 0, .dirty 0 false)] ++ (List.range 9).map (fun o => (.node 0, .rmw o 1 5 6)),
      let a := accOf e.1 2 e.2
      let s := { world with accs := [a], jobs := [(0, { Job.mk 0 0 3 0 true 0 0 0 1 0 2 1 1 false false 0 0 0 none 0 0 [] none none false false with rid := 3 })] }
      s.accs.find? (fun b => b.id == a.id) = some a ∧ canPerform s a = true ∧ fencedBy s a.rid a.segs = none ∧ a.segs = [(⟨.shore, 0⟩, a.len)] ∧
        s.hbm.wf = true ∧ s.hostMem.wf = true ∧ s.shore.wf = true ∧ ([7, 8] : List Byte).length = a.len ∧
        (∀ i < 2, psnAt s ⟨.shore, 0 + i⟩ = false ∧ psnAt s ⟨.shore, 64 + i⟩ = false) ∧
        ∀ src ∈ [((⟨.shore, 64⟩, 2) : PA × Nat), (⟨.shore, 65⟩, 1), (⟨.shore, 64⟩, 1)], fencedBy s a.rid [src] = none) ∧
    (∀ e ∈ [(Agent.port 0 0, none, false), (.job 0, some 0, false), (.job 0, some 0, true)],
      ∀ l ∈ [[RobE.mk (some 5) none (some eotTok), ⟨some 6, none, none⟩], [⟨some 4, none, none⟩, ⟨some 5, none, some eotTok⟩, ⟨some 6, none, none⟩]],
      let s := reading e.1 e.2.1 e.2.2 l
      let a := accOf e.1 2 (.rd 2)
      s.accs.find? (fun b => b.id == a.id) = some a ∧ canPerform s a = true ∧ fencedBy s a.rid a.segs = none ∧
        ∃ b, (s.port 0 0).bind = some b ∧ b.job = e.2.1 ∧ b.rob = l ∧ (∀ x ∈ l, x.behind = none → x.acc ≠ some 5) ∧ (∀ x ∈ l, x.tok = none) ∧
          ∃ d, s.job 0 = some d ∧ d.scat = false ∧ d.comm = e.2.2 ∧ d.cv = 0 ∧ d.port = 0) ∧
    (∀ told, let s := fencedCopy told
      let a := accOf (.copy 0 63) 2 (.copy [(⟨.shore, 64⟩, 2)] 2)
      s.accs.find? (fun b => b.id == a.id) = some a ∧ canPerform s a = true ∧ fencedBy s a.rid [(⟨.shore, 64⟩, 2)] = some 9 ∧
        (told = true → (a.rid, 9) ∈ s.told)) ∧
    (let s := copyLast (.cput [7, 8] false true)
     canPerform s (accOf (.copy 0 63) 2 (.cput [7, 8] false true)) = true ∧
       (s.cq 0 63).tmpl = some ⟨shoreVa, shoreVa, 64, 0, 0, none, false, false, 0, 0, 3⟩ ∧ (s.cq 0 63).cur = some 64 ∧ 64 ≤ 64 ∧
       ∀ b ∈ s.accs, b.ag = .copy 0 63 → b.id = 5) := by
  refine ⟨by decide +kernel, by decide +kernel, by decide +kernel, by decide +kernel, by decide +kernel, ?_, by decide +kernel, by decide +kernel⟩
  intro e he l hl
  simp only [List.mem_cons, List.not_mem_nil, or_false] at he hl
  rcases he with rfl | rfl | rfl <;> rcases hl with rfl | rfl <;>
    exact ⟨rfl, by decide +kernel, by decide +kernel, _, rfl, rfl, rfl, by decide, by decide, _, rfl, rfl, rfl, rfl, rfl⟩

/-- A job of engine 0 for port 0: a gather or a scatter of one element, its arrays at the start of the shore. -/
def jobOf (scat : Bool) (lim : Option Nat) : Job :=
  ⟨0, 0, 3, 0, scat, shoreVa, shoreVa, shoreVa, 1, 0, 16, 2, 4, false, false, 0, 0, 0, lim, 0, 0, [], none, none, false, false⟩
def withJob (d : Job) (b : Bind) (op : BitVec 8) : State :=
  { (withNode world (portWord op 2)).setCell 0 { (withNode world (portWord op 2)).cell 0 with queues := [(0, queueOf 0 [ones])] } with
    jobs := [(0, d)] }.setPort 0 0 { Port.empty with bind := some b }

/-- A copy queue with this firing, armed for 64 bytes within the shore. -/
def copying (cur : Option Nat) : CopyQ :=
  { CopyQ.empty with toks := [bare 2], cur := cur, tmpl := some ⟨shoreVa, 0x4000000000000100, 64, 0, 0, none, false, false, 0, 0, 3⟩ }

/-- The state in which the units that an arbitration has chosen go on. -/
def portOn (s : State) : State := s.setCove 0 { s.cove 0 with parb := (portTurn s 0).1 }
def jobOn (s : State) : State := { s with earb := Tab.insert s.earb 0 (jobTurn s 0).1 }
def copyOn (s : State) : State := s.setCove 0 { s.cove 0 with qarb := (copyTurn s 0).1 }

/-- Copy queue 63 at its first piece, with 32 reads of the shore in flight. -/
def copyFull : State :=
  { world.setCq 0 63 (copying (some 0)) with
    accs := (List.range 32).map fun k => { accOf (.copy 0 63) 8 (.copy [(⟨.shore, 0⟩, 8)] 8) with id := k } }

/-- Copy queue 63 at a first piece whose source crosses from one page to another, which are mapped, or of which the second may not be read. -/
def copyAcross (l : List TEnt) : State :=
  { paged.setCq 0 63 { copying (some 0) with tmpl := some ⟨0x1FFFC, 0x4000000000000100, 64, 0, 0, none, false, false, 0, 0, 3⟩ } with tlb := [(0, l)] }
def twoPages (r : Bool) : List TEnt := [⟨0x10000, 1, 0, 0x50000, false, true, true⟩, ⟨0x10000, 2, 0, 0x90000, false, r, true⟩]

/-- A walk of port 0 for the first page of the mapped GiB, and as many before it for other pages. -/
def walk0 (n : Nat) : State :=
  { paged with walks := ((List.range n).map fun k => ⟨0, 0x10000, BitVec.ofNat 64 (65536 * (k + 1)), true, false, .copy 0 k, none⟩)
      ++ [⟨64, 0x10000, 0x1000, true, false, .port 0 0, none⟩] }

/-- A read port and a write port at a shore element; a gather at its segment and at its element, a scatter; a copy queue's token and its piece, one that
may go on and one of 32, one whose source crosses to a page that may be read and to one that may not; a walk that runs, alone in its page, one that waits behind 32, and one of a residency that is being parked. -/
theorem meets_UnitEventsHappen :
    (∀ read, let b := affBind false read none (affBlock 0x4000000000000000)
     let s := withJob (jobOf false none) b (if read then 0x83 else 0x84)
     (s.port 0 0).bind = some b ∧ ridOfUnit s 0 0 16 = some 3 ∧ (portTurn s 0).2 = some 0 ∧
      ∃ s1 segs, tryXl (portOn s) (rtOf s 3 false) 64 (elemAddr b) b.size b.read (!b.read) = (s1, .ok segs)) ∧
    (∀ lim ∈ [none, some 1], let d := jobOf false lim
     let s := withJob d (affBind false true none (affBlock 0x4000000000000000)) 0x85
     s.job 0 = some d ∧ (jobTurn s d.eng).2 = some 0 ∧
      ∃ s1, jobRead (jobOn s) 0 d (jobWord d).1 (jobWord d).2 = (s1, .ok 0 false) ∧
        ∃ s2 segs, tryXl s1 (rtOf s1 3 false) d.unit (d.base + BitVec.ofNat 64 (0 * d.scale)) d.size true false = (s2, .ok segs)) ∧
    (let d := jobOf true (some 1)
     let b := affBind false false none (affBlock 0x4000000000000000)
     let s := withJob d b 0x86
     s.job 0 = some d ∧ (jobTurn s d.eng).2 = some 0 ∧
      ∃ s1, jobRead (jobOn s) 0 d (jobWord d).1 (jobWord d).2 = (s1, .ok 0 false) ∧
        ∃ s2 segs, tryXl s1 (rtOf s1 3 false) d.unit (d.base + BitVec.ofNat 64 (0 * d.scale)) d.size d.needs.1 d.needs.2 = (s2, .ok segs)) ∧
    (∀ cur ∈ [none, some 0, some 63], let s := world.setCq 0 63 (copying cur)
     let c := s.cq 0 63
     ∃ m, c.tmpl = some m ∧ (copyTurn s 0).2 = some 63 ∧ c.cur = cur ∧ c.toks = [bare 2] ∧
      ∀ off, cur = some off → ∃ s1 src, tryXl (copyOn s) (rtOf s m.rid false) 0 (copyAddr c m off).1
        (sideLen m (copyAddr c m off) off false) true false = (s1, .ok [src]) ∧
        sideLen m (copyAddr c m off) off false = pieceLen m (copyAddr c m off).2 off ∧ ∃ s2 dst, tryXl s1 (rtOf s1 m.rid false) 0
          (copyAddr c m off).2 (pieceLen m (copyAddr c m off).2 off) false true = (s2, .ok dst) ∧ shoreFull s2 0 63 = false) ∧
    (let c := copyFull.cq 0 63
     ∃ m, c.tmpl = some m ∧ (copyTurn copyFull 0).2 = some 63 ∧ c.cur = some 0 ∧
      ∃ s1 src, tryXl (copyOn copyFull) (rtOf copyFull m.rid false) 0 (copyAddr c m 0).1
        (sideLen m (copyAddr c m 0) 0 false) true false = (s1, .ok [src]) ∧ src.1.sp = .shore ∧ ∃ s2 dst, tryXl s1 (rtOf s1 m.rid false) 0
          (copyAddr c m 0).2 (pieceLen m (copyAddr c m 0).2 0) false true = (s2, .ok dst) ∧ shoreFull s2 0 63 = true) ∧
    (∀ r, let s := copyAcross (twoPages r)
     let c := s.cq 0 63
     ∃ m, c.tmpl = some m ∧ (copyTurn s 0).2 = some 63 ∧ c.cur = some 0 ∧
      let a := copyAddr c m 0
      pieceLen m a.2 0 = 8 ∧ headLen a.1 8 = 4 ∧ ∃ s1 src, tryXl (copyOn s) (rtOf s m.rid false) 0 a.1 4 true false = (s1, .ok [src]) ∧ src.1.sp ≠ .shore ∧
        ∃ u x, tryXl s1 (rtOf s1 m.rid false) 0 (a.1 + BitVec.ofNat 64 4) 4 true false = (u, x) ∧
          (r = true → ∃ more, x = .ok [more] ∧ more.1.sp ≠ .shore) ∧ (r = false → ∃ e, x = .err e) ∧
          ∃ s2 dst, tryXl u (rtOf u m.rid false) 0 a.2 (if r then 8 else 4) false true = (s2, .ok dst)) ∧
    (let s := walk0 0
     let w : Walk := ⟨64, 0x10000, 0x1000, true, false, .port 0 0, none⟩
     s.walks[0]? = some w ∧ walkRuns s w = true ∧ walkStops s w = false ∧ s.walks.filter (fun v => decide (v.page = w.page)) = [w] ∧
       tlbFind (Tab.get [] s.tlb w.unit) w.root w.va.toNat = none ∧ walk s w.root w.va.toNat w.needR w.needW = .ok gib) ∧
    (let s := walk0 32
     let w : Walk := ⟨64, 0x10000, 0x1000, true, false, .port 0 0, none⟩
     s.walks[32]? = some w ∧ walkRuns s w = false) ∧
    (let s := { walk0 0 with res := [(3, { resOf cove0 with parking := true })] }
     let w : Walk := ⟨64, 0x10000, 0x1000, true, false, .port 0 0, none⟩
     s.walks[0]? = some w ∧ walkRuns s w = true ∧ s.walks = [w] ∧ ridOfAgent s w.ag = some 3) := by
  refine ⟨?_, ?_, ⟨rfl, by decide +kernel, _, pair_of (x := JobRd.ok 0 false) (by decide +kernel), _, _,
      pair_of (x := Xl.ok [(⟨.shore, 0⟩, 16)]) (by decide +kernel)⟩, ?_,
    ⟨_, rfl, by decide +kernel, rfl, _, _, pair_of (x := Xl.ok [(⟨.shore, 0⟩, 8)]) (by decide +kernel), rfl, _, _,
      pair_of (x := Xl.ok [(⟨.shore, 256⟩, 8)]) (by decide +kernel), by decide +kernel⟩, ?_,
    ⟨rfl, by decide +kernel, by decide +kernel, by decide +kernel, by decide +kernel, eq_ok (by decide +kernel)⟩, ⟨rfl, by decide +kernel⟩,
    rfl, by decide +kernel, rfl, by decide +kernel⟩
  · intro read
    cases read <;> exact ⟨rfl, by decide +kernel, by decide +kernel, _, _, pair_of (x := Xl.ok [(⟨.shore, 0⟩, 16)]) (by decide +kernel)⟩
  · intro lim h
    simp only [List.mem_cons, List.not_mem_nil, or_false] at h
    rcases h with rfl | rfl <;> exact ⟨rfl, by decide +kernel, _, pair_of (x := JobRd.ok 0 false) (by decide +kernel), _, _,
      pair_of (x := Xl.ok [(⟨.shore, 0⟩, 16)]) (by decide +kernel)⟩
  · intro cur h
    simp only [List.mem_cons, List.not_mem_nil, or_false] at h
    rcases h with rfl | rfl | rfl <;> refine ⟨_, rfl, by decide +kernel, rfl, rfl, ?_⟩ <;> intro off h <;> cases h
    · exact ⟨_, _, pair_of (x := Xl.ok [(⟨.shore, 0⟩, 8)]) (by decide +kernel), by decide +kernel, _, _, pair_of (x := Xl.ok [(⟨.shore, 256⟩, 8)]) (by decide +kernel),
        by decide +kernel⟩
    · exact ⟨_, _, pair_of (x := Xl.ok [(⟨.shore, 63⟩, 1)]) (by decide +kernel), by decide +kernel, _, _,
        pair_of (x := Xl.ok [(⟨.shore, 319⟩, 1)]) (by decide +kernel), by decide +kernel⟩
  · intro r
    cases r
    · exact ⟨_, rfl, by decide +kernel, rfl, by decide +kernel, by decide +kernel, _, _, pair_of (x := Xl.ok [(⟨.hbm, 0x5FFFC⟩, 4)]) (by decide +kernel),
        by decide, _, _, pair_of (x := Xl.err ⟨0x41, 0⟩) (by decide +kernel), by simp, fun _ => ⟨_, rfl⟩, _, _,
        pair_of (x := Xl.ok [(⟨.shore, 256⟩, 4)]) (by decide +kernel)⟩
    · exact ⟨_, rfl, by decide +kernel, rfl, by decide +kernel, by decide +kernel, _, _, pair_of (x := Xl.ok [(⟨.hbm, 0x5FFFC⟩, 4)]) (by decide +kernel),
        by decide, _, _, pair_of (x := Xl.ok [(⟨.hbm, 0x90000⟩, 4)]) (by decide +kernel), fun _ => ⟨_, rfl, by decide⟩, by simp, _, _,
        pair_of (x := Xl.ok [(⟨.shore, 256⟩, 8)]) (by decide +kernel)⟩

/-- An arbitration of units 3, 5 and 9 of which 5 is ahead, of three that tie, of none, and one that has chosen in this clock. -/
theorem meets_UnitsArbitrate :
    [3, 5, 9].Nodup ∧ (∀ c ∈ [([] : Tab Int), [(5, 1)], [(3, -32768), (5, 32767)]], Tab.rising c = true) ∧
    (let g := fun v => sat16 (Tab.get 0 ([(5, 1)] : Tab Int) v + 16)
     [3, 5, 9] = [3] ++ 5 :: [9] ∧ (∀ v ∈ [3], g v < g 5) ∧ ∀ v ∈ [9], g v ≤ g 5) ∧
    (let g := fun v => sat16 (Tab.get 0 ([] : Tab Int) v + 16)
     [3, 5, 9] = [] ++ 3 :: [5, 9] ∧ ∀ v ∈ [5, 9], g v ≤ g 3) ∧
    (Arb.mk [] (some 7)).last = some 7 ∧ (Arb.mk [] none).last ≠ some 7 := by
  decide +kernel

/-! ### Unmasking -/

/-- Round 63 of engine 3 over 64 positions in the shore, and one step of it. -/
def round8 : Round := { roundOf 3 0 roundBlock with npos := 64, maskp := shoreVa, dirtyp := 0x4000000000000100, stalep := 0x4000000000000200 }
def stepOf (begun full ranked : Bool) (todo : List UmxAcc) : UmxStep := ⟨3, 63, 0, [], full, false, begun, ranked, List.replicate 8 0, [], 0, todo, 0⟩
def unmasking (st : UmxStep) : State := { world with umx := [(3, ⟨[(63, round8)], [st], none⟩)] }

/-- A step with a candidate at position 64, which is beyond the last; the round with barrier 63 of cove 0. -/
def farStep : UmxStep := { stepOf true true false [] with cands := [⟨0, 64, 1⟩] }
def barred (st : UmxStep) : State := { world with umx := [(3, ⟨[(63, { round8 with bar := some 63, barcove := 0, stale := 2 })], [st], none⟩)] }
def staleAcc : UmxAcc := .stale 0x4000000000000200 [(0, true), (7, false)]

/-- A step that has not begun, one that is full and not ranked, one whose candidate is out of range, one with a mask, one
with a dirty and one with a staleness access left, and one that is done. -/
theorem meets_UnmaskingStepsHappen :
    (∀ st ∈ [stepOf false false false [], stepOf true true false [], stepOf true true true [], stepOf true true true [.mask shoreVa 0],
        stepOf true true true [.dirty 0x4000000000000100 1]],
      let s := unmasking st
      (s.umxAt 3).steps = st :: [] ∧ (s.umxAt 3).frozen = none ∧ running s st.rid = true ∧
        walking s (.umx 3) = false ∧ walking { s with walks := [⟨0, 0, 0, true, true, .umx 3, none⟩] } (.umx 3) = true ∧ st.psn = false ∧ posOver (s.round 3 63) st.cands = false ∧ s.hbm.wf = true ∧ s.hostMem.wf = true ∧ s.shore.wf = true) ∧
    (let s := unmasking (stepOf false false false [])
     let r := s.round 3 63
     ∃ t segs, tryXl s { rtOf s r.rid false with root := r.root } (3 / 64) r.maskp (8 * ((r.npos + 63) / 64)) true false = (t, .ok segs)) ∧
    posOver ((unmasking farStep).round 3 63) farStep.cands = true ∧ Tab.rising ((barred farStep).cove (256 * (3 / 64) + 0)).bars = true ∧
    (([(0, true), (7, false)] : List (Nat × Bool)).map (·.1)).Nodup ∧
    (∀ a ∈ [UmxAcc.mask shoreVa 0, .dirty 0x4000000000000100 1, staleAcc], let s := barred (stepOf true true true [a])
     let r := s.round 3 63
     ∃ t pa, tryXl s { rtOf s r.rid false with root := r.root } (3 / 64) a.va a.len true true = (t, .ok [(pa, a.len)]) ∧
      (∀ k < a.len, psnAt s ⟨pa.sp, pa.adr + k⟩ = false) ∧ pa.sp = .shore) := by
  refine ⟨by decide +kernel, ⟨_, _, pair_of (x := Xl.ok [(⟨.shore, 0⟩, 8)]) (by decide +kernel)⟩, by decide +kernel, by decide +kernel, by decide, ?_⟩
  intro a h
  simp only [List.mem_cons, List.not_mem_nil, or_false] at h
  rcases h with rfl | rfl | rfl
  · exact ⟨_, _, pair_of (x := Xl.ok [(⟨.shore, 0⟩, 8)]) (by decide +kernel), by decide +kernel, rfl⟩
  · exact ⟨_, _, pair_of (x := Xl.ok [(⟨.shore, 256⟩, 2)]) (by decide +kernel), by decide +kernel, rfl⟩
  · exact ⟨_, _, pair_of (x := Xl.ok [(⟨.shore, 512⟩, 8)]) (by decide +kernel), by decide +kernel, rfl⟩

end Sys2Proof.Tests
end

