-- ==== Sys2Proof/Tests/WitDevice.lean ====
section
/-!
SUPPORT. Witnesses of the statements about tasks, regulators, faults, power, errors, the host, registers and the machine as a whole.
-/
namespace Sys2Proof.Tests
set_option Elab.async false
open Sys2Proof Sys2Proof.Machine

/-! ### Tasks -/

/-- The device is ready, queue 0 is enabled, page 0 maps the first GiB above 2^30, where a launch record of type 5, level 0 stands, with the type's
entry and its image. -/
def launchBytes : List Byte := [5, 0, 0, 1] ++ List.replicate 124 0
def entBytes : List Byte :=
  leBytes 0x2000 8 ++ leBytes 0x4000 8 ++ leBytes 0 8 ++ leBytes 1000 6 ++ leBytes 7 2 ++ [1, 1, 0, 0] ++ leBytes 1 2 ++ leBytes 16 2 ++ leBytes 1 4
    ++ leBytes 4096 4 ++ [1, 1, 0, 0] ++ leBytes 0 4 ++ leBytes 0 8 ++ List.replicate 32 0 ++ List.replicate 32 0
def readied : State :=
  { State.reset with
    host := { State.reset.host with boot := 5, ttbase := 0x20000, qdesc := [(0, 8)] }
    tlb := [(0, [⟨0, 0, 2, 2 ^ 30, false, true, true⟩])]
    hbm := memOf (0x20000 + 128 * 5) entBytes ++ memOf 0x40000000 launchBytes ++ memOf 0x40002000 image }
def record5 : TaskRec := ⟨BitVec.ofNat 128 (5 * 2 ^ 112), ⟨1, List.replicate 24 1, 0, 0, 0⟩, none⟩
def queued : State := { readied with tasks := { readied.tasks with queues := [(0, [record5])], headAt := [(0, 0)], candAt := [(0, 0)] }, clock := 2 ^ 20 }

/-- With nothing placed every name is free. -/
theorem freeRid_some (s : State) (h1 : s.res = []) (h2 : s.parked = []) : ∃ rid, freeRid s = some rid := by
  have ha : Config.freeVictim s.free % 8192 < 8192 := Nat.mod_lt _ (by decide)
  cases h : freeRid s with
  | some r => exact ⟨r, rfl⟩
  | none =>
    simp only [freeRid, List.find?_eq_none] at h
    have := h (Config.freeVictim s.free % 8192) (by
      obtain ⟨k, hk⟩ : ∃ k, 8192 - Config.freeVictim s.free % 8192 = k + 1 := ⟨_, (Nat.succ_pred_eq_of_pos (by omega)).symm⟩
      simp [hk, span])
    simp [h1, h2] at this

/-- The state in which the dispatch places the task. -/
def aged : State := ageAll (releaseHeld queued.tasks.held { queued with tasks := { queued.tasks with lastDec := some queued.clock } })
def popped : State :=
  let g := popTask aged 0
  { g with tasks := { g.tasks with rr := Tab.insert g.tasks.rr (effPrio aged 0) 0 } }

/-- The image that it loads. -/
def loaded : State × Except Nat Loaded :=
  taskImage { popped with free := popped.free + 1 } ⟨(freeRid popped).getD 0, some cove0, [], record5.root.getD (qRoot aged 0), false⟩
    (nth 0 cove0.dies 0) cove0 (readEnt aged (bitsOf record5.bits.toNat 112 12)).2
theorem loaded_ok : (okOf loaded.2).isSome = true := by decide +kernel

/-- A launch at an address that does not translate and at one that does; a head due to age, a candidate due to block; a decision with no queue, one
whose first head is dispatched, one that passes a head without a type, and one that passes a head without its permits; a launch that waits. -/
theorem meets_TaskDispatchHappens :
    (∃ t e, resolve { State.reset with tasks := { State.reset.tasks with lastPort := some 0 } } ⟨0, none, [], qRoot State.reset 255, false⟩ 0
      (0 : Word) 128 true false = (t, .error e)) ∧
    (let u := { readied with tasks := { readied.tasks with lastPort := some 0 } }
     ∃ s1 segs, resolve u ⟨0, none, [], qRoot readied 0, false⟩ 0 (0 : Word) 128 true false = (s1, .ok segs) ∧ (∀ e ∈ segs, e.1.sp = .hbm) ∧
      ∃ s2 b, rdSegs s1 segs = (s2, b, false) ∧ launchOk b = true ∧ queueLen readied 0 < 1024) ∧
    (Tab.get [] queued.tasks.queues 0 ≠ [] ∧ Tab.get 0 queued.tasks.aged 0 < ageSteps queued 0) ∧
    (has (taskCands queued) 0 = true ∧ Tab.find? queued.tasks.candAt 0 = some 0 ∧ 0 + 2 ^ 20 ≤ queued.clock) ∧
    (readied.host.boot = 5 ∧ readied.tasks.lastDec = none ∧
      decisionOrder (ageAll (releaseHeld readied.tasks.held { readied with tasks := { readied.tasks with lastDec := some readied.clock } })) = []) ∧
    (({ readied with tasks := { readied.tasks with lastPort := some 0 } } : State).clock < 0 + 8 ∧ readied.tasks.portq = []) ∧
    (let d := { aged with hbm := [] }
     Passes [0] d (refuse (popTask d 0) 0x0119 (record5.bits.extractLsb' 64 64))) ∧
    (let d := { aged with res := [(3, { resOf cove0 with permits := 13500 })] }
     Passes [0] d d) ∧
    (queued.host.boot = 5 ∧ decisionOrder aged = [] ++ 0 :: [] ∧ Passes [] aged aged ∧ Tab.get [] aged.tasks.queues 0 = record5 :: [] ∧ Tab.rising aged.tasks.queues = true ∧
      ∃ d1 e r, readEnt aged (bitsOf record5.bits.toNat 112 12) = (d1, e) ∧ entryCode d1.host.pool e = none ∧ e.permits ≤ freePermits d1 ∧
        place d1 e = some r ∧ ∃ rid, freeRid popped = some rid ∧ ∃ d2 l, taskImage { popped with free := popped.free + 1 }
          ⟨rid, some r, [], record5.root.getD (qRoot aged 0), false⟩ (nth 0 r.dies 0) r e = (d2, .ok l)) := by
  refine ⟨⟨_, ⟨0x40, 0⟩, pair_of (eq_error (by decide +kernel))⟩,
    ⟨_, _, pair_ok (x := [(⟨.hbm, 2 ^ 30⟩, 128)]) (by decide +kernel), by decide, _, _, rfl, by decide +kernel, by decide +kernel⟩,
    by decide +kernel, by decide +kernel, by decide +kernel, by decide +kernel,
    ⟨_, ⟨record5, [], by decide +kernel, Or.inl ⟨0x119, by decide +kernel, rfl⟩⟩, rfl⟩,
    ⟨_, ⟨record5, [], by decide +kernel, Or.inr ⟨by decide +kernel, Or.inl (by decide +kernel), rfl⟩⟩, rfl⟩,
    ⟨rfl, by decide +kernel, rfl, by decide +kernel, by decide +kernel, _, _, cove0, rfl, by decide +kernel, by decide +kernel, by decide +kernel, ?_⟩⟩
  obtain ⟨rid, h⟩ := freeRid_some popped rfl rfl
  obtain ⟨l, k⟩ := Option.isSome_iff_exists.1 loaded_ok
  have e : (freeRid popped).getD 0 = rid := by simp [h]
  refine ⟨rid, h, loaded.1, l, ?_⟩
  rw [← e]
  exact pair_ok k

/-- A residency that has no active context and none that runs, with a port bound and with an access to perform; its last turn, with a dependence counter;
its watchdog. -/
def retiring (s : State) : State :=
  { s with res := [(3, { resOf cove0 with active := none, ent := { ent0 with dec := true, donectr := 4095, cycles := 65536 } })] }
theorem meets_TasksEnd :
    (∀ s ∈ [retiring State.reset, retiring (State.reset.setPort 0 15 (unbinding true true)), retiring { State.reset with accs := [store0] }],
      ∀ r, Tab.find? s.res 3 = some r → mayRetire s 3 r = true) ∧
    boundPorts (retiring (State.reset.setPort 0 15 (unbinding true true))) cove0 ≠ [] ∧
    (let s := retiring { State.reset with accs := [store0] }
     boundPorts s cove0 = [] ∧ workLeft (clearCopies s cove0) 3 = true) ∧
    (let s := retiring State.reset
     boundPorts s cove0 = [] ∧ workLeft (clearCopies s cove0) 3 = false ∧ Tab.rising s.res = true ∧ Tab.rising s.tasks.dep = true) ∧
    (let s := retiring { State.reset with clock := 65536 }
     ∃ r, Tab.find? s.res 3 = some r ∧ r.wdFired = false ∧ r.ent.cycles ≤ taskClocks s r) := by
  refine ⟨?_, by decide +kernel, by decide +kernel, by decide +kernel, ⟨_, rfl, rfl, by decide +kernel⟩⟩
  intro s h r hr
  simp only [List.mem_cons, List.not_mem_nil, or_false] at h
  rcases h with rfl | rfl | rfl <;> cases hr <;> decide +kernel

/-- The completion counter rises with the retirement. -/
theorem test_task_retire : (after (.taskRetire 3) (retiring State.reset)).host.compl = 1 ∧ (after (.taskRetire 3) (retiring State.reset)).res = [] := by
  decide +kernel

/-! ### Regulators, faults, power, errors -/

/-- The end of the period of a channel between two nodes, with no COUPLE to take effect and with one, and of a permit window. -/
theorem meets_RegulatorAndPermitsFollowTheirRules :
    (let s := { tuned with clock := 16 }
     ∃ r, Tab.find? s.res 3 = some r ∧ r.coups[0]? = some coup0 ∧ coup0.nxt = none ∧ coup0.start + 2 ^ coup0.par.q ≤ dieClock s (dieOf (cvOfNode coup0.prod)) ∧
      (∀ d ∈ r.coups.take 0, periodOver s d = false) ∧ coup0.prod ≠ coup0.cons) ∧
    (let c := { coup0 with nxt := some ⟨1, 0, some 3, 4, 9, 200, 0⟩ }
     let s := { tuned with clock := 16, res := [(3, { resOf cove0 with coups := [c], permits := 9 })] }
     ∃ r, Tab.find? s.res 3 = some r ∧ r.coups[0]? = some c ∧ c.start + 2 ^ c.par.q ≤ dieClock s (dieOf (cvOfNode c.prod)) ∧
      (∀ d ∈ r.coups.take 0, periodOver s d = false) ∧ c.prod ≠ c.cons) ∧
    (let s := { tuned with clock := 1024 }
     ∃ r, Tab.find? s.res 3 = some r ∧ r.winStart + 1024 ≤ dieClock s (nth 0 r.region.dies 0)) :=
  ⟨⟨_, rfl, rfl, rfl, by decide +kernel, by decide, by decide⟩, ⟨_, rfl, rfl, by decide +kernel, by decide, by decide⟩, ⟨_, rfl, by decide +kernel⟩⟩

/-- A freeze and an information that wait for record 0, records lost, a fatal fault, and a freeze with no
record free. -/
def waitingRec (ag : Option Agent) : State := { world with recs := { world.recs with wait := [(Rec.zero, ag, [])] } }
theorem meets_FaultEventsHappen :
    (∀ ag ∈ [none, some (Agent.ctx 0)], freeRec (waitingRec ag) = some 0 ∧ (waitingRec ag).recs.wait = (Rec.zero, ag, []) :: []) ∧
    (let s := { world with recs := { world.recs with lost := 9 } }
     freeRec s = some 0 ∧ s.recs.wait = [] ∧ s.recs.lost ≠ 0) ∧
    (let s := { world with fatals := [⟨3, Rec.zero⟩] }
     s.fatals[0]? = some ⟨3, Rec.zero⟩ ∧ Tab.find? s.res 3 = some (resOf cove0)) ∧ freeRec noRecords = none := by
  refine ⟨by decide +kernel, by decide +kernel, by decide +kernel, noRecords_free⟩

/-- A die below, at and above its limit, and since 2^16 clocks above it. -/
theorem meets_PowerEventsHappen :
    ((7 : Nat) < 8 ∧ (2000 : Nat) ≤ 2000 ∧ 2000 < 2001 ∧ Tab.find? State.reset.power.overSince 7 = none ∧ has State.reset.power.stretched 7 = false) ∧
    (let s := { State.reset with power := { State.reset.power with overSince := [(7, 0)], skipped := [(7, 5)] }, clock := 65536 }
     Tab.find? s.power.overSince 7 = some 0 ∧ 0 + 65536 ≤ s.clock ∧ has s.power.stretched 7 = false ∧ Tab.rising s.power.skipped = true ∧
      Tab.get 0 s.power.skipped 7 ≤ s.clock) := by
  decide +kernel

/-- Corrected errors at 2^24 clocks, with some and with none; a row below its limit and at it, with sparing armed and not; a row being spared; a decay;
a residency that runs; a link that is up and one that is down. -/
def worn (n : Nat) : State :=
  { world with
    clock := 2 ^ 24
    host := { world.host with raspol := 0x8000 }
    ras := { world.ras with corr := [(15, n)], bucket := [(15 * 48 * 2 ^ 30 + 64, n)], sparing := [5] }
    peersDown := [23] }
theorem meets_ErrorEventsHappen :
    (∀ n ∈ [0, 6, 8], let s := worn n
      s.ras.lastSum + 2 ^ 24 ≤ s.clock ∧ s.ras.lastDec + 2 ^ 24 ≤ s.clock ∧ s.ras.corr.foldl (fun n e => n + e.2) 0 = n ∧
        Tab.get 0 s.ras.bucket (15 * 48 * 2 ^ 30 + 64) = n ∧ has s.ras.sparing (15 * 48 * 2 ^ 30 + 64) = false ∧
        bitOf s.host.raspol.toNat 15 = true ∧ bitOf s.host.raspol.toNat 14 = false ∧ has s.ras.proposed (15 * 48 * 2 ^ 30 + 64) = false ∧
        has s.ras.sparing (0 * 48 * 2 ^ 30 + 5) = true ∧ Tab.rising s.ras.bucket = true ∧ has s.peersDown 23 = true ∧ has s.peersDown 0 = false ∧
        Tab.find? s.res 3 = some (resOf cove0) ∧ (resOf cove0).st = .placed ∧ freeRec s = some 0 ∧ s.recs.wait = [] ∧ s.recs.lost = 0) := by
  decide +kernel

/-! ### The host -/

/-- XINV of everything, as the mailbox has it. -/
def asking : State :=
  { readied with host := { readied.host with held := [⟨1, 0, 1⟩], evsize := 0, hcmd0 := 2 ^ 53 + 0xFF * 2 ^ 56, evhead := 15 } }

/-- A ring with room and one that is full; a mailbox command that passes its checks and one that does not; requests of a peer for mapped memory. -/
theorem meets_HostAndPeerAccessesHappen :
    (asking.hbm.wf = true ∧ asking.hostMem.wf = true ∧ asking.shore.wf = true ∧ asking.host.held = ⟨1, 0, 1⟩ :: []) ∧
    (asking.host.evhead.toNat - asking.host.evtail.toNat ≠ 2 ^ (asking.host.evsize.toNat + 4)) ∧
    (let s := { asking with host := { asking.host with evhead := 16 } }
     s.host.evhead.toNat - s.host.evtail.toNat = 2 ^ (s.host.evsize.toNat + 4)) ∧
    (mailboxFault asking ((0x1500000000000000 : BitVec 64) ++ asking.host.hcmd0) = none ∧
      (mailboxFault asking ((0x0100000000000000 : BitVec 64) ++ asking.host.hcmd0)).isSome = true) ∧
    (∀ n ∈ [1, 8, 64], ∃ t segs, resolve asking ⟨8192, none, [], qRoot asking 0, false⟩ 0 (0x100 : Word) n true true = (t, .ok segs) ∧
      segs = [(⟨.hbm, 2 ^ 30 + 0x100⟩, n)]) ∧
    (∀ i < 8, psnAt asking ⟨.hbm, 2 ^ 30 + 0x100 + i⟩ = false) := by
  refine ⟨by decide +kernel, by decide +kernel, by decide +kernel, by decide +kernel, ?_, by decide +kernel⟩
  intro n h
  simp only [List.mem_cons, List.not_mem_nil, or_false] at h
  rcases h with rfl | rfl | rfl <;> exact ⟨_, _, pair_ok (by decide +kernel), rfl⟩

/-- Nothing placed, and something placed; each boundary of the values and the offsets. -/
theorem meets_RegisterWritesHappen :
    (State.reset.res = [] ∧ State.reset.parked = []) ∧ world.res ≠ [] ∧ Tab.rising State.reset.host.qdesc = true ∧
    ((1023 : BitVec 64).toNat < 1024 ∧ 2600 ≤ (2600 : BitVec 64).toNat ∧ (65535 : BitVec 64).toNat ≤ 65535 ∧ (2599 : BitVec 64).toNat < 2600 ∧
      65535 < (65536 : BitVec 64).toNat ∧ (0x10000 : BitVec 64).toNat % 65536 = 0 ∧ (0x1000 : BitVec 64).toNat % 4096 = 0 ∧ (15 : BitVec 64).toNat < 16 ∧
      (0x20 : BitVec 64).getLsbD 5 = true ∧ (0x400F : BitVec 64).toNat / 2 ^ 52 = 0 ∧ (0x400F : BitVec 64).toNat / 16 % 1024 = 0) ∧
    (0xFF8 % 8 = 0 ∧ 0xFF8 < 0x1000 ∧ 0x1078 ≤ 0x1078 ∧ 0xFFF8 < 0x10000 ∧ 0x10800 ≤ 0x10800 ∧ 0x11800 ≤ 0x11800) := by
  refine ⟨⟨rfl, rfl⟩, by decide, rfl, by decide, by decide⟩

/-- DEVNUM takes a value of its range; a base does not change while a task is placed. -/
theorem test_register_write :
    (after (.registerWrite 0x1008 1023) State.reset).host.devnum = 1023 ∧ (after (.registerWrite 0x1018 0x10000) world).host.ttbase = 0 := by
  decide +kernel

/-! ### The machine as a whole -/

theorem reset_next (h : BootHw) (s : State) : ∃ t, exec (.reset h) s = .next t := by
  simp only [exec, execReset]
  split
  · exact ⟨_, rfl⟩
  · split <;> exact ⟨_, rfl⟩

/-- A reset happens from every state, with power and without; whether an image verifies is the signature's, which is left open. -/
theorem meets_ResetBootsTheDevice :
    (∀ h : BootHw, ∃ t, exec (.reset h) State.reset = .next t) ∧ State.reset.boot.powered = true ∧
    (let s := { State.reset with boot := { State.reset.boot with powered := false } }
     s.boot.powered = false ∧ ∀ h : BootHw, ∃ t, exec (.reset h) s = .next t) :=
  ⟨fun h => reset_next h _, rfl, rfl, fun h => reset_next h _⟩

/-- Requests in recovery and out of it; an image that is too short. -/
theorem meets_AttestationRequestsAreAnswered :
    State.reset.host.boot ≠ 6 ∧ (let s := { State.reset with host := { State.reset.host with boot := 6 } }
      s.host.boot = 6) ∧ ([] : List Byte).length < Config.sigAt [] + 29792 :=
  ⟨by decide +kernel, rfl, Nat.lt_of_lt_of_le (by decide) (Nat.le_add_left 29792 _)⟩

/-- A turn of each agent that has something to execute, a slot that would begin in its context's turn and out of it, and one that is done, and of one while the package has no power. -/
def turnOf (s : State) (w : Who) : State := { s with agenda := [⟨1, w, []⟩] }
theorem meets_StepRunsTheInstruction :
    (∀ w, ∃ u, takeTurn (turnOf world w) = (u, ⟨1, w, []⟩) ∧ u = { world with agenda := [], turns := 1 } ∧ takes u w = true) ∧
    (let s := { world with boot := { world.boot with powered := false } }
     takes s (.slot 0 0) = false) ∧
    (let v := tick (at3 .u 1 2 3) 1
     (v.ctx 0).blk = some (b3 1 2 3) ∧ (b3 1 2 3).body[3]? = some 0x28000000 ∧ (b3 1 2 3).isExt 3 = false ∧
      decodeSlot 0x28000000 (b3 1 2 3).body[4]? = .ok (.imm 0) ∧ (b3 1 2 3).slot 3 = none ∧ (v.cove 0).issueAt ≠ some (cycleOf v 0) ∧ coreTurn v 0 = true ∧
      ∃ t, exec (.imm 0) { v with focus := .slot 0 3 } = .next t ∧ (t.ctx 0).blk ≠ some (b3 1 2 3)) ∧
    (let b : Blk := { b3 1 2 3 with slots := (b3 1 2 3).slots ++ [(3, .done 0 .nothing 0)] }
     let v := tick (inSlot world { ctx3 .u 1 2 3 with blk := some b }) 1
     (v.ctx 0).blk = some b ∧ b.body[3]? = some 0x28000000 ∧ b.isExt 3 = false ∧ b.slot 3 ≠ none) ∧
    (∀ l ∈ [0, 1], let s := tick (at3 .u 1 2 3) 1
     let v := s.setCove 0 { s.cove 0 with lastCtx := l, issueAt := some (cycleOf s 0) }
     (v.cove 0).issueAt = some (cycleOf v 0) ∧ (coreTurn v 0 = true ↔ l = 0)) ∧
    (let v := tick (sourced Node.empty (resOf cove0)) 1
     (arbitrate v 0).2.isSome = true) ∧
    (let c := cmdOf (cmdWord 0x10 0 0 0 5) .u
     let v := tick (heading tuned 80 c) 1
     sbCmds v 80 = c :: [] ∧ ∃ i, decodeCmd c.w = .ok i) ∧
    encode .corrSum = .event := by
  refine ⟨fun w => ⟨_, rfl, rfl, rfl⟩, rfl, ⟨rfl, rfl, rfl, rfl, rfl, by decide +kernel, by decide +kernel, _, rfl, by decide +kernel⟩,
    ⟨rfl, rfl, rfl, by decide⟩, by decide +kernel, by decide +kernel, ⟨rfl, _, rfl⟩, rfl⟩

/-- Two memories that read alike; an instruction with an encoding; a step between states with the invariant. -/
theorem meets_MemoryHasOneForm : Memory.wf [(5, 7)] = true ∧ ∀ a, Memory.rd [(5, 7)] a = Memory.rd [(5, 7)] a := ⟨by decide, fun _ => rfl⟩
theorem meets_DecodingReadsTheEncoding :
    ∀ i ∈ [Instr.add 0x82 0x81 0xFF, .unbind ⟨0x41, 1, 0, 0⟩, .nodeAdd (w2 15 0xFFFFFFFFFF)], i.wf = true ∧ encode i ≠ .event := by
  decide +kernel
theorem meets_EveryStepKeepsTheInvariant :
    Machine.Inv (turnOf State.reset (.event (.evtail 5))) ∧ ∃ t, step (turnOf State.reset (.event (.evtail 5))) = .next t :=
  ⟨⟨rfl, rfl, rfl, fun a _ => (by rw [if_neg (by decide)]; rfl)⟩, _, rfl⟩

end Sys2Proof.Tests
end

section
/-!
PROOFS. What a pointer names and what bars it (R13 to R20), and how a slot's access that may not be made traps (R158, R161).
-/
namespace Sys2Proof.Machine

/-! ### Fields of a pointer (R13) -/

theorem bitsOf_eq (v lo len : Nat) : bitsOf v lo len = v / 2 ^ lo % 2 ^ len := by
  rw [bitsOf, Nat.shiftRight_eq_div_pow]

theorem bitOf_iff (v i : Nat) : bitOf v i = true ↔ v / 2 ^ i % 2 = 1 := by
  rw [bitOf, Nat.shiftRight_eq_div_pow, decide_eq_true_iff]

/-- Field `[lo + len - 1 : lo]` of a pointer. -/
def field (a : Word) (lo len : Nat) : Nat := a.toNat / 2 ^ lo % 2 ^ len

@[simp] theorem bitsOf_toNat (a : Word) (lo len : Nat) : bitsOf a.toNat lo len = field a lo len := bitsOf_eq _ _ _

@[simp] theorem bitOf_toNat (a : Word) (i : Nat) : bitOf a.toNat i = decide (field a i 1 = 1) :=
  Bool.eq_iff_iff.mpr (by rw [bitOf_iff, decide_eq_true_iff, field, Nat.pow_one])

/-- R15: bits [30:0] of a shore pointer are its die, cove, cell and byte fields in a row. -/
theorem field_shore_offset (a : Word) :
    field a 28 3 * 2 ^ 28 + field a 20 8 * 2 ^ 20 + field a 16 4 * 2 ^ 16 + field a 0 16 = field a 0 31 := by
  unfold field
  omega

/-! ### Rights on the shore class (R16, R17) -/

/-- R17: the rights admit an access to the cell of shore offset `off`: by privilege, by the region, or by a granted window. -/
def MayReach (rt : Rt) (off : Nat) (w : Bool) : Prop :=
  rt.priv = true ∨ (∃ r, rt.reg = some r ∧ r.hasCell (off / 65536) = true) ∨
    ∃ e ∈ rt.wins,
      let g := fun lo len : Nat => e.2.toNat / 2 ^ lo % 2 ^ len
      g 21 1 = 1 ∧ g 16 3 = off / 2 ^ 28 ∧ (w = true → g 20 1 = 1) ∧
      g 0 4 ≤ off / 2 ^ 20 % 16 ∧ off / 2 ^ 20 % 16 ≤ g 0 4 + g 8 4 ∧ g 4 4 ≤ off / 2 ^ 24 % 16 ∧ off / 2 ^ 24 % 16 ≤ g 4 4 + g 12 4

/-- The die, the column and the row that the cove of a shore offset has (R11, R15). -/
theorem dieOf_offset (off : Nat) : dieOf (cvOfCe (off / 65536)) = off / 2 ^ 28 := by
  unfold dieOf cvOfCe
  omega

theorem column_offset (off : Nat) : coveNo (cvOfCe (off / 65536)) % 16 = off / 2 ^ 20 % 16 := by
  unfold coveNo cvOfCe
  omega

theorem row_offset (off : Nat) : coveNo (cvOfCe (off / 65536)) / 16 = off / 2 ^ 24 % 16 := by
  unfold coveNo cvOfCe
  omega

/-- R314: what a window's word says of the cove of a shore offset. -/
theorem winAdmits_iff (e : BitVec 32) (off : Nat) (w : Bool) :
    winAdmits e (cvOfCe (off / 65536)) w = true ↔
      let g := fun lo len : Nat => e.toNat / 2 ^ lo % 2 ^ len
      g 21 1 = 1 ∧ g 16 3 = off / 2 ^ 28 ∧ (w = true → g 20 1 = 1) ∧
      g 0 4 ≤ off / 2 ^ 20 % 16 ∧ off / 2 ^ 20 % 16 ≤ g 0 4 + g 8 4 ∧ g 4 4 ≤ off / 2 ^ 24 % 16 ∧ off / 2 ^ 24 % 16 ≤ g 4 4 + g 12 4 := by
  simp only [winAdmits, dieOf_offset, column_offset, row_offset, Bool.and_eq_true, Bool.or_eq_true, Bool.not_eq_true',
    decide_eq_true_eq, bitOf_iff, bitsOf_eq, and_assoc, Nat.pow_one]
  cases w <;> simp

theorem shoreOk_iff (rt : Rt) (off : Nat) (w : Bool) : shoreOk rt (off / 65536) w = true ↔ MayReach rt off w := by
  unfold MayReach
  simp only [shoreOk, Bool.or_eq_true, List.any_eq_true, winAdmits_iff, or_assoc]
  cases rt.reg <;> simp

/-! ### The class of a pointer, or the cause that bars it (R13 to R20) -/

section Classify
variable {s : State} {rt : Rt} {a : Word} {n : Nat} {w : Bool}

theorem classify_reserved (h : field a 62 2 = 3) : classify s rt a n w = .error 0x20 := by
  simp [classify, h]

theorem classify_deep_malformed (h : field a 62 2 = 0) (hr : field a 52 10 ≠ 0) : classify s rt a n w = .error 0x21 := by
  simp [classify, h, hr]

theorem classify_deep (h : field a 62 2 = 0) (hr : field a 52 10 = 0) (hn : a.toNat + n ≤ 2 ^ 52) :
    classify s rt a n w = .ok (.deep a.toNat) := by
  simp only [classify, bitsOf_toNat, h, hr, hn, and_self, if_true]

theorem classify_shore_malformed (h : field a 62 2 = 1) (hr : field a 31 30 ≠ 0) : classify s rt a n w = .error 0x21 := by
  simp [classify, h, hr]

theorem classify_shore_nowhere (h : field a 62 2 = 1) (hr : field a 31 30 = 0) (ho : shoreOff rt a.toNat = none) :
    classify s rt a n w = .error 0x22 := by
  simp [classify, h, hr, ho]

/-- R16, R17: what comes of a shore access that starts at offset `off`. -/
def ShoreOutcome (s : State) (rt : Rt) (a : Word) (n : Nat) (w : Bool) (off : Nat) : Prop :=
  (65536 < off % 65536 + n → classify s rt a n w = .error 0x22) ∧
  (off % 65536 + n ≤ 65536 →
    (MayReach rt off w → classify s rt a n w = .ok (.shore off)) ∧ (¬MayReach rt off w → classify s rt a n w = .error 0x23))

theorem shoreOutcome_of_shoreOff {off : Nat} (h : field a 62 2 = 1) (hr : field a 31 30 = 0)
    (ho : shoreOff rt a.toNat = some off) : ShoreOutcome s rt a n w off := by
  refine ⟨fun hx => ?_, fun hx => ⟨fun hm => ?_, fun hm => ?_⟩⟩
  · simp [classify, h, hr, ho, hx]
  · simp [classify, h, hr, ho, Nat.not_lt.mpr hx, (shoreOk_iff rt off w).mpr hm]
  · simp [classify, h, hr, ho, Nat.not_lt.mpr hx, mt (shoreOk_iff rt off w).mp hm]

theorem classify_peer_self (h : field a 62 2 = 2) (hd : field a 52 10 = s.host.devnum.toNat) :
    classify s rt a n w = .ok (.deep (field a 0 52)) := by
  simp [classify, h, hd]

theorem classify_peer_reachable (h : field a 62 2 = 2) (hd : field a 52 10 ≠ s.host.devnum.toNat)
    (hp : peerEntry s (field a 52 10) / 2 ^ 31 % 2 = 1) : classify s rt a n w = .ok (.peer (field a 52 10) (field a 0 52)) := by
  simp [classify, h, hd, (bitOf_iff _ _).mpr hp]

theorem classify_peer_absent (h : field a 62 2 = 2) (hd : field a 52 10 ≠ s.host.devnum.toNat)
    (hp : peerEntry s (field a 52 10) / 2 ^ 31 % 2 = 0) : classify s rt a n w = .error 0x24 := by
  have hb : bitOf (peerEntry s (field a 52 10)) 31 ≠ true := by rw [Ne, bitOf_iff, hp]; decide
  simp [classify, h, hd, hb]

end Classify

/-! ### The offset of a shore pointer (R15) -/

/-- What is added to the cell field of a region-relative pointer: 8 in a residency of cells 8 to 15 of a half-cove. -/
def Region.cellOrg (r : Region) : Nat := if r.kind = 1 ∧ r.half = 1 then 8 else 0

section ShoreOff
variable {rt : Rt} {a : Word}

theorem shoreOff_absolute (h : field a 61 1 = 0) (hc : field a 20 8 < 192) : shoreOff rt a.toNat = some (field a 0 31) := by
  simp [shoreOff, h, hc, ← field_shore_offset]

theorem shoreOff_absolute_outside (h : field a 61 1 = 0) (hc : 192 ≤ field a 20 8) : shoreOff rt a.toNat = none := by
  simp [shoreOff, h, hc]

theorem shoreOff_relative_unplaced (h : field a 61 1 = 1) (hr : rt.reg = none) : shoreOff rt a.toNat = none := by
  simp [shoreOff, h, hr]

theorem shoreOff_relative {r : Region} {d : Nat} (h : field a 61 1 = 1) (hr : rt.reg = some r) (hd : r.die (field a 28 3) = some d)
    (hc : field a 20 8 + r.org < 192) (hk : field a 16 4 + r.cellOrg < 16) :
    shoreOff rt a.toNat =
      some (d * 2 ^ 28 + (field a 20 8 + r.org) * 2 ^ 20 + (field a 16 4 + r.cellOrg) * 2 ^ 16 + field a 0 16) := by
  unfold Region.cellOrg at hk ⊢
  simp only [shoreOff, bitOf_toNat, bitsOf_toNat, h, hr, hd, hc, hk, decide_true, and_self, if_true]

theorem shoreOff_relative_outside {r : Region} (h : field a 61 1 = 1) (hr : rt.reg = some r)
    (ho : r.die (field a 28 3) = none ∨ 192 ≤ field a 20 8 + r.org ∨ 16 ≤ field a 16 4 + r.cellOrg) :
    shoreOff rt a.toNat = none := by
  unfold Region.cellOrg at ho
  cases hd : r.die (field a 28 3) with
  | none => simp [shoreOff, h, hr, hd]
  | some d =>
    have hx : ¬(field a 20 8 + r.org < 192 ∧ field a 16 4 + (if r.kind = 1 ∧ r.half = 1 then 8 else 0) < 16) := by
      rintro ⟨hc, hk⟩
      rcases ho with h0 | h0 | h0
      · exact absurd (hd.symm.trans h0) (Option.some_ne_none d)
      · exact absurd hc (Nat.not_lt.mpr h0)
      · exact absurd hk (Nat.not_lt.mpr h0)
    simp only [shoreOff, bitOf_toNat, bitsOf_toNat, h, hr, hd, hx, decide_true, if_true, if_false]

end ShoreOff

/-! ### What resolution makes of the class -/

theorem resolve_of_classify_error {s : State} {rt : Rt} {a : Word} {n c : Nat} {w : Bool} (h : classify s rt a n w = .error c)
    (u : Nat) (rd : Bool) : resolve s rt u a n rd w = (s, .error ⟨c, 0⟩) := by
  simp [resolve, h]

theorem resolve_of_classify_shore {s : State} {rt : Rt} {a : Word} {n off : Nat} {w : Bool}
    (h : classify s rt a n w = .ok (.shore off)) (u : Nat) (rd : Bool) :
    resolve s rt u a n rd w = (s, .ok [(⟨.shore, off⟩, n)]) := by
  simp [resolve, h]

/-! ### Slots whose access may not be made (R158, R161) -/

/-- Instruction `i` in slot `k` of context `x` traps where its access of `n` bytes at `adr`, for the rights `rd` and `wr`, is misaligned,
and where it does not resolve; XADDR shows the resolved pointer. -/
def AccessFails (i : Instr) (s : State) (x k : Nat) (adr : Word) (n : Nat) (rd wr : Bool) : Prop :=
  (adr.toNat % n ≠ 0 → TrapsWith i s x k 0x12 (shownPtr (ctxRt s (s.ctx x)) adr)) ∧
  (adr.toNat % n = 0 → ∀ t err, resolve s (ctxRt s (s.ctx x)) (dieOf (cvOfX x)) adr n rd wr = (t, .error err) →
    exec i s = .next (settle (setSlot t x k (.trapped (BitVec.ofNat 8 err.cause) (shownPtr (ctxRt s (s.ctx x)) adr))) x))

theorem mem_span {a n j : Nat} : j ∈ span a n ↔ a ≤ j ∧ j < a + n := by
  induction n generalizing a with
  | zero => simp only [span, List.not_mem_nil, false_iff]; omega
  | succ n ih => simp only [span, List.mem_cons, ih]; omega

section Slots
variable {i : Instr} {s : State} {x k : Nat} {b : Blk} {p a c d : Byte} {u v w : Word} {n : Nat}

theorem slotStep_traps {t : State} {cause : Nat} {adr : Word} (h : Executes s x k b p) {body : SlotCx → State → State × SlotRes}
    (hb : body ⟨x, k, s.ctx x, b⟩ s = (t, .trap cause adr)) :
    slotStep p body s = .next (settle (setSlot t x k (.trapped (BitVec.ofNat 8 cause) adr)) x) := by
  rw [slotStep_runs h, hb]
  rfl

theorem loadSlot_fails {sg : Bool} (h : Executes s x k b p) (ha : Operand s x b a u) (hc : Operand s x b c v)
    (hbelow : ∀ j < k, passedSync b j = true ∧ addrReady s x (s.ctx x) b j = true) (hi : exec i s = loadSlot n sg a c p s) :
    AccessFails i s x k (u + v) n true false := by
  unfold Operand at ha hc
  have hall : ((span 0 k).all fun j => passedSync b j && addrReady s x (s.ctx x) b j) = true := by
    simpa [List.all_eq_true, mem_span] using hbelow
  refine ⟨fun hm => hi.trans (slotStep_traps h ?_), fun hm t err hr => hi.trans (slotStep_traps h ?_)⟩
  · simp only [SlotCx.op, ha, hc, hall, Bool.not_true, Bool.false_eq_true, if_false, if_pos hm]
  · simp only [SlotCx.op, SlotCx.cv, ha, hc, hall, Bool.not_true, Bool.false_eq_true, if_false, if_neg (not_not_intro hm), hr]

theorem storeSlot_fails (h : Executes s x k b p) (ha : Operand s x b a u) (hc : Operand s x b c v)
    (hi : exec i s = storeSlot n a c p s) : AccessFails i s x k u n false true := by
  unfold Operand at ha hc
  refine ⟨fun hm => hi.trans (slotStep_traps h ?_), fun hm t err hr => hi.trans (slotStep_traps h ?_)⟩
  · simp only [SlotCx.op, ha, hc, if_pos hm]
  · simp only [SlotCx.op, SlotCx.cv, ha, hc, if_neg (not_not_intro hm), hr]

/-- The compare value of ACAS, where the atomic has one, is there as well. -/
theorem atomicSlot_fails {op : Nat} {o : Option Byte} (h : Executes s x k b p) (ha : Operand s x b a u) (hc : Operand s x b c v)
    (ho : ∀ e, o = some e → Operand s x b e w) (hi : exec i s = atomicSlot op a c p o d s) :
    AccessFails i s x k u 8 true true := by
  unfold Operand at ha hc ho
  refine ⟨fun hm => hi.trans (slotStep_traps h ?_), fun hm t err hr => hi.trans (slotStep_traps h ?_)⟩
  · cases o with
    | none => simp only [SlotCx.op, ha, hc, if_pos hm]
    | some e => simp only [SlotCx.op, ha, hc, ho e rfl, if_pos hm]
  · cases o with
    | none => simp only [SlotCx.op, SlotCx.cv, ha, hc, if_neg (not_not_intro hm), hr]
    | some e => simp only [SlotCx.op, SlotCx.cv, ha, hc, ho e rfl, if_neg (not_not_intro hm), hr]

end Slots

/-! ### The statement -/

/-- R158, R161: the loads, stores and atomics that may not be made. -/
theorem loads_fail {s : State} {x k : Nat} {b : Blk} {p a c : Byte} {u v : Word} (h : Executes s x k b p) (ha : Operand s x b a u)
    (hc : Operand s x b c v) (hbelow : ∀ j < k, passedSync b j = true ∧ addrReady s x (s.ctx x) b j = true) :
    AccessFails (.ldB a c p) s x k (u + v) 1 true false ∧ AccessFails (.ldH a c p) s x k (u + v) 2 true false ∧
    AccessFails (.ldW a c p) s x k (u + v) 4 true false ∧ AccessFails (.ldD a c p) s x k (u + v) 8 true false ∧
    AccessFails (.ldnB a c p) s x k (u + v) 1 true false ∧ AccessFails (.ldnH a c p) s x k (u + v) 2 true false ∧
    AccessFails (.ldnW a c p) s x k (u + v) 4 true false :=
  have hl : ∀ {i n sg}, exec i s = loadSlot n sg a c p s → AccessFails i s x k (u + v) n true false :=
    fun hi => loadSlot_fails h ha hc hbelow hi
  ⟨hl rfl, hl rfl, hl rfl, hl rfl, hl rfl, hl rfl, hl rfl⟩

theorem stores_fail {s : State} {x k : Nat} {b : Blk} {p a c : Byte} {u v : Word} (h : Executes s x k b p) (ha : Operand s x b a u)
    (hc : Operand s x b c v) :
    AccessFails (.stB a c p) s x k u 1 false true ∧ AccessFails (.stH a c p) s x k u 2 false true ∧
    AccessFails (.stW a c p) s x k u 4 false true ∧ AccessFails (.stD a c p) s x k u 8 false true :=
  have hs : ∀ {i n}, exec i s = storeSlot n a c p s → AccessFails i s x k u n false true := fun hi => storeSlot_fails h ha hc hi
  ⟨hs rfl, hs rfl, hs rfl, hs rfl⟩

theorem atomics_fail {s : State} {x k : Nat} {b : Blk} {p a c d e : Byte} {u v w : Word} (h : Executes s x k b p)
    (ha : Operand s x b a u) (hc : Operand s x b c v) (he : Operand s x b e w) :
    AccessFails (.aadd a c p d) s x k u 8 true true ∧ AccessFails (.aand a c p d) s x k u 8 true true ∧
    AccessFails (.aor a c p d) s x k u 8 true true ∧ AccessFails (.axor a c p d) s x k u 8 true true ∧
    AccessFails (.amin a c p d) s x k u 8 true true ∧ AccessFails (.amax a c p d) s x k u 8 true true ∧
    AccessFails (.axchg a c p d) s x k u 8 true true ∧ AccessFails (.acas a c p e d) s x k u 8 true true :=
  have hat : ∀ {i op o}, (∀ e', o = some e' → Operand s x b e' w) → exec i s = atomicSlot op a c p o d s →
      AccessFails i s x k u 8 true true := fun ho hi => atomicSlot_fails h ha hc ho hi
  have hno : ∀ e', (none : Option Byte) = some e' → Operand s x b e' w := nofun
  ⟨hat hno rfl, hat hno rfl, hat hno rfl, hat hno rfl, hat hno rfl, hat hno rfl, hat hno rfl,
    hat (fun _ h => Option.some.inj h ▸ he) rfl⟩

/-- Settles O9: a slot checks alignment, then resolves; and each clause of R13 to R18 is one branch of `classify`, with the shore offset that
`shoreOff` gives. -/
theorem accessTraps : Obligations.AccessTraps := by
  unfold Obligations.AccessTraps
  refine ⟨fun s x k b p a c d e u v w h ha hc he => ?_, fun s rt a n w => ?_⟩
  · obtain ⟨hb, hh, hw, hd⟩ := stores_fail h ha hc
    exact ⟨loads_fail h ha hc, hb, hh, hw, hd, atomics_fail h ha hc he⟩
  · refine ⟨classify_reserved, classify_deep_malformed, classify_deep, classify_shore_malformed, fun h hr => ⟨fun habs => ⟨?_, ?_⟩,
      fun hrel => ⟨?_, fun r hreg => ⟨?_, ?_⟩⟩⟩, fun h => ⟨classify_peer_self h, fun hd => ⟨classify_peer_reachable h hd,
      classify_peer_absent h hd⟩⟩, fun u rd c hc => resolve_of_classify_error hc u rd,
      fun u rd off hc => resolve_of_classify_shore hc u rd⟩
    · exact fun hc => classify_shore_nowhere h hr (shoreOff_absolute_outside habs hc)
    · exact fun hc => shoreOutcome_of_shoreOff h hr (shoreOff_absolute habs hc)
    · exact fun hreg => classify_shore_nowhere h hr (shoreOff_relative_unplaced hrel hreg)
    · exact fun hout => classify_shore_nowhere h hr (shoreOff_relative_outside hrel hreg hout)
    · exact fun d hd hc hk => shoreOutcome_of_shoreOff h hr (shoreOff_relative hrel hreg hd hc hk)

end Sys2Proof.Machine
end

section
/-!
PROOFS. When a node fires: what its plan sees of the heads of its inputs (R33, R40, R60), and from the plan to the firing.
-/
namespace Sys2Proof.Machine

/-! ### Heads and their kinds -/

section Heads
variable {c : NCx} {i : Nat} {t : Tok} {l : List Nat}

/-- An input field that is none has no queue, and so no head (R121). -/
theorem NCx.hd_of_not_has (h : c.has i = false) : c.hd i = none := by
  have hid : chanId (inF c.w i) = 0xFF := by simpa [NCx.has, isNone] using h
  simp [NCx.hd, NCx.q, qAt, hid, Queue.head, Queue.empty]

theorem NCx.shows_of_none (h : c.hd i = none) (ks : List Nat) : c.shows i ks = false := by
  simp [NCx.shows, h]

theorem NCx.shows_of_some (h : c.hd i = some t) (ks : List Nat) : c.shows i ks = ks.contains t.k := by
  simp [NCx.shows, h]

theorem NCx.tok_of_some (h : c.hd i = some t) : c.tok i = t := by
  simp [NCx.tok, h]

/-- R60: no head of `l` is of a reserved kind. -/
theorem badKind_eq_false_iff : badKind c l = false ↔ ∀ i ∈ l, ∀ t, c.hd i = some t → t.k < 10 := by
  simp only [badKind, List.any_eq_false]
  refine forall₂_congr fun i _ => ?_
  cases c.hd i <;> simp

theorem badKind_of_none (h : c.hd i = none) : badKind c [i] = false := by
  simp [badKind, h]

theorem badKind_of_some (h : c.hd i = some t) (hk : t.k < 10) : badKind c [i] = false := by
  simp [badKind, h, hk]

theorem badKind_concat (hl : badKind c l = false) (h : c.hd i = some t) (hk : t.k < 10) : badKind c (l ++ [i]) = false := by
  simpa [badKind, h, hk] using hl

/-- The inputs among `l` that are channels have no head of a reserved kind either. -/
theorem badKind_needed (h : badKind c l = false) : badKind c (c.needed l) = false :=
  badKind_eq_false_iff.mpr fun i hi => badKind_eq_false_iff.mp h i ((List.mem_filter.mp hi).1)

/-- An operand is of an assigned kind, and no delimiter, HDR or DRAIN (R33, R34). -/
theorem Tok.operand.kinds (h : t.operand) : t.k < 10 ∧ t.isDelim = false ∧ t.k ≠ 1 ∧ t.k ≠ 5 := by
  rcases h with h | h | h | h | h <;> simp [Tok.isDelim, h]

/-- CTRL and IDX are operands. -/
theorem operand_of_control (h : t.k = 6 ∨ t.k = 8) : t.operand := by
  rcases h with h | h <;> simp [Tok.operand, h]

/-- Operands in space go to the operation (R40). -/
theorem flowPlan_of_data {bad : Nat → List Nat} {f : NCx → Option Fire} (hk : badKind c l = false)
    (hs : ∀ i ∈ l, c.shows i (bad i) = false) (hd : heads c true l = .data) (hr : c.rooms = true) : flowPlan c l bad f = f c := by
  have hany : (l.any fun i => c.shows i (bad i)) = false := by simpa using hs
  simp [flowPlan, hk, hany, hd, hr]

end Heads

/-! ### From the plan to the firing -/

section Firing
variable {i : Instr} {s : State} {n : Nat} {w : NodeW} {plan : NCx → Option Fire}

theorem fires_of_plan {f : Fire} (hf : s.focus = .node n) (hi : exec i s = fireNode plan w s) (hp : plan (ncx s n w) = some f) :
    Fires i s n w f := by
  rw [Fires, hi, fireNode]
  simp [hf, hp]

theorem stalls_of_plan (hf : s.focus = .node n) (hi : exec i s = fireNode plan w s) (hp : plan (ncx s n w) = none) :
    Stalls i s := by
  rw [Stalls, hi, fireNode]
  simp [hf, hp]

end Firing

end Sys2Proof.Machine
end

section
/-!
PROOFS. The plans of the flow nodes that keep a state, case by case (R63 to R70, R77, R247, R249, R250, R252, R253).
-/
namespace Sys2Proof.Machine

variable {c : NCx}

/-! ### SOURCE (R247) -/

section Source
variable {k : Nat}

theorem sourceSt_of_source {r : Bool} (h : c.d.op = .source r k) : sourceSt c = (r, k) := by
  simp [sourceSt, h]

theorem sourceSt_of_none (h : c.d.op = .none) (h0 : c.has 0 = false) : sourceSt c = (true, 0) := by
  simp [sourceSt, h, h0]

theorem planSource_in_pass (hi : injected c = none) (hn : c.d.drained = false) (hr : c.rooms = true) (h0 : c.has 0 = false)
    (hs : sourceSt c = (true, k)) : planSource c = some (sourceEmit c [] k) := by
  have hnone := NCx.hd_of_not_has h0
  simp [planSource, hi, hn, badKind_of_none hnone, hr, hs, NCx.shows_of_none hnone]

theorem planSource_after_pass (hi : injected c = none) (hn : c.d.drained = false) (hr : c.rooms = true) (h0 : c.has 0 = false)
    (hs : sourceSt c = (false, k)) (he : c.d.eos = false) : planSource c = some (eosFire c []) := by
  have hnone := NCx.hd_of_not_has h0
  simp [planSource, hi, hn, badKind_of_none hnone, hr, hs, h0, he, NCx.shows_of_none hnone]

theorem planSource_triggered {t : Tok} (hi : injected c = none) (hn : c.d.drained = false) (hr : c.rooms = true) (h0 : c.has 0 = true)
    (hs : (sourceSt c).1 = false) (ht : c.hd 0 = some t) (hk : t.k = 0 ∨ t.k = 6 ∨ t.k = 8) :
    planSource c = some (sourceEmit c [0] 0) := by
  have hb : badKind c [0] = false := badKind_of_some ht (by omega)
  have h7 : c.shows 0 [7] = false := by rcases hk with hk | hk | hk <;> simp [NCx.shows_of_some ht, hk]
  simp [planSource, hi, hn, hb, h7, hr, hs, h0, ht, hk]

/-- The record of a token of the pass, as the format of the SOURCE shows it. -/
theorem sourceTok_of_clean {v : Nat} (h : bankNat c (bitsOf c.w.imm.toNat 0 16 + 16 * k) 16 = (v, false)) :
    sourceTok c k = if bitsOf c.w.imm.toNat 32 2 = 1 then ctrlTok v
      else if bitsOf c.w.imm.toNat 32 2 = 2 then mkTok 7 (BitVec.ofNat 128 v) (BitVec.ofNat 16 k)
      else mkTok 0 (BitVec.ofNat 128 v) (fullMask (fmtWidth c.w.mode.toNat) (fmtLanes c.w.mode.toNat)) := by
  rw [sourceTok, h]
  by_cases h1 : bitsOf c.w.imm.toNat 32 2 = 1
  · simp [h1]
  · by_cases h2 : bitsOf c.w.imm.toNat 32 2 = 2
    · simp [h2]
    · simp only [if_neg h1, if_neg h2, Bool.false_eq_true, if_false]

/-- The pass goes on below its last record, and is over with it. -/
theorem sourceEmit_of_clean {v : Nat} (l : List Nat) (h : bankNat c (bitsOf c.w.imm.toNat 0 16 + 16 * k) 16 = (v, false)) :
    sourceEmit c l k = (Fire.both c l (if bitsOf c.w.imm.toNat 32 2 = 1 then ctrlTok v
      else if bitsOf c.w.imm.toNat 32 2 = 2 then mkTok 7 (BitVec.ofNat 128 v) (BitVec.ofNat 16 k)
      else mkTok 0 (BitVec.ofNat 128 v) (fullMask (fmtWidth c.w.mode.toNat) (fmtLanes c.w.mode.toNat)))).op
        (.source (decide (k < bitsOf c.w.imm.toNat 16 16)) (if decide (k < bitsOf c.w.imm.toNat 16 16) then k + 1 else 0)) := by
  rw [← sourceTok_of_clean h]
  by_cases hk : k < bitsOf c.w.imm.toNat 16 16
  · simp [sourceEmit, hk, Nat.not_le.mpr hk]
  · simp [sourceEmit, hk, Nat.not_lt.mp hk]

end Source

/-! ### CCHAIN (R63 to R66) -/

section Cchain
variable {f : Fire} {s : ChainSt}

/-- Without a throttle at IN_B the chain's emission is its firing, where IN_A shows a kind of use. -/
theorem planCchain_of_emit (hi : injected c = none) (hn : c.d.drained = false) (h1 : c.has 1 = false)
    (h0 : ∀ t, c.hd 0 = some t → t.k < 10 ∧ t.k ≠ 7) (h : chainEmit c (chainSt c.d) = some f) : planCchain c = some f := by
  have hd1 := NCx.hd_of_not_has h1
  have hb : badKind c [0, 1] = false := badKind_eq_false_iff.mpr (by simpa [hd1] using fun t ht => (h0 t ht).1)
  have h7 : ∀ i ∈ c.needed [0, 1], c.shows i [7] = false := by
    intro i hi
    have hm : i = 0 ∨ i = 1 := by simpa using (List.mem_filter.mp hi).1
    rcases hm with rfl | rfl
    · cases ht : c.hd 0 with
      | none => exact NCx.shows_of_none ht _
      | some t => simpa [NCx.shows_of_some ht] using (h0 t ht).2
    · exact NCx.shows_of_none hd1 _
  have hany : ((c.needed [0, 1]).any fun i => c.shows i [7]) = false := by simpa using h7
  simp [planCchain, hn, hi, badKind_needed hb, hany, h, h1]

theorem chainEmit_eot (hr : c.rooms = true) (he : s.eot = true) :
    chainEmit c s = some ((Fire.of c [] (some eotTok) none).op { s with eot := false }.op) := by
  simp [chainEmit, hr, he]

theorem chainEmit_in_pass (hr : c.rooms = true) (he : s.eot = false) (hrun : s.run = true) (hg : chainGate c s = true) :
    chainEmit c s = some (chainIdx c s []) := by
  simp [chainEmit, hr, he, hrun, hg]

theorem chainEmit_triggered {t : Tok} (hr : c.rooms = true) (he : s.eot = false) (hrun : s.run = false) (h0 : c.has 0 = true)
    (ht : c.hd 0 = some t) (hk : t.k = 0 ∨ t.k = 6 ∨ t.k = 8) : chainEmit c s = chainPass c s [0] := by
  simp [chainEmit, hr, he, hrun, h0, ht, hk]

theorem chainPass_no_trip {l : List Nat}
    (hp : (bankNat c (bitsOf c.w.imm.toNat 0 16) (16 * (bitsOf c.w.imm.toNat 20 2 + 1))).2 = false)
    (hc : chainRead c (bitsOf c.w.imm.toNat 0 16) (bitsOf c.w.imm.toNat 20 2 + 1) 0 = .ok none) :
    chainPass c s l = some ((Fire.of c l none none).op { s with fresh := false }.op) := by
  simp [chainPass, hp, hc]

theorem chainPass_first {l : List Nat} {r : List (Int × Int × Int)}
    (hp : (bankNat c (bitsOf c.w.imm.toNat 0 16) (16 * (bitsOf c.w.imm.toNat 20 2 + 1))).2 = false)
    (hc : chainRead c (bitsOf c.w.imm.toNat 0 16) (bitsOf c.w.imm.toNat 20 2 + 1) 0 = .ok (some r)) (hg : chainGate c s = true) :
    chainPass c s l = some (chainIdx c { s with fresh := false, run := true, v := r.map (·.1), recd := r } l) := by
  simp [chainPass, hp, hc, hg]

end Cchain

/-! ### CARRY (R67, R68) -/

section Carry
variable {t x : Tok}

theorem carryInit_eq_true {w : NodeW} (h : t.k = 6 ∧ t.ctl = 0 ∨ t.k = 8 ∧ bitOf t.sb.toNat (bitsOf w.imm.toNat 38 2) = true) :
    carryInit w t = true := by
  rcases h with ⟨hk, hc⟩ | ⟨hk, hc⟩ <;> simp [carryInit, hk, hc]

theorem carryInit_eq_false {w : NodeW} (h : t.k = 6 ∧ t.ctl ≠ 0 ∨ t.k = 8 ∧ bitOf t.sb.toNat (bitsOf w.imm.toNat 38 2) = false) :
    carryInit w t = false := by
  rcases h with ⟨hk, hc⟩ | ⟨hk, hc⟩ <;> simp [carryInit, hk, hc]

/-- What CARRY has before it when it selects: `t` at IN_C, a CTRL or an IDX; no head of a reserved kind; no delimiter on its back edge. -/
structure CarrySelects (c : NCx) (t : Tok) : Prop where
  rooms     : c.rooms = true
  undrained : c.d.drained = false
  kinds     : badKind c [0, 1, 2] = false
  back      : c.shows 1 [1, 2, 3, 4] = false
  head      : c.hd 2 = some t
  control   : t.k = 6 ∨ t.k = 8

theorem planCarry_initial (h : CarrySelects c t) (hi : carryInit c.w t = true) (h0 : c.has 0 = true) (hx : c.hd 0 = some x)
    (ho : x.operand) : planCarry c = some (Fire.of c [2, 0] (some x) none) := by
  obtain ⟨hr, hn, hk, hb, h2, ht⟩ := h
  obtain ⟨-, hd, h1, h5⟩ := ho.kinds
  obtain ⟨-, htd, -⟩ := (operand_of_control ht).kinds
  rcases ht with ht | ht <;>
    simp [planCarry, badKind_needed hk, NCx.shows_of_some h2, hn, hb, h2, ht, htd, hi, h0, hx, hd, h1, h5, hr, psnIf]

theorem planCarry_constant (h : CarrySelects c t) (hi : carryInit c.w t = true) (h0 : c.has 0 = false) :
    planCarry c = some (Fire.of c [2] (some (carryConst c.w)) none) := by
  obtain ⟨hr, hn, hk, hb, h2, ht⟩ := h
  obtain ⟨-, htd, -⟩ := (operand_of_control ht).kinds
  rcases ht with ht | ht <;>
    simp [planCarry, badKind_needed hk, NCx.shows_of_some h2, hn, hb, h2, ht, htd, hi, h0, hr, psnIf]

theorem planCarry_carried (h : CarrySelects c t) (hi : carryInit c.w t = false) (hx : c.hd 1 = some x) (ho : x.operand) :
    planCarry c = some (Fire.of c [2, 1] (some x) none) := by
  obtain ⟨hr, hn, hk, hb, h2, ht⟩ := h
  obtain ⟨-, hd, h1, h5⟩ := ho.kinds
  obtain ⟨-, htd, -⟩ := (operand_of_control ht).kinds
  rcases ht with ht | ht <;>
    simp [planCarry, badKind_needed hk, NCx.shows_of_some h2, hn, hb, h2, ht, htd, hi, hx, hd, h1, h5, hr, psnIf]

end Carry

/-! ### EXIT (R69) -/

section Exit
variable {t x i : Tok}

/-- What EXIT has before it out of FLUSH: the CTRL `t`, the value `x` and the IDX `i`. -/
structure ExitReady (c : NCx) (t x i : Tok) : Prop where
  rooms   : c.rooms = true
  normal  : exitFlush c.d = false
  headA   : c.hd 0 = some t
  headB   : c.hd 1 = some x
  headC   : c.hd 2 = some i
  ctrl    : t.k = 6
  value   : x.operand
  clean   : x.k ≠ 9
  idx     : i.k = 8

/-- The last bit of the level that EXIT ends (R69). -/
def exitLast (c : NCx) (i : Tok) : Bool := bitOf i.sb.toNat (4 + bitsOf c.w.imm.toNat 0 2)

/-- The value leaves when its CTRL or the last IDX says so, and FLUSH begins but behind the last IDX; else the loop goes on. -/
theorem planExit_of_ready (h : ExitReady c t x i) : planExit c = some (if t.ctl ≠ 0 ∨ exitLast c i = true then
    (Fire.of c [0, 1, 2] (some x) (some (ctrlTok 0))).op (.exit (!exitLast c i))
  else Fire.of c [0, 1, 2] none (some (ctrlTok 1))) := by
  obtain ⟨hr, hf, h0, h1, h2, ht, hx, h9, hi⟩ := h
  obtain ⟨hxk, hxd, hx1, hx5⟩ := hx.kinds
  obtain ⟨-, htd, -⟩ := (operand_of_control (.inl ht)).kinds
  obtain ⟨-, hid, -⟩ := (operand_of_control (.inr hi)).kinds
  have hb : badKind c [0, 1, 2] = false := badKind_eq_false_iff.mpr (by simp [h0, h1, h2, ht, hxk, hi])
  unfold exitLast
  by_cases he : t.ctl ≠ 0 ∨ bitOf i.sb.toNat (4 + bitsOf c.w.imm.toNat 0 2) = true <;>
    simp [planExit, hb, NCx.shows_of_some h0, NCx.shows_of_some h2, hr, hf, h0, h1, h2, ht, htd, hxd, hx1, hx5, h9, hi, hid, psnIf, he]

theorem planExit_ends_by_ctrl (h : ExitReady c t x i) (hc : t.ctl ≠ 0) (hl : exitLast c i = false) :
    planExit c = some ((Fire.of c [0, 1, 2] (some x) (some (ctrlTok 0))).op (.exit true)) := by
  rw [planExit_of_ready h, if_pos (.inl hc), hl, Bool.not_false]

theorem planExit_ends_at_last (h : ExitReady c t x i) (hl : exitLast c i = true) :
    planExit c = some ((Fire.of c [0, 1, 2] (some x) (some (ctrlTok 0))).op (.exit false)) := by
  rw [planExit_of_ready h, if_pos (.inr hl), hl, Bool.not_true]

theorem planExit_goes_on (h : ExitReady c t x i) (hc : t.ctl = 0) (hl : exitLast c i = false) :
    planExit c = some (Fire.of c [0, 1, 2] none (some (ctrlTok 1))) := by
  rw [planExit_of_ready h, if_neg (by simp [hc, hl])]

theorem planExit_flush (hr : c.rooms = true) (hf : exitFlush c.d = true) (h0 : c.hd 0 = none) (h1 : c.hd 1 = none)
    (h2 : c.hd 2 = some i) (hi : i.k = 8) (ha : c.antiOk 0 = true) (hb : c.antiOk 1 = true) :
    planExit c = some ({ Fire.of c [2] none none with antis := [0, 1] }.op
      (.exit (!exitLast c i))) := by
  obtain ⟨-, hid, -⟩ := (operand_of_control (.inr hi)).kinds
  have hk : badKind c [0, 1, 2] = false := badKind_eq_false_iff.mpr (by simp [h0, h1, h2, hi])
  simp [planExit, exitLast, hk, NCx.shows_of_none h0, NCx.shows_of_some h2, hr, hf, h0, h1, h2, hi, hid, ha, hb]

end Exit

/-! ### TILE (R249) -/

section Tile
variable {t : Tok} {g f : Nat}

/-- What TILE has before it: the DATA `t`, at group count `g` and fibre count `f`, and nothing pending. -/
structure TileReady (c : NCx) (t : Tok) (g f : Nat) : Prop where
  rooms  : c.rooms = true
  free   : c.d.pend = []
  head   : c.hd 0 = some t
  data   : t.k = 0
  counts : tileSt c.d = (g, f)

theorem TileReady.kinds (h : TileReady c t g f) : badKind c [0] = false := badKind_of_some h.head (by simp [h.data])

theorem planTile_in_group (h : TileReady c t g f) (hg : g ≠ bitsOf c.w.imm.toNat 0 16) :
    planTile c = some ((Fire.both c [0] t).op (.tile (g + 1) f)) := by
  have hb := h.kinds
  obtain ⟨hr, hp, ht, hk, hs⟩ := h
  simp [planTile, pendFire, hp, hb, NCx.shows_of_some ht, ht, hk, hr, hs, hg]

theorem planTile_ends_group (h : TileReady c t g f) (hg : g = bitsOf c.w.imm.toNat 0 16) (hf : f ≠ bitsOf c.w.imm.toNat 16 16) :
    planTile c = some (((Fire.both c [0] t).pending (if bitOf c.w.imm.toNat 32 then [pair2 (eofTok f)] else [])).op (.tile 0 (f + 1))) := by
  have hb := h.kinds
  obtain ⟨hr, hp, ht, hk, hs⟩ := h
  simp [planTile, pendFire, hp, hb, NCx.shows_of_some ht, ht, hk, hr, hs, hg, hf]

theorem planTile_ends_tile (h : TileReady c t g f) (hg : g = bitsOf c.w.imm.toNat 0 16) (hf : f = bitsOf c.w.imm.toNat 16 16) :
    planTile c = some (((Fire.both c [0] t).pending
      ((if bitOf c.w.imm.toNat 32 then [pair2 (eofTok f)] else []) ++ [pair2 eotTok])).op (.tile 0 0)) := by
  have hb := h.kinds
  obtain ⟨hr, hp, ht, hk, hs⟩ := h
  simp [planTile, pendFire, hp, hb, NCx.shows_of_some ht, ht, hk, hr, hs, hg, hf]

end Tile

/-! ### ISECT and UNION (R250) -/

section Fibre
variable {u : Bool} {a b : Tok} {p q : Option Nat}

theorem notRising_eq_false {l : Option Nat} {t : Tok} (h : ∀ x, l = some x → x < t.sb.toNat) : notRising l t = false := by
  cases l with
  | none => simp [notRising]
  | some x => simp [notRising, h x rfl]

/-- What ISECT and UNION have before them: the COORDs `a` and `b`, which rise above those taken last. -/
structure FibreReady (c : NCx) (a b : Tok) (p q : Option Nat) : Prop where
  rooms  : c.rooms = true
  headA  : c.hd 0 = some a
  headB  : c.hd 1 = some b
  coordA : a.k = 7
  coordB : b.k = 7
  taken  : fibreSt c.d = (p, q)
  riseA  : ∀ x, p = some x → x < a.sb.toNat
  riseB  : ∀ x, q = some x → x < b.sb.toNat

/-- The lower coordinate goes first, or both together; only UNION emits one that is alone. -/
theorem fibrePlan_of_ready (h : FibreReady c a b p q) : fibrePlan u c = some
    (if a.sb.toNat < b.sb.toNat then
      (if u then Fire.of c [0] (some a) (some (zeroAt a)) else Fire.of c [0] none none).op (.fibre (some a.sb.toNat) q)
    else if b.sb.toNat < a.sb.toNat then
      (if u then Fire.of c [1] (some (zeroAt b)) (some b) else Fire.of c [1] none none).op (.fibre p (some b.sb.toNat))
    else (Fire.of c [0, 1] (some a) (some b)).op (.fibre (some a.sb.toNat) (some b.sb.toNat))) := by
  obtain ⟨hr, h0, h1, ha, hb, hs, hp, hq⟩ := h
  have hk : badKind c [0, 1] = false := badKind_eq_false_iff.mpr (by simp [h0, h1, ha, hb])
  have hany : ([0, 1].any fun i => c.shows i [0, 6, 8]) = false := by simp [NCx.shows_of_some h0, NCx.shows_of_some h1, ha, hb]
  simp [fibrePlan, hk, hany, h0, h1, hs, notRising_eq_false hp, notRising_eq_false hq, hr, ha, hb, apply_ite some]

theorem fibrePlan_lower_A (h : FibreReady c a b p q) (hlt : a.sb.toNat < b.sb.toNat) : fibrePlan u c = some
    ((if u then Fire.of c [0] (some a) (some (zeroAt a)) else Fire.of c [0] none none).op (.fibre (some a.sb.toNat) q)) := by
  rw [fibrePlan_of_ready h, if_pos hlt]

theorem fibrePlan_lower_B (h : FibreReady c a b p q) (hlt : b.sb.toNat < a.sb.toNat) : fibrePlan u c = some
    ((if u then Fire.of c [1] (some (zeroAt b)) (some b) else Fire.of c [1] none none).op (.fibre p (some b.sb.toNat))) := by
  rw [fibrePlan_of_ready h, if_neg (Nat.lt_asymm hlt), if_pos hlt]

theorem fibrePlan_match (h : FibreReady c a b p q) (heq : a.sb.toNat = b.sb.toNat) : fibrePlan u c = some
    ((Fire.of c [0, 1] (some a) (some b)).op (.fibre (some a.sb.toNat) (some b.sb.toNat))) := by
  rw [fibrePlan_of_ready h, if_neg (Nat.not_lt.mpr (Nat.le_of_eq heq.symm)), if_neg (Nat.not_lt.mpr (Nat.le_of_eq heq))]

end Fibre

/-! ### CTXSEL (R77) and SQUASH (R252) -/

section Select
variable {t : Tok}

/-- Without flag FIRST every control token is latched. -/
theorem planCtxsel_latches (hr : c.rooms = true) (ht : c.hd 0 = some t) (hd : heads c true [0] = .data) (hk : t.k = 6)
    (h3 : bitOf c.w.imm.toNat 3 = false) : planCtxsel c =
      some ((Fire.of c [0] none none).op (.ctxsel (decide (t.ctl ≠ 0)) ((ctxselSt c).2 + 1))) := by
  have hb : badKind c [0] = false := badKind_of_some ht (by omega)
  have hs : ∀ i ∈ [0], c.shows i [0, 7, 8] = false := by simp [NCx.shows_of_some ht, hk]
  rw [planCtxsel]
  simp [h3, flowPlan_of_data hb hs hd hr, NCx.tok_of_some ht, hk]

/-- What a SQUASH tells on OUT_1 at the head of a bundle: its count. -/
def squashTold (c : NCx) (t : Tok) : Option Tok :=
  if isNone c.w.out1 then none else some (ctrlTok (min t.ctl (bitsOf c.w.imm.toNat 0 6 + 1)))

theorem planSquash_begins (hs : squashSt c.d = (0, 0)) (ht : c.hd 0 = some t) (hk : t.k = 6) (hb : badKind c [1] = false)
    (h1 : c.shows 1 [1, 2, 3, 4, 5] = false) : planSquash c =
      squashRest c [0] (squashTold c t) 0 (min t.ctl (bitsOf c.w.imm.toNat 0 6 + 1)) := by
  have hb : badKind c [0, 1] = false := by
    rw [badKind_eq_false_iff] at hb ⊢
    simpa [ht, hk] using hb
  simp [planSquash, squashTold, hb, NCx.shows_of_some ht, ht, hk, hs, h1, Tok.isDelim, psnIf]

/-- The state of a SQUASH behind the first position of a bundle with `m` tokens. -/
def squashNext (c : NCx) (m : Nat) : OpSt := if bitsOf c.w.imm.toNat 0 6 + 1 = 1 then .none else .squash 1 m

theorem squashRest_forwards {o : Option Tok} {x : Tok} {m : Nat} (hr : c.rooms = true) (h1 : c.shows 1 [1, 2, 3, 4] = false) (hm : 0 < m)
    (hx : c.hd 1 = some x) (h5 : x.k ≠ 5) : squashRest c [0] o 0 m = some ((Fire.of c [0, 1] (some x) o).op (squashNext c m)) := by
  obtain ⟨hr0, hr1⟩ : c.room c.w.out0 = true ∧ c.room c.w.out1 = true := by simpa [NCx.rooms] using hr
  simp [squashRest, squashNext, h1, hr0, hr1, hm, hx, h5, eq_comm]

theorem squashRest_skips {o : Option Tok} {m : Nat} (hr : c.rooms = true) (hm : m = 0) (hx : c.hd 1 = none) (ha : c.antiOk 1 = true) :
    squashRest c [0] o 0 m = some ({ Fire.of c [0] none o with antis := [1] }.op (squashNext c m)) := by
  obtain ⟨hr0, hr1⟩ : c.room c.w.out0 = true ∧ c.room c.w.out1 = true := by simpa [NCx.rooms] using hr
  simp [squashRest, squashNext, NCx.shows_of_none hx, hr1, hm, ha, eq_comm]

end Select

/-! ### SYNC (R253) -/

section Sync
variable {t : Tok}

/-- The credit to a SYNC's barrier. -/
def syncCredit (c : NCx) (s : State) : State := creditBar s c.cv (bitsOf c.w.imm.toNat 32 6) (bitsOf c.w.imm.toNat 0 32)

/-- The accesses that the node's cell has issued (R253). -/
def cellIssued (c : NCx) : List Nat := (c.s.accs.filter (issuedByCell c.s c.ce (activeOf c.s c.rid))).map (·.id)

theorem planSync_wait_blocked (hp : c.d.pend = []) (ht : c.hd 0 = some t) (ho : t.operand) (hm : c.w.mode = 1)
    (hb : c.s.bar c.cv (bitsOf c.w.imm.toNat 32 6) ≠ 0) : planSync c = none := by
  have hk : badKind c [0] = false := badKind_of_some ht ho.kinds.1
  have hbar : (decide (c.w.mode = 1) && c.s.bar c.cv (bitsOf c.w.imm.toNat 32 6) != 0) = true := by simpa [hm] using hb
  simp only [planSync, hp, hbar, hk, if_true, Bool.false_eq_true, if_false]

/-- What SYNC has before it when it takes the operand `t`: no token that it holds yet. -/
structure SyncReady (c : NCx) (t : Tok) : Prop where
  rooms   : c.rooms = true
  free    : c.d.pend = []
  head    : c.hd 0 = some t
  due     : heads c true [0] = .data
  operand : t.operand

theorem SyncReady.flowPlan (h : SyncReady c t) (f : NCx → Option Fire) : Machine.flowPlan c [0] (fun _ => []) f = f c :=
  flowPlan_of_data (badKind_of_some h.head h.operand.kinds.1) (by simp [NCx.shows_of_some h.head]) h.due h.rooms

theorem planSync_wait_passes (h : SyncReady c t) (hm : c.w.mode = 1) (hb : c.s.bar c.cv (bitsOf c.w.imm.toNat 32 6) = 0) :
    planSync c = some (Fire.both c [0] t) := by
  simp [planSync, h.free, hm, hb, h.flowPlan, NCx.tok_of_some h.head]

/-- A signal credits at once where no access of its cell is in flight; else it holds its token and marks them. -/
theorem planSync_signal (h : SyncReady c t) (hm : c.w.mode ≠ 1) : planSync c = if cellIssued c = []
    then some { Fire.both c [0] t with post := syncCredit c }
    else some { Fire.of c [0] none none with d := { c.d with pend := [(some t, some t)], marks := [cellIssued c] } } := by
  simp only [planSync, h.free, hm, h.flowPlan, NCx.tok_of_some h.head, cellIssued, List.isEmpty_iff,
    decide_false, Bool.false_and, Bool.false_eq_true, if_false]
  rfl

theorem planSync_holds {ids : List Nat} {p : Option Tok × Option Tok} (hp : c.d.pend = [p]) (hm : c.d.marks = [ids])
    (ha : ∃ a ∈ c.s.accs, a.id ∈ ids) : planSync c = none := by
  simp [planSync, hp, hm, ha]

theorem planSync_releases {ids : List Nat} {x y : Option Tok} (hr : c.rooms = true) (hp : c.d.pend = [(x, y)]) (hm : c.d.marks = [ids])
    (ha : ∀ a ∈ c.s.accs, a.id ∉ ids) : planSync c =
      some { Fire.of c [] x y with d := { c.d with pend := [], marks := [] }, post := syncCredit c } := by
  have hany : (c.s.accs.any fun a => ids.contains a.id) = false := by simpa using ha
  simp only [planSync, hp, hm, hr, hany, List.head?_cons, Option.getD_some, Bool.not_true, Bool.or_self, Bool.false_eq_true, if_false]
  rfl

end Sync
end Sys2Proof.Machine
end

section
/-!
PROOFS. O30: from the plans of the flow nodes that keep a state to their firings.
-/
namespace Sys2Proof.Machine

section Statement
variable {s : State} {n : Nat} {w : NodeW} {hd : Nat → Tok} {l : List Nat}

/-- A CTRL or an IDX at IN_C lets CARRY select. -/
theorem NodeAt.carrySelects (h : NodeAt s n w l hd) (h2 : 2 ∈ l) (hn : (s.node n).drained = false)
    (hb : (ncx s n w).shows 1 [1, 2, 3, 4] = false) (hk : badKind (ncx s n w) [0, 1] = false) (ht : (hd 2).k = 6 ∨ (hd 2).k = 8) :
    CarrySelects (ncx s n w) (hd 2) where
  rooms := h.rooms
  undrained := hn
  kinds := badKind_concat hk (h.tops 2 h2) (operand_of_control ht).kinds.1
  back := hb
  head := h.tops 2 h2
  control := ht

theorem NodeReady.syncReady (h : NodeReady s n w [0] hd) (hp : (s.node n).pend = []) (ho : (hd 0).operand) :
    SyncReady (ncx s n w) (hd 0) where
  rooms := h.rooms
  free := hp
  head := h.tops 0 (by simp)
  due := h.due
  operand := ho

end Statement

/-- Settles O30: in each case the node's plan is the firing that the rule gives. -/
theorem loopAndStateNodesFire : Obligations.LoopAndStateNodesFire := by
  unfold Obligations.LoopAndStateNodesFire
  intro s n w hd c d imm idxLast
  refine ⟨?source, ?cchain, ?carry, ?exit, ?flush, ?tile, ?fibre, ?ctxsel, ?squash, ?sync⟩
  case source =>
    refine fun hi hn => ⟨fun h h0 => ⟨fun k hs => ?_, fun k hs he => ?_, fun hs => ?_⟩, fun h h0 hs hk => ?_,
      fun k v hv => sourceEmit_of_clean [] hv⟩
    · exact fires_of_plan h.focus rfl (planSource_in_pass hi hn h.rooms h0 (sourceSt_of_source hs))
    · exact fires_of_plan h.focus rfl (planSource_after_pass hi hn h.rooms h0 (sourceSt_of_source hs) he)
    · exact fires_of_plan h.focus rfl (planSource_in_pass hi hn h.rooms h0 (sourceSt_of_none hs h0))
    · exact fires_of_plan h.focus rfl (planSource_triggered hi hn h.rooms h0 hs (h.tops 0 (by simp)) hk)
  case cchain =>
    refine fun hi hn h1 => ⟨fun h h0 => ?_, fun h h0 he hr hk hp => ?_⟩
    · have hA : ∀ t, c.hd 0 = some t → t.k < 10 ∧ t.k ≠ 7 := by
        intro t ht
        rcases h0 with h0 | h0 | ⟨x, hx, ho, h7⟩
        · simp [NCx.hd_of_not_has h0] at ht
        · simp [ht] at h0
        · exact Option.some.inj (hx.symm.trans ht) ▸ ⟨ho.kinds.1, h7⟩
      exact ⟨fun he => fires_of_plan h.focus rfl (planCchain_of_emit hi hn h1 hA (chainEmit_eot h.rooms he)),
        fun he hr hg => fires_of_plan h.focus rfl (planCchain_of_emit hi hn h1 hA (chainEmit_in_pass h.rooms he hr hg))⟩
    · have hA : ∀ t, c.hd 0 = some t → t.k < 10 ∧ t.k ≠ 7 := by
        intro t ht
        obtain rfl : hd 0 = t := Option.some.inj ((h.tops 0 (by simp)).symm.trans ht)
        omega
      have hpass := chainEmit_triggered h.rooms he hr h0 (h.tops 0 (by simp)) hk
      exact ⟨fun hc => fires_of_plan h.focus rfl (planCchain_of_emit hi hn h1 hA (hpass.trans (chainPass_no_trip hp hc))),
        fun l hc hg => fires_of_plan h.focus rfl (planCchain_of_emit hi hn h1 hA (hpass.trans (chainPass_first hp hc hg)))⟩
  case carry =>
    refine fun hn hb => ⟨fun h hk ht => ?_, fun h hk ht ho => ?_⟩
    · have hsel := h.carrySelects (by simp) hn hb hk (ht.imp And.left And.left)
      have hini := carryInit_eq_true (w := w) ht
      exact ⟨fun x h0 _ hx ho => fires_of_plan h.focus rfl (planCarry_initial hsel hini h0 hx ho),
        fun h0 => fires_of_plan h.focus rfl (planCarry_constant hsel hini h0)⟩
    · have hx := h.tops 1 (by simp)
      have hsel := h.carrySelects (by simp) hn hb (badKind_concat hk hx ho.kinds.1) (ht.imp And.left And.left)
      exact fires_of_plan h.focus rfl (planCarry_carried hsel (carryInit_eq_false (w := w) ht) hx ho)
  case exit =>
    intro h hf ht hx h9 hi
    have hrdy : ExitReady c (hd 0) (hd 1) (hd 2) :=
      ⟨h.rooms, hf, h.tops 0 (by simp), h.tops 1 (by simp), h.tops 2 (by simp), ht, hx, h9, hi⟩
    have hnot : ¬idxLast (hd 2) (bitsOf imm 0 2) → exitLast c (hd 2) = false := fun hl => Bool.eq_false_iff.mpr fun e => hl ⟨hi, e⟩
    exact ⟨fun hc hl => fires_of_plan h.focus rfl (planExit_ends_by_ctrl hrdy hc (hnot hl)),
      fun hl => fires_of_plan h.focus rfl (planExit_ends_at_last hrdy hl.2),
      fun hc hl => fires_of_plan h.focus rfl (planExit_goes_on hrdy hc (hnot hl))⟩
  case flush =>
    exact fun h hf hi h0 h1 ha hb => fires_of_plan h.focus rfl (planExit_flush h.rooms hf h0 h1 (h.tops 2 (by simp)) hi ha hb)
  case tile =>
    intro hp h hk g f hs
    have hrdy : TileReady c (hd 0) g f := ⟨h.rooms, hp, h.tops 0 (by simp), hk, hs⟩
    exact ⟨fun hg => fires_of_plan h.focus rfl (planTile_in_group hrdy hg),
      fun hg hf => fires_of_plan h.focus rfl (planTile_ends_group hrdy hg hf),
      fun hg hf => fires_of_plan h.focus rfl (planTile_ends_tile hrdy hg hf)⟩
  case fibre =>
    intro h ha hb p q hs hp hq
    have hrdy : FibreReady c (hd 0) (hd 1) p q := ⟨h.rooms, h.tops 0 (by simp), h.tops 1 (by simp), ha, hb, hs, hp, hq⟩
    have hisect : ∀ {f}, fibrePlan false c = some f → Fires (.isect w) s n w f := fun e => fires_of_plan h.focus rfl e
    have hunion : ∀ {f}, fibrePlan true c = some f → Fires (.union w) s n w f := fun e => fires_of_plan h.focus rfl e
    exact ⟨fun hlt => ⟨hisect (fibrePlan_lower_A hrdy hlt), hunion (fibrePlan_lower_A hrdy hlt)⟩,
      fun hlt => ⟨hisect (fibrePlan_lower_B hrdy hlt), hunion (fibrePlan_lower_B hrdy hlt)⟩,
      fun heq => ⟨hisect (fibrePlan_match hrdy heq), hunion (fibrePlan_match hrdy heq)⟩⟩
  case ctxsel =>
    intro h hk h3 l k hs
    have hp := planCtxsel_latches h.rooms (h.tops 0 (by simp)) h.due hk h3
    rw [hs] at hp
    exact fires_of_plan h.focus rfl hp
  case squash =>
    intro h hs hk _ hb h1
    have ht := h.tops 0 (by simp)
    refine ⟨fun x hm hx ho => ?_, fun hm hx ha => ?_⟩
    · obtain ⟨-, -, -, h5⟩ := ho.kinds
      have hx5 : c.shows 1 [1, 2, 3, 4, 5] = false := by simpa [NCx.shows_of_some hx, h5] using h1
      exact fires_of_plan h.focus rfl ((planSquash_begins hs ht hk hb hx5).trans (squashRest_forwards h.rooms h1 hm hx h5))
    · have hbegin := planSquash_begins hs ht hk hb (NCx.shows_of_none hx _)
      exact fires_of_plan h.focus rfl (hbegin.trans (squashRest_skips h.rooms hm hx ha))
  case sync =>
    refine ⟨fun hp h ho => ⟨fun hm hb => ?_, fun hm hb => ?_, fun hm => ?_⟩, fun t ids h hp hm => ⟨fun ha => ?_, fun ha => ?_⟩⟩
    · exact fires_of_plan h.focus rfl (planSync_wait_passes (h.syncReady hp ho) hm hb)
    · exact stalls_of_plan h.focus rfl (planSync_wait_blocked hp (h.tops 0 (by simp)) ho hm hb)
    · have hsig := planSync_signal (h.syncReady hp ho) hm
      exact ⟨fun he => fires_of_plan h.focus rfl (hsig.trans (if_pos he)),
        fun he => fires_of_plan h.focus rfl (hsig.trans (if_neg he))⟩
    · exact stalls_of_plan h.focus rfl (planSync_holds hp hm ha)
    · exact fires_of_plan h.focus rfl (planSync_releases h.rooms hp hm ha)

end Sys2Proof.Machine
end

section
/-!
PROOFS. The plans of the format and lanes nodes, case by case (R86 to R90, R218, R228 to R238).
-/
namespace Sys2Proof.Machine

variable {c : NCx}

/-! ### The inputs that are channels, and their kinds -/

section Inputs
variable {l : List Nat} {hd : Nat → Tok}

theorem mem_needed {i : Nat} (l : List Nat) : i ∈ c.needed l ↔ i ∈ l ∧ c.has i = true := by
  simp [NCx.needed]

theorem needed_of_has_A (h0 : c.has 0 = true) (l : List Nat) : c.needed (0 :: l) = 0 :: c.needed l := by
  simp [NCx.needed, h0]

theorem needed_A (h0 : c.has 0 = true) (h1 : c.has 1 = false) : c.needed [0, 1] = [0] := by
  simp [NCx.needed, h0, h1]

theorem needed_AB (h0 : c.has 0 = true) (h1 : c.has 1 = true) : c.needed [0, 1] = [0, 1] := by
  simp [NCx.needed, h0, h1]

/-- Heads of assigned kinds are no cause 0x30 (R60). -/
theorem badKind_of_tops (ht : ∀ i ∈ l, c.hd i = some (hd i)) (hk : ∀ i ∈ l, (hd i).k < 10) : badKind c l = false := by
  refine badKind_eq_false_iff.mpr fun i hi t h => ?_
  obtain rfl : hd i = t := Option.some.inj ((ht i hi).symm.trans h)
  exact hk i hi

/-- The delimiters are EOT, EOF and EOS (R34). -/
theorem isDelim_iff {t : Tok} : t.isDelim = true ↔ 2 ≤ t.k ∧ t.k ≤ 4 := by
  simp [Tok.isDelim]
  omega

end Inputs

/-! ### Plans that find DATA at their inputs -/

section Due
variable {l : List Nat} {hd : Nat → Tok} {f : NCx → Option Fire}

/-- The inputs `l` hold the tokens that `hd` gives, all of them DATA; there is space, and no delimiter is due. -/
structure DataDue (c : NCx) (l : List Nat) (hd : Nat → Tok) : Prop where
  rooms : c.rooms = true
  tops  : ∀ i ∈ l, c.hd i = some (hd i)
  due   : heads c true l = .data
  data  : ∀ i ∈ l, (hd i).k = 0

theorem DataDue.shows (h : DataDue c l hd) {i : Nat} (hi : i ∈ l) {ks : List Nat} (h0 : 0 ∉ ks) : c.shows i ks = false := by
  simpa [NCx.shows_of_some (h.tops i hi), h.data i hi] using h0

theorem DataDue.kinds (h : DataDue c l hd) : badKind c l = false :=
  badKind_of_tops h.tops fun i hi => by simp [h.data i hi]

theorem DataDue.clean (h : DataDue c l hd) : anyPoison c l = false := by
  simpa [anyPoison] using fun i hi => h.shows hi (ks := [9]) (by simp)

/-- Operands that a plain operation takes, none of them POISON, go to the operation. -/
theorem plainPlan_of_data {bad : Nat → List Nat} (hk : badKind c l = false) (hs : ∀ i ∈ l, c.shows i (bad i) = false)
    (hp : anyPoison c l = false) (hd : heads c true l = .data) (hr : c.rooms = true) : plainPlan c l bad f = f c := by
  have hany : (l.any fun i => c.shows i (bad i)) = false := by simpa using hs
  simp [plainPlan, hk, hany, hd, hr, hp]

theorem DataDue.plainPlan (h : DataDue c l hd) : Machine.plainPlan c l (fun _ => [6, 7, 8]) f = f c :=
  plainPlan_of_data h.kinds (fun _ hi => h.shows hi (by simp)) h.clean h.due h.rooms

theorem pendFire_of_none (h : c.d.pend = []) : pendFire c = none := by simp [pendFire, h]

/-- A stateful node with nothing pending goes to its operation. -/
theorem DataDue.statePlan (h : DataDue c l hd) (hp : c.d.pend = []) {busy : Bool} {onDelim : List (Nat × Bool) → Tok → Option Fire}
    {onPsn g : Option Fire} : Machine.statePlan c l [6, 7, 8] busy onDelim onPsn g = g := by
  have hany : (l.any fun i => c.shows i [6, 7, 8]) = false := by simpa using fun i hi => h.shows hi (ks := [6, 7, 8]) (by simp)
  simp [Machine.statePlan, pendFire_of_none hp, h.kinds, hany, h.due, h.rooms, h.clean]

/-- A delimiter or HDR goes to the stateful node's own conduct. -/
theorem statePlan_of_delim {bad : List Nat} {k : Nat} {takes : List (Nat × Bool)} {t : Tok} (hp : c.d.pend = []) (hk : badKind c l = false)
    (hs : ∀ i ∈ l, c.shows i bad = false) (hd : heads c true l = .delim k takes t) (hr : c.rooms = true) (h5 : k ≠ 5) {busy : Bool}
    {onDelim : List (Nat × Bool) → Tok → Option Fire} {onPsn g : Option Fire} :
    Machine.statePlan c l bad busy onDelim onPsn g = onDelim takes t := by
  have hany : (l.any fun i => c.shows i bad) = false := by simpa using hs
  simp [Machine.statePlan, pendFire_of_none hp, hk, hany, hd, hr, h5]

/-- A stateful node goes to its operation too on its way through the operand at IN_A. -/
theorem DataDue.midFire (h : DataDue c [0] hd) {onPsn g : Option Fire} : Machine.midFire c onPsn g = g := by
  simp [Machine.midFire, h.rooms, h.shows (i := 0) (ks := [9])]

theorem DataDue.headA (h : DataDue c [0] hd) : c.hd 0 = some (hd 0) := h.tops 0 (by simp)

end Due

/-! ### Lists of lanes -/

theorem nth_eq_getElem {V : Type} (d : V) {l : List V} {j : Nat} (h : j < l.length) : nth d l j = l[j] := by
  induction l generalizing j with
  | nil => simp at h
  | cons v l ih =>
    cases j with
    | zero => rfl
    | succ j => simpa [nth] using ih (by simpa using h)

/-- Lane 0 of a payload with byte lanes is its low byte. -/
theorem ofNat_lane_zero (p : BitVec 128) : BitVec.ofNat 8 (lane 8 p 0) = p.extractLsb' 0 8 := by
  apply BitVec.eq_of_toNat_eq
  simp [lane, bitsOf]

/-! ### Firings -/

@[simp] theorem Fire.flag0_zero (f : Fire) : f.flag0 0 = f := rfl

@[simp] theorem Fire.pending_nil (f : Fire) : f.pending [] = f := by simp [Fire.pending]

/-! ### CVT (R228 to R230) -/

section Cvt
variable {hd : Nat → Tok} {x : Byte}

/-- The firing of a CVT between lanes on its next group of `t`. -/
def cvtGroup (c : NCx) (t : Tok) : Fire :=
  let g := (cvtSt c.d).1
  (dataFire c (if g + 1 = cvtG c.w then [0] else []) (fmtWidth (cvtDst c.w))
    (cvtLanes c g (convLane c.w.mode.toNat (cvtDst c.w) (cvtRnd c.w) (cvtSat c.w)) t)).op
      (if g + 1 = cvtG c.w then .none else .cvt (g + 1) none false)

theorem planCvt_lanes (h : DataDue c [0] hd) (hp : c.d.pend = []) (hm : cvtMx c.w = false) : planCvt c = some (cvtGroup c (hd 0)) := by
  simp only [planCvt, hm, Bool.not_false, if_true, cvtPlain, h.midFire, h.statePlan hp, h.headA, ite_self,
    cvtGroup, decide_eq_true_eq]

/-- The groups of an MX block, over the tokens that it comes in. -/
def mxTotal (w : NodeW) : Nat := cvtG w * (if w.mode.toNat = 11 then 2 else 1)

/-- IN_A, where a firing out of MX takes its token: with the token's last group. -/
def mxTakesA (c : NCx) : List Nat := if ((cvtSt c.d).1 + 1) % cvtG c.w = 0 then [0] else []

/-- The firing of a CVT out of MX on its next group of `t` under scale `x`. -/
def cvtMxGroup (c : NCx) (t : Tok) (x : Byte) (takes : List Nat) : Fire :=
  let g := (cvtSt c.d).1
  (onByte0 (dataFire c takes (fmtWidth (cvtDst c.w))
    (cvtLanes c (g % cvtG c.w) (mxLane c.w.mode.toNat (cvtDst c.w) (cvtRnd c.w) x) t))).op
      (if g + 1 = mxTotal c.w then .none else .cvt (g + 1) (some x) false)

/-- At the start of a block the scale is taken from IN_B. -/
theorem cvtFromMx_starts (h : DataDue c [0, 1] hd) (hp : c.d.pend = []) (hx : (cvtSt c.d).2.1 = none) (hv : laneOk 8 (hd 1) 0 = true) :
    cvtFromMx c = some (cvtMxGroup c (hd 0) ((hd 1).pay.extractLsb' 0 8) (mxTakesA c ++ [1])) := by
  have h0 := h.tops 0 (by simp)
  have h1 := h.tops 1 (by simp)
  have hclean : ((hd 1).k == 9 || !laneOk 8 (hd 1) 0) = false := by simp [h.data 1 (by simp), hv]
  simp only [cvtFromMx, hx, h0, h1, hclean, h.statePlan hp, ofNat_lane_zero, Option.isNone_none, Option.map_some, Bool.not_true,
    Bool.false_and, Bool.false_eq_true, if_false, if_true, decide_eq_true_eq]
  rfl

/-- Within a block the scale is the one held. -/
theorem cvtFromMx_goes_on (h : DataDue c [0] hd) (hx : (cvtSt c.d).2 = (some x, false)) :
    cvtFromMx c = some (cvtMxGroup c (hd 0) x (mxTakesA c)) := by
  have h0 := h.headA
  have hdelim : c.shows 0 [1, 2, 3, 4] = false := h.shows (by simp) (by simp)
  have hoper : c.shows 0 [0, 9] = true := by simp [NCx.shows_of_some h0, h.data 0 (by simp)]
  simp only [cvtFromMx, hx, h0, hdelim, hoper, h.midFire, Option.isNone_some, Bool.not_false, Bool.true_and, Bool.and_true, Bool.and_false,
    Bool.false_eq_true, if_false, if_true, decide_eq_true_eq, List.append_nil]
  rfl

theorem planCvt_from_mx (hm : cvtMx c.w = true) (hsrc : c.w.mode.toNat = 11 ∨ c.w.mode.toNat = 13) : planCvt c = cvtFromMx c := by
  simp [planCvt, hm, hsrc]

theorem planCvt_into_mx (hm : cvtMx c.w = true) (h11 : c.w.mode.toNat ≠ 11) (h13 : c.w.mode.toNat ≠ 13) :
    planCvt c = gatherPlan c c.w.mode.toNat (cvtDst c.w) (mxBlock (cvtDst c.w)) := by
  simp [planCvt, hm, h11, h13]

end Cvt

/-! ### Gathering a block (R218) -/

section Gather
variable {hd : Nat → Tok} {f hf : Nat} {blk : List FV → (Option Tok × Option Tok) × List (Option Tok × Option Tok) × Nat}

/-- The values of a gathering node with those of `t` behind. -/
def gatheredWith (c : NCx) (f : Nat) (t : Tok) : List (BitVec 64) := gathered c.d ++ valuesOf f t

theorem gatherPlan_gathers (h : DataDue c [0] hd) (hp : c.d.pend = []) (hlt : (gatheredWith c f (hd 0)).length < 32) :
    gatherPlan c f hf blk = some ((Fire.of c [0] none none).op (.gather (gatheredWith c f (hd 0)) false)) := by
  unfold gatheredWith at hlt ⊢
  simp only [gatherPlan, h.statePlan hp, h.headA, if_pos hlt]

/-- The firing that forms a block of 32 values. -/
def blockFire (c : NCx) (b : (Option Tok × Option Tok) × List (Option Tok × Option Tok) × Nat) : Fire :=
  (((Fire.of c [0] b.1.1 b.1.2).pending b.2.1).op .none).flag0 b.2.2

theorem gatherPlan_completes (h : DataDue c [0] hd) (hp : c.d.pend = []) (hge : 32 ≤ (gatheredWith c f (hd 0)).length) :
    gatherPlan c f hf blk = some (blockFire c (blk (((gatheredWith c f (hd 0)).take 32).map fun v => (ffOf f).decI v.toNat))) := by
  unfold gatheredWith at hge ⊢
  have hfull : 32 - ((gathered c.d ++ valuesOf f (hd 0)).take 32).length = 0 := by simp at hge ⊢; omega
  simp only [gatherPlan, h.statePlan hp, h.headA, if_neg (Nat.not_lt.mpr hge), hfull,
    List.replicate_zero, List.append_nil]
  rfl

end Gather

/-! ### UNPACKB (R232) -/

section Unpack
variable {hd : Nat → Tok} {held : List Tok} {k : Nat}

/-- The tokens of a dual-exponent block. -/
def blockTokens (w : NodeW) : Nat := if bitOf w.imm.toNat 0 then 1 else 2

theorem planUnpackb_emits (hr : c.rooms = true) (hs : unpackSt c.d = (held, k)) (hl : held.length = blockTokens c.w) :
    planUnpackb c = some (unpackGroup c [] held k) := by
  unfold blockTokens at hl
  simp [planUnpackb, hs, hl, hr]

/-- A token is taken where the block is not held whole: it completes the block, and the first group goes out, or the block waits for its other
token. -/
theorem planUnpackb_takes (h : DataDue c [0] hd) (hp : c.d.pend = []) (hs : unpackSt c.d = (held, 0)) (hl : held.length < blockTokens c.w) :
    planUnpackb c = some (if held.length + 1 = blockTokens c.w then unpackGroup c [0] (held ++ [hd 0]) 0
      else (Fire.of c [0] none none).op (.unpack (held ++ [hd 0]) 0)) := by
  have hne : ¬(held.length = blockTokens c.w ∨ 0 < 0) := by omega
  unfold blockTokens at hne ⊢
  simp only [planUnpackb, hs, if_neg hne, h.statePlan hp, h.headA, List.length_append, List.length_singleton]

end Unpack

/-! ### PERM (R233) -/

section Perm
variable {hd : Nat → Tok}

/-- Every pattern names a lane of a‖b. -/
theorem permPlace_lt (pat arg : Nat) {n k : Nat} (hn : n % 2 = 0) (hk : k < n) : permPlace pat arg n k < 2 * n := by
  have harg : arg % n < n := Nat.mod_lt _ (by omega)
  have hrot : (k + arg) % n < n := Nat.mod_lt _ (by omega)
  unfold permPlace
  split
  · omega
  · omega
  · omega
  · split <;> omega
  · split <;> omega
  · omega
  · omega

/-- The lanes of a token of PERM: an even number. -/
def permLanes (w : NodeW) : Nat := 128 / (8 * 2 ^ bitsOf w.mode.toNat 0 2)

theorem permLanes_even (w : NodeW) : permLanes w % 2 = 0 ∧ 0 < permLanes w := by
  have hlt : bitsOf w.mode.toNat 0 2 < 4 := Nat.mod_lt _ (by decide)
  have heven : ∀ b < 4, 128 / (8 * 2 ^ b) % 2 = 0 ∧ 0 < 128 / (8 * 2 ^ b) := by decide
  exact heven _ hlt

/-- Lane `j` of a‖b. -/
def permLane (c : NCx) (hd : Nat → Tok) (w n j : Nat) : Nat × Nat × Bool :=
  if j < n then (lane w (hd 0).pay j, 0, laneOk w (hd 0) j)
  else if c.has 1 then (lane w (hd 1).pay (j - n), 0, laneOk w (hd 1) (j - n)) else (0, 0, false)

/-- Result lane `k`: a lane of a‖b, by the token at IN_C or by the pattern. -/
def permResult (c : NCx) (hd : Nat → Tok) (k : Nat) : Nat × Nat × Bool :=
  let w := 8 * 2 ^ bitsOf c.w.mode.toNat 0 2
  if c.has 2 then
    if bitOf (lane 8 (hd 2).pay k) 7 then (0, 0, true) else permLane c hd w (permLanes c.w) (lane 8 (hd 2).pay k % 32 % (2 * permLanes c.w))
  else permLane c hd w (permLanes c.w) (permPlace (bitsOf c.w.imm.toNat 0 4) (bitsOf c.w.imm.toNat 4 5) (permLanes c.w) k)

theorem permResult_of_pattern (h2 : c.has 2 = false) : permResult c hd = fun k => permLane c hd (8 * 2 ^ bitsOf c.w.mode.toNat 0 2)
    (permLanes c.w) (permPlace (bitsOf c.w.imm.toNat 0 4) (bitsOf c.w.imm.toNat 4 5) (permLanes c.w) k) := by
  funext k
  simp [permResult, h2]

theorem permResult_of_table (h2 : c.has 2 = true) : permResult c hd = fun k => if bitOf (lane 8 (hd 2).pay k) 7 then (0, 0, true)
    else permLane c hd (8 * 2 ^ bitsOf c.w.mode.toNat 0 2) (permLanes c.w) (lane 8 (hd 2).pay k % 32 % (2 * permLanes c.w)) := by
  funext k
  simp [permResult, h2]

/-- How the model reads lane `j` of a‖b from the heads. -/
theorem permLane_of_heads (h0 : c.hd 0 = some (hd 0)) (h1 : c.has 1 = true → c.hd 1 = some (hd 1)) (w : Nat) {n j : Nat} (hj : j < 2 * n) :
    (match c.hd (if j < n then 0 else 1) with
      | some t => if j < n || c.has 1 then (lane w t.pay (j % n), 0, laneOk w t (j % n)) else (0, 0, false)
      | none => (0, 0, false)) = permLane c hd w n j := by
  by_cases hlt : j < n
  · simp [permLane, hlt, h0, Nat.mod_eq_of_lt hlt]
  · have hmod : j % n = j - n := by rw [Nat.mod_eq_sub_mod (by omega), Nat.mod_eq_of_lt (by omega)]
    cases hb : c.has 1 with
    | true => simp [permLane, hlt, hb, h1 hb, hmod]
    | false => simp [permLane, hlt, hb, NCx.hd_of_not_has hb]

theorem planPerm_of_data (h : DataDue c (c.needed [0, 1, 2]) hd) (h0 : c.has 0 = true) : planPerm c =
    some (dataFire c (c.needed [0, 1, 2]) (8 * 2 ^ bitsOf c.w.mode.toNat 0 2) ((span 0 (permLanes c.w)).map (permResult c hd))) := by
  have htop : ∀ i ∈ [0, 1, 2], c.has i = true → c.hd i = some (hd i) := fun i hi hh => h.tops i ((mem_needed _).mpr ⟨hi, hh⟩)
  obtain ⟨heven, hpos⟩ := permLanes_even c.w
  have hread := fun j => permLane_of_heads (htop 0 (by simp) h0) (htop 1 (by simp)) (8 * 2 ^ bitsOf c.w.mode.toNat 0 2) (n := permLanes c.w) (j := j)
  simp only [planPerm, h.plainPlan]
  congr 2
  refine List.map_congr_left fun k hk => ?_
  have hkn : k < permLanes c.w := by simpa only [permLanes, Nat.zero_add] using (mem_span.mp hk).2
  cases h2 : c.has 2 with
  | true =>
    simp only [permResult, h2, if_true, htop 2 (by simp) h2]
    split
    · rfl
    · exact hread _ (Nat.mod_lt _ (Nat.mul_pos Nat.two_pos hpos))
  | false =>
    simp only [permResult, h2, Bool.false_eq_true, if_false]
    exact hread _ (permPlace_lt _ _ heven hkn)

end Perm

/-! ### REDUCE (R234) -/

section Reduce
variable {hd : Nat → Tok}

/-- The lanes of a token with their validity. -/
def lanesWith (w : NodeW) (t : Tok) : List (Nat × Bool) :=
  (span 0 (fmtLanes w.mode.toNat)).map fun j => (lane (fmtWidth w.mode.toNat) t.pay j, laneOk (fmtWidth w.mode.toNat) t j)

/-- The valid lanes of a token. -/
def validLanes (w : NodeW) (t : Tok) : List Nat := ((lanesWith w t).filter (·.2)).map (·.1)

theorem validLanes_eq (w : NodeW) (t : Tok) : validLanes w t =
    ((span 0 (fmtLanes w.mode.toNat)).filter (laneOk (fmtWidth w.mode.toNat) t)).map (lane (fmtWidth w.mode.toNat) t.pay) := by
  simp [validLanes, lanesWith, List.filter_map, Function.comp_def]

theorem planReduce_of_data (h : DataDue c [0] hd) : planReduce c = some (if validLanes c.w (hd 0) = [] then Fire.both c [0] (bare 0)
    else (Fire.both c [0] (dataTok (fmtWidth c.w.mode.toNat) [((foldLanes c.w.mode.toNat (redCode c.w) (validLanes c.w (hd 0))).1, true)])).flag0
      (foldLanes c.w.mode.toNat (redCode c.w) (validLanes c.w (hd 0))).2) := by
  simp only [planReduce, h.plainPlan, h.headA, ← validLanes_eq, List.isEmpty_iff, apply_ite some]

end Reduce

/-! ### SCAN (R235) -/

section Scan
variable {hd : Nat → Tok}

/-- The last step of a scan takes its flags with it (log entry 31). -/
theorem carryFlags_last {l l2 : List (Nat × Nat × Bool)} {e : Nat × Nat × Bool} (he : e.2.2 = true) (h2 : ∀ x ∈ l2, x.2.2 = false) :
    carryFlags (l ++ e :: l2) = (l ++ (e.1, 0, true) :: l2, e.2.1) := by
  induction l with
  | nil =>
    have hany : (l2.any (·.2.2)) = false := by simpa using h2
    simp [carryFlags, he, hany]
  | cons x l ih => simp [carryFlags, ih, he]

theorem carryFlags_none {l : List (Nat × Nat × Bool)} (h : ∀ x ∈ l, x.2.2 = false) : carryFlags l = (l, 0) := by
  induction l with
  | nil => rfl
  | cons x l ih =>
    obtain ⟨hx, hl⟩ := List.forall_mem_cons.mp h
    simp [carryFlags, hx, ih hl]

/-- The running value at the first lane of a token: the carry held under CARRY, else the initial value. -/
def scanFrom (c : NCx) : Nat := if bitOf c.w.imm.toNat 36 then scanC c else redInit c.w

theorem scanFrom_of_carry {v : BitVec 64} (h : bitOf c.w.imm.toNat 36 = true) (ho : c.d.op = .scan v) : scanFrom c = v.toNat := by
  simp [scanFrom, scanC, h, ho]

theorem scanFrom_of_init (h : ∀ v, bitOf c.w.imm.toNat 36 = true → c.d.op = .scan v → False) : scanFrom c = redInit c.w := by
  unfold scanFrom scanC
  split
  · next h36 =>
    split
    · next v hv => exact (h v h36 hv).elim
    · rfl
  · rfl

/-- The scan of a token. -/
def scanned (c : NCx) (t : Tok) (v : Nat) : List (Nat × Nat × Bool) × Nat :=
  scanLanes c.w.mode.toNat (redCode c.w) (bitOf c.w.imm.toNat 35) (lanesWith c.w t) v

/-- The carry that a SCAN keeps. -/
def scanKept (c : NCx) (v : Nat) : OpSt := if bitOf c.w.imm.toNat 36 then .scan (BitVec.ofNat 64 v) else .none

theorem planScan_of_data (h : DataDue c [0] hd) (hp : c.d.pend = []) :
    let r := scanned c (hd 0) (scanFrom c)
    let q := if bitOf c.w.imm.toNat 36 && bitOf c.w.imm.toNat 35 then carryFlags r.1 else (r.1, 0)
    planScan c = some (((dataFire c [0] (fmtWidth c.w.mode.toNat) q.1).flag0 q.2).op (scanKept c r.2)) := by
  simp only [planScan, h.statePlan hp, h.headA]
  rfl

theorem planScan_lanes (h : DataDue c [0] hd) (hp : c.d.pend = []) (hx : bitOf c.w.imm.toNat 35 = false ∨ bitOf c.w.imm.toNat 36 = false) :
    planScan c = some ((dataFire c [0] (fmtWidth c.w.mode.toNat) (scanned c (hd 0) (scanFrom c)).1).op
      (scanKept c (scanned c (hd 0) (scanFrom c)).2)) := by
  have hboth : (bitOf c.w.imm.toNat 36 && bitOf c.w.imm.toNat 35) = false := by rcases hx with hx | hx <;> simp [hx]
  simp [planScan_of_data h hp, hboth]

/-- An exclusive scan that carries: the flags of its last step go to byte lane 0 (log entry 31). -/
theorem planScan_exclusive_carry (h : DataDue c [0] hd) (hp : c.d.pend = []) (h35 : bitOf c.w.imm.toNat 35 = true)
    (h36 : bitOf c.w.imm.toNat 36 = true) {l : List (Nat × Nat × Bool)} {fl : Nat}
    (hq : carryFlags (scanned c (hd 0) (scanFrom c)).1 = (l, fl)) :
    planScan c = some (((dataFire c [0] (fmtWidth c.w.mode.toNat) l).flag0 fl).op
      (.scan (BitVec.ofNat 64 (scanned c (hd 0) (scanFrom c)).2))) := by
  simp [planScan_of_data h hp, h35, h36, hq, scanKept]

end Scan

/-! ### ACC (R236) -/

section Acc
variable {hd : Nat → Tok} {a : List Nat} {p any : Bool}

theorem accSt_of_none (h : c.d.op = .none) (ha : accSt c = (a, p, any)) :
    a = List.replicate (fmtLanes c.w.mode.toNat) (redInit c.w) ∧ p = false ∧ any = false := by
  simpa [accSt, h, eq_comm] using ha

/-- The step of each accumulator lane: with the operand's lane, or none where that is not valid. -/
def accSteps (c : NCx) (a : List Nat) (t : Tok) : List (Nat × Nat) :=
  a.zipIdx.map fun e => if laneOk (fmtWidth c.w.mode.toNat) t e.2
    then redOp c.w.mode.toNat (redCode c.w) e.1 (lane (fmtWidth c.w.mode.toNat) t.pay e.2) else (e.1, 0)

/-- The accumulator lanes after a step. -/
def accAfter (c : NCx) (a : List Nat) (t : Tok) : List Nat := (accSteps c a t).map (·.1)

theorem length_accAfter (t : Tok) : (accAfter c a t).length = a.length := by
  simp [accAfter, accSteps]

theorem nth_accAfter (t : Tok) {j : Nat} (hj : j < a.length) : nth 0 (accAfter c a t) j = if laneOk (fmtWidth c.w.mode.toNat) t j
    then (redOp c.w.mode.toNat (redCode c.w) (nth 0 a j) (lane (fmtWidth c.w.mode.toNat) t.pay j)).1 else nth 0 a j := by
  rw [nth_eq_getElem 0 hj, nth_eq_getElem 0 (by rwa [length_accAfter])]
  simp only [accAfter, accSteps, List.getElem_map, List.getElem_zipIdx, Nat.zero_add, apply_ite Prod.fst]

theorem planAcc_accumulates (h : DataDue c [0] hd) (hp : c.d.pend = []) (ha : accSt c = (a, p, any)) : planAcc c =
    some { (Fire.of c [0] none none).op (.accum ((accAfter c a (hd 0)).map (BitVec.ofNat 64)) p true) with
      flags := (accFlags c.w.mode.toNat (accSteps c a (hd 0)) (Fire.of c [0] none none)).flags } := by
  have hlanes : (accAfter c a (hd 0)).map (BitVec.ofNat 64) = (accSteps c a (hd 0)).map fun r => BitVec.ofNat 64 r.1 := by simp [accAfter]
  simp only [planAcc, h.statePlan hp, h.headA, ha, hlanes]
  rfl

/-- The delimiter of its level ends an accumulation: ACC emits it, and with flag bit 36 the delimiter behind it. -/
theorem planAcc_ends {t : Tok} {takes : List (Nat × Bool)} (hr : c.rooms = true) (ht : c.hd 0 = some t) (hp : c.d.pend = [])
    (hk : t.k = if bitOf c.w.imm.toNat 35 then 3 else 2) (hd : heads c true [0] = .delim t.k takes t) (ha : accSt c = (a, p, any)) :
    planAcc c = some ((({ Fire.both c [] (if p then poisonTok else dataTok (fmtWidth c.w.mode.toNat) (a.map fun v => (v, true))) with
      takes := takes }.pending (if bitOf c.w.imm.toNat 36 then [(some t, some t)] else [])).op .none)) := by
  have hk23 : t.k = 2 ∨ t.k = 3 := by rw [hk]; split <;> simp
  have hshow : ∀ i ∈ [0], c.shows i [6, 7, 8] = false := by rcases hk23 with e | e <;> simp [NCx.shows_of_some ht, e]
  have h4 : (t.k == 4) = false := by rcases hk23 with e | e <;> simp [e]
  simp only [planAcc, statePlan_of_delim hp (badKind_of_some ht (by omega)) hshow hd hr (by omega), ← hk, accTok, ha, h4, Bool.or_false, if_true]
  cases bitOf c.w.imm.toNat 36 with
  | true => rfl
  | false =>
    rw [if_neg Bool.false_ne_true, if_neg Bool.false_ne_true, Fire.pending_nil]
    rfl

end Acc

/-! ### HDR (R237) -/

section Hdr
variable {t x : Tok} {k : Nat} {takes : List (Nat × Bool)}

/-- What HDR has before it: `t` at IN_A, no head of a reserved kind, and no CTRL, COORD or IDX at IN_B. -/
structure HdrAt (c : NCx) (t : Tok) : Prop where
  rooms : c.rooms = true
  headA : c.hd 0 = some t
  kinds : badKind c (c.needed [0, 1]) = false
  scale : (c.has 1 && c.shows 1 [6, 7, 8]) = false

/-- HDR forwards DATA, COORD and IDX (R237). -/
def Tok.plain (t : Tok) : Prop := t.k = 0 ∨ t.k = 7 ∨ t.k = 8

theorem Tok.plain.kinds (h : t.plain) : t.isDelim = false ∧ t.k ≠ 1 ∧ t.k ≠ 4 ∧ t.k ≠ 5 ∧ t.k ≠ 6 ∧ t.k < 10 := by
  rcases h with h | h | h <;> simp [Tok.isDelim, h]

/-- IN_A holds no token at a sticky count of 15, or no delimiter is due that is matched with what it holds. -/
def HdrAlone (c : NCx) : Prop := c.held 0 = false ∨ heads c false (c.needed [0, 1]) = .data

theorem planHdr_removes (h : HdrAt c t) (hk : t.k = 1) : planHdr c = some (Fire.of c [0] none none) := by
  obtain ⟨hr, ht, hb, hs⟩ := h
  simp [planHdr, hb, hs, ht, hr, hk, Tok.isDelim]

/-- The header with fields from the immediate and this scale. -/
def headerOf (w : NodeW) (scale : Nat) : Tok :=
  let i := w.imm.toNat
  mkTok 1 (BitVec.ofNat 128 (bitsOf i 0 4 + bitsOf i 4 16 * 2 ^ 16 + bitsOf i 20 16 * 2 ^ 32 + scale * 2 ^ 64)) 0

theorem hdrTok_of_unit (h1 : c.has 1 = false) : hdrTok c = headerOf c.w 0x3F800000 := by
  simp [hdrTok, headerOf, h1]

theorem hdrTok_of_scale (h1 : c.has 1 = true) (hx : c.hd 1 = some x) (hk : x.k = 0) : hdrTok c = headerOf c.w (lane 32 x.pay 0) := by
  simp [hdrTok, headerOf, h1, hx, hk]

theorem planHdr_passes (h : HdrAt c t) (hk : t.plain) (ha : HdrAlone c) (hi : hdrStart c.d = false ∨ bitOf c.w.imm.toNat 36 = true) :
    planHdr c = some (Fire.both c [0] t) := by
  obtain ⟨hr, ht, hb, hs⟩ := h
  obtain ⟨hdel, h1, h4, h5, -⟩ := hk.kinds
  have hpass : passHead c [(0, false)] = some (Fire.both c [0] t) := by simp [passHead, ht, beq_eq_false_iff_ne.mpr h4, Fire.both, Fire.of]
  have hno : (hdrStart c.d && !bitOf c.w.imm.toNat 36) = false := by rcases hi with hi | hi <;> simp [hi]
  rcases ha with ha | ha <;> simp [planHdr, hb, hs, ht, hr, hdel, h1, h5, hno, ha, hpass]

/-- At START the header goes first, where IN_B is none or shows the DATA of its scale. -/
theorem planHdr_inserts (h : HdrAt c t) (hk : t.plain) (ha : HdrAlone c) (hs : hdrStart c.d = true) (h36 : bitOf c.w.imm.toNat 36 = false)
    (hB : c.has 1 = true → ∃ x, c.hd 1 = some x ∧ x.k = 0) :
    planHdr c = some ((Fire.both c (if c.has 1 then [1] else []) (hdrTok c)).op (.hdr false)) := by
  have hfit : (c.has 1 && c.shows 1 [1, 2, 3, 4]) = false ∧ (c.has 1 && ((c.hd 1).isNone || c.shows 1 [5])) = false := by
    cases hc : c.has 1 with
    | false => simp
    | true =>
      obtain ⟨x, hx, hxk⟩ := hB hc
      simp [NCx.shows_of_some hx, hx, hxk]
  obtain ⟨hr, ht, hb, hsc⟩ := h
  obtain ⟨hdel, h1, -, h5, h6, -⟩ := hk.kinds
  rcases ha with ha | ha <;> simp [planHdr, hb, hsc, ht, hr, hdel, h1, h5, h6, hs, h36, ha, hfit]

theorem planHdr_inserts_unit (h : HdrAt c t) (hk : t.plain) (ha : HdrAlone c) (hs : hdrStart c.d = true)
    (h36 : bitOf c.w.imm.toNat 36 = false) (h1 : c.has 1 = false) :
    planHdr c = some ((Fire.both c [] (headerOf c.w 0x3F800000)).op (.hdr false)) := by
  simp [planHdr_inserts h hk ha hs h36, hdrTok_of_unit, h1]

theorem planHdr_inserts_scale (h : HdrAt c t) (hk : t.plain) (ha : HdrAlone c) (hs : hdrStart c.d = true)
    (h36 : bitOf c.w.imm.toNat 36 = false) (h1 : c.has 1 = true) (hx : c.hd 1 = some x) (hxk : x.k = 0) :
    planHdr c = some ((Fire.both c [1] (headerOf c.w (lane 32 x.pay 0))).op (.hdr false)) := by
  simp [planHdr_inserts h hk ha hs h36 fun _ => ⟨x, hx, hxk⟩, hdrTok_of_scale h1 hx hxk, h1]

/-- A delimiter at IN_A is the one that the heads call for: a sticky queue holds none. -/
theorem heads_of_delim {l : List Nat} (hl : ∀ i ∈ l, (c.hd i).isSome) (ht : c.hd 0 = some t) (hk : t.isDelim = true) :
    heads c false (0 :: l) = joinAll c (0 :: l) t := by
  have hheld : c.held 0 = false := by simp [NCx.held, ht, Tok.holds, hk]
  have hsome : ((0 :: l).any fun i => (c.hd i).isNone) = false := by
    simpa [ht] using fun i hi => Option.isSome_iff_ne_none.mp (hl i hi)
  have hfirst : headWith c (0 :: l) (fun t => t.isDelim || (false && t.k == 1)) = some t := by simp [headWith, hheld, ht, hk]
  rw [heads, hsome, hfirst]
  rfl

/-- A delimiter at IN_A, or one behind the token that IN_A holds, is forwarded; EOT and EOS set START again. -/
theorem planHdr_forwards_delim {u : Tok} (h : HdrAt c t) (h0 : c.has 0 = true) (hall : ∀ i ∈ c.needed [0, 1], (c.hd i).isSome)
    (ht : t.isDelim = true ∨ t.plain ∧ c.held 0 = true) (hd : heads c false (c.needed [0, 1]) = .delim k takes u) (h5 : k ≠ 5) :
    planHdr c = some ((delimFire c takes u).op (if k = 2 ∨ k = 4 then .hdr true else c.d.op)) := by
  obtain ⟨hr, hA, hb, hs⟩ := h
  rcases ht with hdel | ⟨hpl, hheld⟩
  · have hjoin : joinAll c (c.needed [0, 1]) t = .delim k takes u := by
      rw [needed_of_has_A h0] at hall hd ⊢
      exact (heads_of_delim (fun i hi => hall i (List.mem_cons_of_mem _ hi)) hA hdel).symm.trans hd
    simp [planHdr, hb, hs, hA, hdel, hjoin, hdrDelim, hr, h5]
  · obtain ⟨hdel, h1, -, h5', -⟩ := hpl.kinds
    have hsome : ((c.needed [0, 1]).all fun i => (c.hd i).isSome) = true := List.all_eq_true.mpr hall
    simp [planHdr, hb, hs, hA, hdel, h1, h5', hheld, hsome, hd, hdrDelim, hr, h5]

end Hdr

/-! ### SPLAT (R238) -/

section Splat
variable {t : Tok}

/-- Every lane holds the value of `r`, with its flags. -/
def splatFill (c : NCx) (r : Nat × Nat) : Fire :=
  dataFire c [0] (fmtWidth c.w.mode.toNat) (List.replicate (fmtLanes c.w.mode.toNat) (r.1, r.2, true))

/-- Every lane holds an integer, in the format of the node. -/
def splatNum (c : NCx) (v : Int) : Fire :=
  if c.w.mode.toNat < 8 then splatFill c (wrapT c.w.mode.toNat v, 0)
  else splatFill c ((ffOf c.w.mode.toNat).round 0 false (decide (v < 0)) v.natAbs false 0)

/-- The firing of SPLAT on an operand. -/
def splatFire (c : NCx) (t : Tok) : Fire :=
  let i := c.w.imm.toNat
  let width := fmtWidth c.w.mode.toNat
  if t.k = 6 then splatNum c t.ctl
  else if t.k = 7 then splatNum c t.sb.toNat
  else if t.k = 8 then splatNum c (sext 32 (bitsOf t.pay.toNat (32 * bitsOf i 5 2) 32))
  else if laneOk width t (bitsOf i 0 5) then splatFill c (lane width t.pay (bitsOf i 0 5), 0)
  else Fire.both c [0] (bare 0)

theorem planSplat_of_operand (hr : c.rooms = true) (ht : c.hd 0 = some t) (hd : heads c true [0] = .data) (hk : t.k < 9) :
    planSplat c = some (splatFire c t) := by
  have hpsn : anyPoison c [0] = false := by simp [anyPoison, NCx.shows_of_some ht]; omega
  have hshow : ∀ i ∈ [0], c.shows i [] = false := by simp [NCx.shows_of_some ht]
  simp only [planSplat, plainPlan_of_data (bad := fun _ => []) (badKind_of_some ht (by omega)) hshow hpsn hd hr, ht, splatFire, splatNum,
    ← apply_ite (splatFill c)]
  rfl

end Splat

end Sys2Proof.Machine
end

section
/-!
PROOFS. O28: from the plans of the format and lanes nodes to their firings.
-/
namespace Sys2Proof.Machine

section Statement
variable {s : State} {n : Nat} {w : NodeW} {hd : Nat → Tok} {l : List Nat}

theorem NodeReady.dataDue (h : NodeReady s n w l hd) (hk : ∀ i ∈ l, (hd i).k = 0) : DataDue (ncx s n w) l hd :=
  ⟨h.rooms, h.tops, h.due, hk⟩

/-- What HDR has before it, from the heads of its channels. -/
theorem NodeAt.hdrAt (h : NodeAt s n w ((ncx s n w).needed [0, 1]) hd) (h0 : (ncx s n w).has 0 = true) (hA : (hd 0).k < 10)
    (hB : (ncx s n w).has 1 = true → 6 ≠ (hd 1).k ∧ 7 ≠ (hd 1).k ∧ 8 ≠ (hd 1).k ∧ (hd 1).k < 10) : HdrAt (ncx s n w) (hd 0) where
  rooms := h.rooms
  headA := h.tops 0 (by simp [mem_needed, h0])
  kinds := badKind_of_tops h.tops fun i hi => by
    obtain ⟨hm, hc⟩ := (mem_needed _).mp hi
    simp only [List.mem_cons, List.not_mem_nil, or_false] at hm
    rcases hm with rfl | rfl
    · exact hA
    · obtain ⟨-, -, -, hlt⟩ := hB hc
      exact hlt
  scale := by
    cases h1 : (ncx s n w).has 1 with
    | false => rfl
    | true =>
      obtain ⟨h6, h7, h8, -⟩ := hB h1
      simp [NCx.shows_of_some (h.tops 1 (by simp [mem_needed, h1])), h6.symm, h7.symm, h8.symm]

end Statement

/-- Settles O28, node by node: on what the statement puts before it each plan is the firing stated. -/
theorem formatNodesFire : Obligations.FormatNodesFire := by
  unfold Obligations.FormatNodesFire
  intro s n w hd c d m imm dst k groups data lanesOf hp
  have hdata : data → DataDue c [0] hd := fun h => h.1.dataDue (by simpa using h.2)
  refine ⟨?cvt, ?mx, ?gather, ?unpack, ?perm, ?reduce, ?scan, ?acc, ?hdr, ?splat⟩
  case cvt =>
    exact fun hm h => fires_of_plan h.1.focus rfl (planCvt_lanes (hdata h) hp hm)
  case mx =>
    intro hm hsrc
    have hplan : planCvt c = cvtFromMx c := planCvt_from_mx hm hsrc
    refine ⟨fun hx h h0 h1 hv => ?_, fun x hx h => ?_⟩
    · have hdue : DataDue c [0, 1] hd := h.dataDue (by simp [h0, h1])
      exact fires_of_plan h.focus rfl (hplan.trans (cvtFromMx_starts hdue hp hx hv))
    · exact fires_of_plan h.1.focus rfl (hplan.trans (cvtFromMx_goes_on (hdata h) hx))
  case gather =>
    refine ⟨fun hm h11 h13 h => ?_, fun h => ?_⟩
    · have hplan : planCvt c = gatherPlan c m dst (mxBlock dst) := planCvt_into_mx hm h11 h13
      exact ⟨fun hlt => fires_of_plan h.1.focus rfl (hplan.trans (gatherPlan_gathers (hdata h) hp hlt)),
        fun hge => fires_of_plan h.1.focus rfl (hplan.trans (gatherPlan_completes (hdata h) hp hge))⟩
    · exact ⟨fun hlt => fires_of_plan h.1.focus rfl (gatherPlan_gathers (hdata h) hp hlt),
        fun hge => fires_of_plan h.1.focus rfl (gatherPlan_completes (hdata h) hp hge)⟩
  case unpack =>
    intro held k hs full
    refine ⟨fun h hk hl => ?_, fun h hk hl => ?_, fun h hl => fires_of_plan h.focus rfl (planUnpackb_emits h.rooms hs hl)⟩
    · have htake := planUnpackb_takes (hdata h) hp (hk ▸ hs) (Nat.lt_of_succ_le (Nat.le_of_eq hl))
      exact fires_of_plan h.1.focus rfl (htake.trans (congrArg some (if_pos hl)))
    · have htake := planUnpackb_takes (hdata h) hp (hk ▸ hs) (Nat.lt_of_succ_lt hl)
      exact fires_of_plan h.1.focus rfl (htake.trans (congrArg some (if_neg (Nat.ne_of_lt hl))))
  case perm =>
    intro lw nl ns pick h hk h0
    have h0' : c.has 0 = true := ((mem_needed _).mp h0).2
    have hplan := planPerm_of_data (h.dataDue hk) h0'
    have hpick : pick = permLane c hd lw nl := funext fun j => by simp [pick, permLane, ns, h0', mem_needed]
    rw [hpick]
    refine ⟨fun h2 => ?_, fun h2 => ?_⟩
    · have h2' : c.has 2 = false := by simpa [ns, mem_needed] using h2
      exact fires_of_plan h.focus rfl (permResult_of_pattern h2' ▸ hplan)
    · exact fires_of_plan h.focus rfl (permResult_of_table ((mem_needed _).mp h2).2 ▸ hplan)
  case reduce =>
    intro h l r
    have hplan := planReduce_of_data (hdata h)
    exact ⟨fun hl => fires_of_plan h.1.focus rfl (hplan.trans (congrArg some (if_pos hl))),
      fun hl => fires_of_plan h.1.focus rfl (hplan.trans (congrArg some (if_neg hl)))⟩
  case scan =>
    intro h start r
    have hr : r = scanned c (hd 0) (scanFrom c) := by
      refine congrArg (scanned c (hd 0)) ?_
      split
      · next v h36 hv => exact (scanFrom_of_carry (c := c) h36 hv).symm
      · next hno => exact (scanFrom_of_init (c := c) hno).symm
    rw [hr]
    refine ⟨fun hx => fires_of_plan h.1.focus rfl (planScan_lanes (hdata h) hp hx), fun h35 h36 => ⟨fun l e l2 hl he h2 => ?_, fun hv => ?_⟩⟩
    · have hq := (congrArg carryFlags hl).trans (carryFlags_last he h2)
      exact fires_of_plan h.1.focus rfl (planScan_exclusive_carry (hdata h) hp h35 h36 hq)
    · have hplan := planScan_exclusive_carry (hdata h) hp h35 h36 (carryFlags_none hv)
      exact fires_of_plan h.1.focus rfl hplan
  case acc =>
    intro a p any ha
    refine ⟨fun ho => ?_, fun h => ?_, fun h hk takes hh => ?_⟩
    · exact accSt_of_none ho ha
    · exact ⟨accAfter c a (hd 0), _, length_accAfter _, fun j hj => nth_accAfter _ hj,
        fires_of_plan h.1.focus rfl (planAcc_accumulates (hdata h) hp ha)⟩
    · exact fires_of_plan h.focus rfl (planAcc_ends h.rooms (h.tops 0 (by simp)) hp hk hh ha)
  case hdr =>
    intro head plain alone
    have hhead : head = headerOf w := rfl
    rw [hhead]
    have hplain : plain → (hd 0).k < 10 := fun h => by obtain h | h | h := h <;> omega
    refine ⟨fun h h0 h1 ha => ?_, fun h h0 h1 ha hk hB h36 hs => ?_, fun h h0 hk hB k takes t hh h5 => ?_⟩
    · have hns : NodeAt s n w (c.needed [0, 1]) hd := (needed_A h0 h1).symm ▸ h
      have hat : (hd 0).k < 10 → HdrAt c (hd 0) := fun hk => hns.hdrAt h0 hk fun e => absurd (h1.symm.trans e) Bool.false_ne_true
      exact ⟨fun hk => fires_of_plan h.focus rfl (planHdr_removes (hat (by omega)) hk),
        fun hk h36 hs => fires_of_plan h.focus rfl (planHdr_inserts_unit (hat (hplain hk)) hk ha hs h36 h1),
        fun hk _ hs => fires_of_plan h.focus rfl (planHdr_passes (hat (hplain hk)) hk ha (.inl hs)),
        fun hk h36 => fires_of_plan h.focus rfl (planHdr_passes (hat (hplain hk)) hk ha (.inr h36))⟩
    · have hns : NodeAt s n w (c.needed [0, 1]) hd := (needed_AB h0 h1).symm ▸ h
      have hat : HdrAt c (hd 0) := hns.hdrAt h0 (hplain hk) (by simp [hB])
      exact fires_of_plan h.focus rfl (planHdr_inserts_scale hat hk ha hs h36 h1 (h.tops 1 (by simp)) hB)
    · have hkA : (hd 0).k < 10 := hk.elim (by omega) fun e => hplain e.1
      have hdel : (hd 0).isDelim = true ∨ (hd 0).plain ∧ c.held 0 = true := hk.imp_left isDelim_iff.mpr
      have hall : ∀ i ∈ c.needed [0, 1], (c.hd i).isSome := fun i hi => by simp [c, h.tops i hi]
      have h0' : c.has 0 = true := ((mem_needed _).mp h0).2
      exact fires_of_plan h.focus rfl (planHdr_forwards_delim (NodeAt.hdrAt h h0' hkA hB) h0' hall hdel hh h5)
  case splat =>
    intro h fill num
    have hplan : (hd 0).k < 9 → planSplat c = some (splatFire c (hd 0)) := planSplat_of_operand h.rooms (h.tops 0 (by simp)) h.due
    have hfires : ∀ {f : Fire}, (hd 0).k < 9 → splatFire c (hd 0) = f → Fires (.splat w) s n w f := fun hk e =>
      fires_of_plan h.focus rfl ((hplan hk).trans (congrArg some e))
    refine ⟨fun hk => ?_, fun hk => ?_, fun hk => ?_, fun hk hv => ?_, fun hk hv => ?_⟩
    · exact hfires (by omega) (by simp only [splatFire, hk]; rfl)
    · exact hfires (by omega) (by simp only [splatFire, hk]; rfl)
    · exact hfires (by omega) (by simp only [splatFire, hk]; rfl)
    · exact hfires (by omega) (by simp only [splatFire, hk]; exact if_pos hv)
    · exact hfires (by omega) (by simp only [splatFire, hk]; exact if_neg (Bool.eq_false_iff.mp hv))

end Sys2Proof.Machine
end

section
/-!
PROOFS. The plans of the lane nodes on operands: lane by lane, as a comparison, and as a selection (R215, R216, R220 to R223).
-/
namespace Sys2Proof.Machine

/-! ### Bits and lanes -/

theorem bitOf_eq_testBit (v i : Nat) : bitOf v i = v.testBit i := by
  rw [Nat.testBit_eq_decide_div_mod_eq, bitOf, Nat.shiftRight_eq_div_pow]

@[simp] theorem length_span (a n : Nat) : (span a n).length = n := by
  induction n generalizing a with
  | zero => rfl
  | succ n ih => simp [span, ih]

theorem getElem_span {a n k : Nat} (h : k < (span a n).length) : (span a n)[k] = a + k := by
  induction n generalizing a k with
  | zero => simp at h
  | succ n ih =>
    cases k with
    | zero => rfl
    | succ k =>
      have hk : k < (span (a + 1) n).length := by simpa using h
      calc (span (a + 1) n)[k] = a + 1 + k := ih hk
        _ = a + (k + 1) := by omega

theorem fmtWidth_pos (f : Nat) : 0 < fmtWidth f := by
  unfold fmtWidth
  split <;> decide

/-! ### Integer lanes without modifiers (R221) -/

section IntLane
variable {w : NodeW}

theorem modInt_of_plain (hn : w.n = false) (f i : Nat) (x : Int) : modInt w f i x = x := by
  simp [modInt, hn]

theorem scaleOf_of_plain (hn : w.n = false) : scaleOf w = 0 := by
  simp [scaleOf, hn]

@[simp] theorem scaleInt_zero (x : Int) : scaleInt 0 x = x := by
  simp [scaleInt]

theorem clampMod_of_plain (hn : w.n = false) (x : Int) : clampMod w x = x := by
  simp [clampMod, hn]

theorem wrapT_lt (f : Nat) (x : Int) : wrapT f x < 2 ^ fmtWidth f := by
  have hpos : (0 : Int) < (2 ^ fmtWidth f : Nat) := by exact_mod_cast Nat.two_pow_pos _
  have hlt := Int.emod_lt_of_pos x hpos
  have hge := Int.emod_nonneg x (Int.ne_of_gt hpos)
  rw [wrapT, cutInt]
  omega

theorem satT_lt (f : Nat) (x : Int) : satT f x < 2 ^ fmtWidth f := wrapT_lt f _

/-- A lane as its format reads it is congruent to its bits. -/
theorem laneInt_emod (f v : Nat) : laneInt f v % (2 ^ fmtWidth f : Nat) = (v : Int) % (2 ^ fmtWidth f : Nat) := by
  unfold laneInt sext
  split
  · split
    · rfl
    · exact Int.sub_emod_right _ _
  · rfl

/-- Reading a lane and wrapping it gives its bits back. -/
theorem wrapT_laneInt {f v : Nat} (hv : v < 2 ^ fmtWidth f) : wrapT f (laneInt f v) = v := by
  rw [wrapT, cutInt, laneInt_emod, Int.emod_eq_of_lt (Int.natCast_nonneg v) (by exact_mod_cast hv), Int.toNat_natCast]

/-- Without N a lane is the exact result, saturated or wrapped. -/
theorem intLane_of_plain (hn : w.n = false) (f : Nat) (sat : Bool) (op : Nat → Int → Int → Int → Int) (x y z : Nat) :
    intLane w f sat op [x, y, z] = (let r := op f (laneInt f x) (laneInt f y) (laneInt f z); if sat then satT f r else wrapT f r, 0) := by
  have hlt : ∀ r, (if sat then satT f r else wrapT f r) < 2 ^ fmtWidth f := fun r => by
    cases sat
    · exact wrapT_lt f r
    · exact satT_lt f r
  simp only [intLane, modInt_of_plain hn, scaleOf_of_plain hn, scaleInt_zero, clampMod_of_plain hn, wrapT_laneInt (hlt _), nth]

end IntLane

/-! ### Floating-point lanes without modifiers (R225) -/

section FpLane
variable {w : NodeW}

theorem modFp_of_plain (hn : w.n = false) (i : Nat) (v : FV) : modFp w i v = v := by
  simp [modFp, hn]

theorem clampFp_of_plain (hn : w.n = false) (f r : Nat) : clampFp w f r = r := by
  simp [clampFp, hn]

/-- Without N a lane is the operation on its operands as they are read, rounded once. -/
theorem fpLane_of_plain (hn : w.n = false) (op : FF → Nat → Int → List FV → Nat → Nat × Nat) (xs : List Nat) : ∃ key,
    fpLane w op xs = op (ffOf (fpFmt w)) (bitsOf w.mode.toNat 0 2) 0 (xs.map (ffOf (fpFmt w)).decI) key := by
  have hread : (xs.zipIdx.map fun e => modFp w e.2 ((ffOf (fpFmt w)).decI e.1)) = xs.map (ffOf (fpFmt w)).decI := by
    calc (xs.zipIdx.map fun e => modFp w e.2 ((ffOf (fpFmt w)).decI e.1))
        = (xs.zipIdx.map Prod.fst).map (ffOf (fpFmt w)).decI := by simp only [modFp_of_plain hn, List.map_map, Function.comp_def]
      _ = xs.map (ffOf (fpFmt w)).decI := by rw [List.zipIdx_map_fst]
  refine ⟨((nth 0 xs 0 * 16 + w.mode.toNat) * 64 + bitsOf w.imm.toNat 28 6) * 2 + w.n.toNat, ?_⟩
  simp only [fpLane, hread, scaleOf_of_plain hn, clampFp_of_plain hn]

end FpLane

/-! ### Operands at the inputs that a node needs (R71, R220) -/

section Operands
variable {c : NCx} {l : List Nat} {i : Nat}

/-- What an immediate stands in for is not needed. -/
theorem useImm_of_needs_imm (h : i ∈ laneNeeds c l (some i)) (h2 : i ≠ 2) : useImm c = false := by
  cases hu : useImm c with
  | false => rfl
  | true => simp [laneNeeds, hu, h2] at h

theorem wholeOf_of_top {f : Nat} {t : Tok} (h : c.hd i = some t) (hu : useImm c = false ∨ i ≠ 1) : wholeOf c f i = t := by
  have hno : (useImm c && i == 1) = false := by rcases hu with hu | hu <;> simp [hu]
  simp [wholeOf, hno, h]

theorem wholeOf_of_imm {f : Nat} (hu : useImm c = true) : wholeOf c f 1 =
    dataTok (fmtWidth f) (List.replicate (fmtLanes f) (immLane f (bitsOf c.w.imm.toNat 0 32), true)) := by
  simp [wholeOf, hu]

end Operands

section Ready
variable {s : State} {n : Nat} {w : NodeW} {hd : Nat → Tok} {l : List Nat} {f : NCx → Option Fire}

/-- Operands of kinds that the operation takes, none of them POISON, go to it. -/
theorem NodeReady.plainPlan {bad : Nat → List Nat} (h : NodeReady s n w l hd) (hk : ∀ i ∈ l, (hd i).k < 9 ∧ (hd i).k ∉ bad i) :
    Machine.plainPlan (ncx s n w) l bad f = f (ncx s n w) := by
  have hkind : badKind (ncx s n w) l = false := badKind_of_tops h.tops fun i hi => Nat.lt_succ_of_lt (hk i hi).1
  have hbad : ∀ i ∈ l, (ncx s n w).shows i (bad i) = false := fun i hi => by
    simpa [NCx.shows_of_some (h.tops i hi)] using (hk i hi).2
  have hclean : anyPoison (ncx s n w) l = false := by
    refine List.any_eq_false.mpr fun i hi => ?_
    obtain ⟨hlt, -⟩ := hk i hi
    simp only [NCx.shows_of_some (h.tops i hi), List.contains_cons, List.contains_nil, Bool.or_false, beq_iff_eq]
    omega
  exact plainPlan_of_data hkind hbad hclean h.due h.rooms

/-- A lane node takes DATA, and CTRL at the control input of a two-entry node. -/
theorem LaneReady.plainPlan (h : LaneReady s n w l hd) :
    Machine.plainPlan (ncx s n w) l (laneBad (ncx s n w)) f = f (ncx s n w) := by
  refine h.toNodeReady.plainPlan fun i hi => ?_
  have hk := h.kinds i hi
  have hw : (ncx s n w).w = w := rfl
  by_cases hc : w.t = true ∧ i = 2
  · rw [if_pos hc] at hk
    obtain ⟨ht, rfl⟩ := hc
    simp [laneBad, hw, ht, hk]
  · rw [if_neg hc] at hk
    simp [laneBad, hw, hc, hk]

end Ready

/-! ### Lane by lane (R215, R221, R225) -/

section Lanes
variable {i : Instr} {s : State} {n : Nat} {w : NodeW} {hd : Nat → Tok} {l : List Nat} {im : Option Nat} {f : Nat}

/-- The firing of a node that works lane by lane. -/
def lanesFire (c : NCx) (f : Nat) (l : List Nat) (im : Option Nat) (g : List Nat → Nat × Nat) : Fire :=
  dataFire c (laneNeeds c l im) (fmtWidth f) ((span 0 (fmtLanes f)).map (laneRes c f l im g))

theorem LaneReady.lanesPlan (h : LaneReady s n w (laneNeeds (ncx s n w) l im) hd) (g : List Nat → Nat × Nat) :
    Machine.lanesPlan f l im g (ncx s n w) = some (lanesFire (ncx s n w) f l im g) := by
  rw [Machine.lanesPlan, h.plainPlan]
  rfl

/-- An integer node fires with its operation in the format of the node. -/
theorem LaneReady.intFires {sat : Bool} {op : Nat → Int → Int → Int → Int} {op' : Int → Int → Int → Int}
    (h : LaneReady s n w (laneNeeds (ncx s n w) l im) hd) (hi : exec i s = fireNode (intPlan l im sat op) w s)
    (hop : op w.mode.toNat = op') :
    Fires i s n w (lanesFire (ncx s n w) w.mode.toNat l im (intLane w w.mode.toNat sat fun _ => op')) := by
  subst hop
  exact fires_of_plan h.focus hi (h.lanesPlan _)

/-- A floating-point node fires with its operation in the format of the node. -/
theorem LaneReady.fpFires {op op' : FF → Nat → Int → List FV → Nat → Nat × Nat}
    (h : LaneReady s n w (laneNeeds (ncx s n w) l im) hd) (hi : exec i s = fireNode (fpPlan l im op) w s)
    (hop : op (ffOf (fpFmt w)) (bitsOf w.mode.toNat 0 2) = op' (ffOf (fpFmt w)) (bitsOf w.mode.toNat 0 2)) :
    Fires i s n w (lanesFire (ncx s n w) (fpFmt w) l im (fpLane w op')) := by
  have hlane : fpLane w op = fpLane w op' := by
    funext xs
    simp only [fpLane, hop]
  exact hlane ▸ fires_of_plan h.focus hi (h.lanesPlan _)

end Lanes

/-! ### Comparison (R222) -/

section Compare
variable {c : NCx} {f : Nat}

/-- A property of lists that an entry put at the end keeps: the lane of the highest place comes last. -/
theorem concat_induction {V : Type} {P : List V → Prop} (nil : P []) (concat : ∀ l a, P l → P (l ++ [a])) (l : List V) : P l := by
  have hrev : ∀ m : List V, P m.reverse := by
    intro m
    induction m with
    | nil => exact nil
    | cons a m ih => exact List.reverse_cons ▸ concat m.reverse a ih
  exact l.reverse_reverse ▸ hrev l.reverse

/-- Whether a result lane is valid and not zero. -/
def laneSet (r : Nat × Nat × Bool) : Bool := r.2.2 && r.1 != 0

/-- The value of the CTRL token of a comparison: the sum of 2^k over the lanes k that are set. -/
def setSum (rs : List (Nat × Nat × Bool)) : Nat := rs.zipIdx.foldl (fun v e => if laneSet e.1 then v + 2 ^ e.2 else v) 0

theorem setSum_concat (rs : List (Nat × Nat × Bool)) (r : Nat × Nat × Bool) :
    setSum (rs ++ [r]) = if laneSet r then 2 ^ rs.length + setSum rs else setSum rs := by
  simp [setSum, List.zipIdx_append, Nat.add_comm]

theorem setSum_lt (rs : List (Nat × Nat × Bool)) : setSum rs < 2 ^ rs.length := by
  induction rs using concat_induction with
  | nil => simp [setSum]
  | concat rs r ih =>
    rw [setSum_concat, List.length_append, List.length_singleton, Nat.pow_succ]
    split <;> omega

/-- Each bit of the sum is the lane of its place. -/
theorem testBit_setSum {rs : List (Nat × Nat × Bool)} {k : Nat} (hk : k < rs.length) : (setSum rs).testBit k = laneSet rs[k] := by
  induction rs using concat_induction with
  | nil => simp at hk
  | concat rs r ih =>
    rw [setSum_concat]
    rw [List.length_append, List.length_singleton] at hk
    rcases Nat.lt_succ_iff_lt_or_eq.mp hk with hlt | rfl
    · rw [List.getElem_append_left hlt, ← ih hlt]
      split
      · exact Nat.testBit_two_pow_add_gt hlt _
      · rfl
    · have htop : (setSum rs).testBit rs.length = false := Nat.testBit_lt_two_pow (setSum_lt rs)
      rw [List.getElem_concat_length rfl]
      split
      · next hr => rw [Nat.testBit_two_pow_add_eq, htop, hr, Bool.not_false]
      · next hr => rw [htop, Bool.eq_false_iff.mpr hr]

/-- The result lanes of a comparison: all ones where the condition holds, else 0. -/
def cmpLanes (c : NCx) (f : Nat) (g : List Nat → Bool × Nat) : List (Nat × Nat × Bool) :=
  (span 0 (fmtLanes f)).map (laneRes c f [0, 1] (some 1) fun xs => (if (g xs).1 then 2 ^ fmtWidth f - 1 else 0, (g xs).2))

@[simp] theorem length_cmpLanes (g : List Nat → Bool × Nat) : (cmpLanes c f g).length = fmtLanes f := by
  simp [cmpLanes]

/-- Lane `k` is set where both operands are valid and the condition holds. -/
theorem laneSet_cmpLanes {g : List Nat → Bool × Nat} {k : Nat} (hk : k < (cmpLanes c f g).length) :
    laneSet (cmpLanes c f g)[k] = ((srcLane c f (some 1) k 0).2 && (srcLane c f (some 1) k 1).2 &&
      (g [(srcLane c f (some 1) k 0).1, (srcLane c f (some 1) k 1).1]).1) := by
  have hones : 2 ^ fmtWidth f - 1 ≠ 0 := Nat.ne_of_gt (Nat.sub_pos_of_lt (Nat.one_lt_two_pow (Nat.ne_of_gt (fmtWidth_pos f))))
  simp only [cmpLanes, List.getElem_map, getElem_span, Nat.zero_add, laneRes, List.map_cons, List.map_nil, List.all_cons, List.all_nil,
    Bool.and_true]
  cases (srcLane c f (some 1) k 0).2 && (srcLane c f (some 1) k 1).2 with
  | false => rfl
  | true => cases hg : (g [(srcLane c f (some 1) k 0).1, (srcLane c f (some 1) k 1).1]).1 <;> simp [laneSet, hones]

/-- The firing of a comparison that emits its lanes. -/
def cmpFire (c : NCx) (f : Nat) (g : List Nat → Bool × Nat) : Fire :=
  dataFire c (laneNeeds c [0, 1] (some 1)) (fmtWidth f) (cmpLanes c f g)

variable {i : Instr} {s : State} {n : Nat} {w : NodeW} {hd : Nat → Tok} {plan : NCx → Option Fire} {g : List Nat → Bool × Nat}

theorem LaneReady.cmpPlan (h : LaneReady s n w (laneNeeds (ncx s n w) [0, 1] (some 1)) hd) : Machine.cmpPlan f g (ncx s n w) =
    some (if bitOf w.imm.toNat 35 then { cmpFire (ncx s n w) f g with
      out0 := some (ctrlTok (setSum (cmpLanes (ncx s n w) f g))), out1 := some (ctrlTok (setSum (cmpLanes (ncx s n w) f g))) }
    else cmpFire (ncx s n w) f g) := by
  rw [Machine.cmpPlan, h.plainPlan]
  rfl

/-- A node whose plan compares fires with its lanes, or with one CTRL token of the lanes in which the condition holds. -/
theorem LaneReady.cmpFires (h : LaneReady s n w (laneNeeds (ncx s n w) [0, 1] (some 1)) hd)
    (hi : exec i s = fireNode plan w s) (hp : plan (ncx s n w) = Machine.cmpPlan f g (ncx s n w)) :
    (bitOf w.imm.toNat 35 = false → Fires i s n w (cmpFire (ncx s n w) f g)) ∧
    (bitOf w.imm.toNat 35 = true → ∃ v,
      Fires i s n w { cmpFire (ncx s n w) f g with out0 := some (ctrlTok v), out1 := some (ctrlTok v) } ∧ v < 2 ^ fmtLanes f ∧
        ∀ k < fmtLanes f, bitOf v k = ((srcLane (ncx s n w) f (some 1) k 0).2 && (srcLane (ncx s n w) f (some 1) k 1).2 &&
          (g [(srcLane (ncx s n w) f (some 1) k 0).1, (srcLane (ncx s n w) f (some 1) k 1).1]).1)) := by
  have hplan := hp.trans h.cmpPlan
  refine ⟨fun hct => ?_, fun hct => ⟨setSum (cmpLanes (ncx s n w) f g), ?_, ?_, fun k hk => ?_⟩⟩
  · exact fires_of_plan h.focus hi (hplan.trans (congrArg some (if_neg (Bool.eq_false_iff.mp hct))))
  · exact fires_of_plan h.focus hi (hplan.trans (congrArg some (if_pos hct)))
  · simpa using setSum_lt (cmpLanes (ncx s n w) f g)
  · have hk' : k < (cmpLanes (ncx s n w) f g).length := by simpa using hk
    rw [bitOf_eq_testBit, testBit_setSum hk', laneSet_cmpLanes]

end Compare

/-! ### Selection (R223) -/

section Select
variable {s : State} {n : Nat} {w : NodeW} {hd : Nat → Tok}

/-- The firing of SEL with `t` at IN_C. -/
def selFire (c : NCx) (t : Tok) : Fire :=
  let f := c.w.mode.toNat
  let ns := laneNeeds c [0, 1, 2] (some 1)
  if t.k = 6 then Fire.both c ns (wholeOf c f (if t.ctl ≠ 0 then 0 else 1))
  else lanesFire c f [0, 1, 2] (some 1) fun xs => (if nth 0 xs 2 ≠ 0 then nth 0 xs 0 else nth 0 xs 1, 0)

/-- SEL takes a CTRL token at IN_C, or DATA where that is no control input of a two-entry node. -/
theorem planNodeSel_of_ready (h : NodeReady s n w (laneNeeds (ncx s n w) [0, 1, 2] (some 1)) hd)
    (h2 : 2 ∈ laneNeeds (ncx s n w) [0, 1, 2] (some 1)) (hk : (hd 2).k = 6 ∨ (hd 2).k = 0 ∧ w.t = false)
    (hdata : ∀ i ∈ laneNeeds (ncx s n w) [0, 1, 2] (some 1), i ≠ 2 → (hd i).k = 0) :
    planNodeSel (ncx s n w) = some (selFire (ncx s n w) (hd 2)) := by
  have hw : (ncx s n w).w = w := rfl
  rw [planNodeSel, h.plainPlan fun i hi => ?_]
  · simp only [h.tops 2 h2, selFire, lanesFire, apply_ite some]
  · by_cases hi2 : i = 2
    · subst hi2
      rcases hk with hk | ⟨hk, ht⟩
      · cases ht : w.t <;> simp [hw, hk, ht]
      · simp [hw, hk, ht]
    · simp [hi2, hdata i hi hi2]

end Select

end Sys2Proof.Machine
end

section
/-!
PROOFS. O27: from the plans of the lane nodes to their firings.
-/
namespace Sys2Proof.Machine

/-- Settles O27, node by node: each plan works lane by lane with the operation stated, compares, or selects; and without N a lane is its operation
alone. -/
theorem arithmeticNodesFire : Obligations.ArithmeticNodesFire := by
  unfold Obligations.ArithmeticNodesFire
  refine ⟨fun s n w hd => ?int, fun s n w hd => ?fp⟩
  case int =>
    intro c f imm lanes ready wrap sat bitwise sh
    -- ADD to CLAMP, then ADDS and SUBS (R221)
    iterate 19 refine ⟨fun h => h.intFires rfl rfl, ?_⟩
    refine ⟨fun hn _ op x y z => ⟨?_, ?_⟩, ?cmp, ?sel⟩
    · exact intLane_of_plain hn f false (fun _ => op) x y z
    · exact intLane_of_plain hn f true (fun _ => op) x y z
    case cmp =>
      intro test d h
      exact h.cmpFires (plan := planNodeCmp) (g := fun xs => (test xs, 0)) rfl rfl
    case sel =>
      intro ns h h2 h0 hdata
      have hfires : ∀ {fire}, (hd 2).k = 6 ∨ (hd 2).k = 0 ∧ w.t = false → selFire c (hd 2) = fire → Fires (.nodeSel w) s n w fire :=
        fun hk e => fires_of_plan h.focus rfl ((planNodeSel_of_ready h h2 hk hdata).trans (congrArg some e))
      have hwhole : ∀ {t}, (hd 2).k = 6 → wholeOf c f (if (hd 2).ctl ≠ 0 then 0 else 1) = t → Fires (.nodeSel w) s n w (Fire.both c ns t) :=
        fun hk e => hfires (.inl hk) ((if_pos hk).trans (congrArg (Fire.both c ns) e))
      refine ⟨fun hk hc => hwhole hk ?_, fun hk hc h1 => hwhole hk ?_, fun hk hc hu => hwhole hk ?_, fun hk ht => ?_⟩
      · rw [if_pos hc]
        exact wholeOf_of_top (h.tops 0 h0) (.inr (by decide))
      · rw [if_neg (not_not_intro hc)]
        exact wholeOf_of_top (h.tops 1 h1) (.inl (useImm_of_needs_imm h1 (by decide)))
      · rw [if_neg (not_not_intro hc)]
        exact wholeOf_of_imm hu
      · exact hfires (.inr ⟨hk, ht⟩) (if_neg (by omega))
  case fp =>
    intro c f rm F im fires
    -- FADD to FMAX, FRCP to FLOG2, and FDIV (R225)
    iterate 11 refine ⟨fun h => h.fpFires rfl rfl, ?_⟩
    refine ⟨?fcmp, fun hn op x y z => fpLane_of_plain hn op [x, y, z]⟩
    case fcmp =>
      intro g d h
      exact h.cmpFires (plan := planNodeFcmp) (g := g) rfl rfl

end Sys2Proof.Machine
end
